-- ==== Sys2Proof/Word.lean ====
section
/-! DEFINITION. The words of the Igvin module: register, vector, predicate and byte widths (R58, R135). -/

namespace Sys2Proof

/-- A 64-bit scalar register value (R135). -/
abbrev Word := BitVec 64
/-- A 512-bit vector register value (R135). -/
abbrev Vec := BitVec 512
/-- A doubleword on its way, with whether it holds the ECC poison code, which travels with it (R12). -/
abbrev Dword := Word × Bool
/-- A byte of memory. -/
abbrev Byte := BitVec 8
/-- A five-bit register field naming s0-s31 or v0-v31 (R111). -/
abbrev RegNo := BitVec 5
/-- A three-bit field naming p0-p7 (R114). -/
abbrev PredNo := BitVec 3

end Sys2Proof
end

