-- ==== Sys2Proof/Machine/Aes.lean ====
section
/-! DEFINITION. AES-256 in XTS mode over one 256-byte line (R297, R298): the cipher of FIPS 197 and the mode of IEEE 1619
that R297 names. A byte is a number below 256. -/

namespace Sys2Proof.Aes

/-! ## The field of 256 elements -/

/-- A byte times x modulo x^8 + x^4 + x^3 + x + 1. -/
def xtime (a : Nat) : Nat := if a < 128 then 2 * a else (2 * a) ^^^ 0x11B

/-- The product of `a` with the `n` low bits of `b`. -/
def mulBits (a b : Nat) : Nat → Nat
  | 0 => 0
  | n + 1 => (if b % 2 = 1 then a else 0) ^^^ mulBits (xtime a) (b / 2) n

/-- The product of two bytes. -/
def mul (a b : Nat) : Nat := mulBits a b 8

/-- The inverse of a byte, 0 for 0: its 254th power. -/
def inv (a : Nat) : Nat :=
  let a2 := mul a a
  let a4 := mul a2 a2
  let a8 := mul a4 a4
  let a16 := mul a8 a8
  let a32 := mul a16 a16
  let a64 := mul a32 a32
  mul (mul (mul a2 a4) (mul a8 a16)) (mul (mul a32 a64) (mul a64 a64))

/-- A byte rotated left by `k`. -/
def rotl (a k : Nat) : Nat := a * 2 ^ k % 256 + a * 2 ^ k / 256

/-- The substitution of a byte. -/
def sub (a : Nat) : Nat :=
  let b := inv a
  b ^^^ rotl b 1 ^^^ rotl b 2 ^^^ rotl b 3 ^^^ rotl b 4 ^^^ 0x63

/-- The inverse substitution of a byte. -/
def unsub (a : Nat) : Nat := inv (rotl a 1 ^^^ rotl a 3 ^^^ rotl a 6 ^^^ 5)

/-! ## Rounds; a block is a list of 16 bytes, column by column -/

/-- Two lists of bytes, xored byte by byte. -/
def xors (a b : List Nat) : List Nat := List.zipWith (· ^^^ ·) a b

/-- Row r of a block moves r columns to the left. -/
def shiftRows (b : List Nat) : List Nat := (List.range 16).map fun i => b.getD ((i + 4 * (i % 4)) % 16) 0

/-- Row r of a block moves r columns to the right. -/
def unshiftRows (b : List Nat) : List Nat := (List.range 16).map fun i => b.getD ((i + 12 * (i % 4)) % 16) 0

/-- Each column times the circulant matrix whose first row is `m`. -/
def mixWith (m b : List Nat) : List Nat :=
  (List.range 16).map fun i =>
    (List.range 4).foldl (fun x k => x ^^^ mul (m.getD ((k + 4 - i % 4) % 4) 0) (b.getD (i / 4 * 4 + k) 0)) 0

/-- Mix the columns of a block. -/
def mix (b : List Nat) : List Nat := mixWith [2, 3, 1, 1] b

/-- Undo the mixing of columns. -/
def unmix (b : List Nat) : List Nat := mixWith [14, 11, 13, 9] b

/-- Grow the key schedule, latest word first, by `n` words. -/
def expand (ws : List (List Nat)) (rcon : Nat) : Nat → List (List Nat)
  | 0 => ws
  | n + 1 =>
    let i := ws.length
    let t := ws.headD []
    let t := if i % 8 = 0 then xors ((t.drop 1 ++ t.take 1).map sub) [rcon, 0, 0, 0] else if i % 8 = 4 then t.map sub else t
    expand (xors (ws.getD 7 []) t :: ws) (if i % 8 = 0 then xtime rcon else rcon) n

/-- The fifteen round keys of a key of 32 bytes. -/
def roundKeys (key : List Nat) : List (List Nat) :=
  let words := (List.range 8).map fun i => (key.drop (4 * i)).take 4
  let all := (expand words.reverse 1 52).reverse
  (List.range 15).map fun r => ((all.drop (4 * r)).take 4).flatten

/-- Encrypt a block under round keys. -/
def encrypt (ks : List (List Nat)) (b : List Nat) : List Nat :=
  let b := (ks.drop 1).take 13 |>.foldl (fun b k => xors (mix (shiftRows (b.map sub))) k) (xors b (ks.getD 0 []))
  xors (shiftRows (b.map sub)) (ks.getD 14 [])

/-- Decrypt a block under round keys. -/
def decrypt (ks : List (List Nat)) (b : List Nat) : List Nat :=
  let b := ((ks.drop 1).take 13).reverse.foldl (fun b k => unmix (xors ((unshiftRows b).map unsub) k)) (xors b (ks.getD 14 []))
  xors ((unshiftRows b).map unsub) (ks.getD 0 [])

/-! ## XTS over a line -/

/-- The low `n` bytes of a number, lowest first. -/
def bytesOf (v : Nat) : Nat → List Nat
  | 0 => []
  | n + 1 => v % 256 :: bytesOf (v / 256) n

/-- The number that bytes spell, lowest first. -/
def valueOf : List Nat → Nat
  | [] => 0
  | b :: bs => b + 256 * valueOf bs

/-- A tweak times the primitive element of the field of 2^128 elements. -/
def nextTweak (t : List Nat) : List Nat :=
  let v := 2 * valueOf t
  bytesOf (if v < 2 ^ 128 then v else (v - 2 ^ 128) ^^^ 0x87) 16

/-- Whiten, pass through `f` and whiten again each of `n` blocks, tweak after tweak. -/
def xtsBlocks (f : List Nat → List Nat) (t : List Nat) (d : List Nat) : Nat → List Nat
  | 0 => []
  | n + 1 => xors (f (xors (d.take 16) t)) t ++ xtsBlocks f (nextTweak t) (d.drop 16) n

/-- A line through XTS under a key pair, the data key in the low 32 bytes and the tweak key above; `unit` is the number
of the data unit. -/
def xts (enc : Bool) (pair unit : Nat) (d : List Nat) : List Nat :=
  let ks := roundKeys (bytesOf pair 32)
  let t := encrypt (roundKeys (bytesOf (pair / 2 ^ 256) 32)) (bytesOf unit 16)
  xtsBlocks (if enc then encrypt ks else decrypt ks) t d (d.length / 16)

/-- A line written under one tag as it reads under another (R298): tag 0 stands for no encryption, n + 1 for the key
pair n. -/
def recrypt (written read line : Nat) (d : List Byte) : List Byte :=
  let d := d.map (·.toNat)
  let c := if written = 0 then d else xts true (written - 1) line d
  ((if read = 0 then c else xts false (read - 1) line c)).map (BitVec.ofNat 8)

end Sys2Proof.Aes
end

