-- ==== Sys2Proof/Machine/Table.lean ====
section
/-! DEFINITION. Sparse tables keyed by a number: the form in which the state holds its register files, slots, cores and
other arrays of like things. A key that the table does not list holds the default the reader names. -/

namespace Sys2Proof

/-- A sparse table: pairs of a key and what stands there. -/
abbrev Table (α : Type) := List (Nat × α)

/-- What stands at `k`, or `d` where nothing has been placed. -/
def tget {α : Type} (d : α) : Table α → Nat → α
  | [], _ => d
  | (j, v) :: m, k => if k = j then v else tget d m k

/-- Place `v` at `k`, keys rising. -/
def tset {α : Type} : Table α → Nat → α → Table α
  | [], k, v => [(k, v)]
  | (j, w) :: m, k, v =>
    if k = j then (k, v) :: m
    else if k < j then (k, v) :: (j, w) :: m
    else (j, w) :: tset m k v

/-- Change what stands at `k`. -/
def tmod {α : Type} (d : α) (m : Table α) (k : Nat) (f : α → α) : Table α :=
  tset m k (f (tget d m k))

/-- What stands at `k`, if anything has been placed. -/
def tfind {α : Type} : Table α → Nat → Option α
  | [], _ => none
  | (j, v) :: m, k => if k = j then some v else tfind m k

/-- Remove the entry at `k`. -/
def tdel {α : Type} : Table α → Nat → Table α
  | [], _ => []
  | (j, v) :: m, k => if k = j then m else (j, v) :: tdel m k

end Sys2Proof
end

