-- ==== Sys2Proof/Syntax.lean ====
section
/-! DEFINITION. The abstract syntax: one constructor of `Instr` per row of the opcode table. The first 202 rows are
instructions of the barrel core (R109-R134), the next ten are tack instructions of a collective sequencer (R454), the
last 88 are the events of the other agents; an event carries the data its agent brings. -/

namespace Sys2Proof

/-- Access widths .b .h .w .d (R118, R126). -/
inductive Width where | byte | half | word | dword
  deriving DecidableEq, Repr
/-- Order key of a load (R118). -/
inductive LoadOrder where | page | acq | so
  deriving DecidableEq, Repr
/-- Order key of a store (R118). -/
inductive StoreOrder where | page | rel | so
  deriving DecidableEq, Repr
/-- Order key of an atomic (R120). -/
inductive AmoOrder where | page | acq | rel | acqrel
  deriving DecidableEq, Repr
/-- Comparison of `watch` (R121, R218). -/
inductive WatchCmp where | eq | ne | geu | ltu
  deriving DecidableEq, Repr
/-- Class of `wait` (R121, R224). -/
inductive WaitClass where | all | ld | st | amo | fab
  deriving DecidableEq, Repr
/-- Vector element type codes 0-7 (R124). -/
inductive VType where | f32 | bf16 | f16 | c64 | i8 | i16 | i32 | i64
  deriving DecidableEq, Repr
/-- MX element formats, codes 0-5 (R127). -/
inductive MxFmt where | e4m3 | e5m2 | e3m2 | e2m3 | e2m1 | mxi8
  deriving DecidableEq, Repr
/-- Formats of `mma`, codes 0-6 (R359). -/
inductive MmaFmt where | mx (f : MxFmt) | bf16
  deriving DecidableEq, Repr
/-- Rounding field RM: the legal values 0-4 (R69). -/
inductive Rm where | rne | rtz | rdn | rup | dyn
  deriving DecidableEq, Repr
/-- Element type of a yard and of an axis instruction (R131, R383). -/
inductive YType where | c64 | f32 | bf16
  deriving DecidableEq, Repr
/-- OP of a tack reduction (R454). -/
inductive TkOp where | sum | min | max | and | or
  deriving DecidableEq, Repr
/-- FMT of a tack reduction and RFMT of a multicast entry (R436, R454). -/
inductive TkFmt where | f32 | bf16 | f32p | i32 | i64
  deriving DecidableEq, Repr

/-- Header of a fabric or agreement packet as it reaches a port: sender, port of arrival, packet counter and the key its
tag was made with (R428). A tag verifies when that key is the key the receiver holds. -/
structure PktHdr where
  peer : Nat
  port : Nat
  ctr  : BitVec 64
  key  : BitVec 256
  deriving DecidableEq, Repr

/-- Operands of an incoming one-sided operation (R427, R433): the number under which its sender awaits the answer, the
sender's thread, its paddock's job tag. `addr` is the remote address, `data` the doublewords of a
put, `nw` the doublewords a get asks for, `sig` and `inc` the signal of `puts`, `opnd` the addend of `radd`. -/
structure FabReq where
  reqId : Nat
  tid   : Nat
  job   : BitVec 16
  addr  : BitVec 48
  data  : List Dword
  nw    : Nat
  sig   : BitVec 48
  inc   : BitVec 8
  opnd  : BitVec 64
  deriving DecidableEq, Repr

/-- Where an arriving fabric request comes from: operation `id` of this module toward itself (R432), another module, with
the header of each of its packets of at most 256 bytes (R428, R433), or one of those that has been accepted and waits here. -/
inductive FabSrc where
  | own (id : Nat)
  | peer (hs : List PktHdr) (q : FabReq)
  | held (id : Nat)
  deriving DecidableEq, Repr

/-- A multicast store or load as it reaches a member (R438, R440): its group, its offset, its sender's number for it, and for a
store the bytes by their offsets. -/
structure McastReq where
  group : Nat
  off   : Nat
  reqId : Nat
  data  : List (Nat × Byte)
  deriving DecidableEq, Repr

/-- Where one comes from: this module itself, another sender's packet, or one of those that has been accepted, as arrival `id`,
and waits here. -/
inductive McastSrc where
  | own
  | peer (h : PktHdr)
  | held (id : Nat)
  deriving DecidableEq, Repr

/-- Where an invalidation, or the answer to one, comes from (R272): this module itself, another module's packet, or one that
has been accepted from module `peer` and waits here. -/
inductive InvSrc where
  | own
  | packet (h : PktHdr)
  | held (peer : Nat)
  deriving DecidableEq, Repr

/-- An invalidation of the entries that serve `va`, or the answer to one (R272). -/
structure InvMsg where
  va  : BitVec 64
  src : InvSrc
  deriving DecidableEq, Repr

/-- What moves an exchange unit on (R395): the two writes of partners on this module; for a partner on another module its unit,
in packets, as bytes with the numbers of the doublewords that hold the poison code; or that partner's acknowledgement of its
own write. -/
inductive UnitStep where
  | own
  | data (hs : List PktHdr) (bytes : List Byte) (bad : List Nat)
  | ack (h : PktHdr)
  deriving DecidableEq, Repr

/-- Where a grab that reaches a feed bin comes from (R51, R275). -/
inductive GrabSrc where
  | own (id : Nat)
  | other (bin : Nat)
  deriving DecidableEq, Repr

/-- A yard access under way: element `k` of flight `id`, one that another module sent here, or one of those once its
packet has been accepted (R396, R428). `origin` is the module whose access it is, `reqId` its number there; `store` holds
the data of a store and whether it is the poison code. -/
inductive YardReq where
  | own (id k : Nat)
  | incoming (h : PktHdr) (origin reqId core index sub w : Nat) (store : Option Dword)
  | inside (origin reqId core index sub w : Nat) (store : Option Dword)
  deriving DecidableEq, Repr

/-- A `gjoin` of a member on another module, `peer`, as it reaches the group's id (R44, R241). -/
structure RemoteJoin where
  peer   : Nat
  index  : Nat
  count  : Nat
  absok  : Bool
  rooted : Bool
  deriving DecidableEq, Repr

/-- What reaches this module about the joins of an id (R44): the joins of other modules, and the indexes here that one of them
has shut out. -/
structure JoinNews where
  others : List RemoteJoin
  lost   : List Nat
  deriving DecidableEq, Repr

/-- The outcome of an agreement on its way to a member's register (R246, R442); `packet` is one that member 0's module has sent,
with the agreement's number and its outcome. -/
structure Resolution where
  slot   : BitVec 2
  packet : Option (PktHdr × Nat × Option Bool)
  deriving DecidableEq, Repr

/-- A refusal that comes back: its subcode, and the packet's header where another module sends it (R203, R428). -/
structure RemoteNak where
  sub : BitVec 8
  hdr : Option PktHdr
  deriving DecidableEq, Repr

/-- Where an active message comes from: an ingress slot of the host, or the hayloft, with its four words (R35, R36). -/
inductive MsgSrc where
  | ingress (slot : Nat)
  | hayloft (w0 w1 w2 w3 : BitVec 64)
  deriving DecidableEq, Repr

/-- A host write of `n` bytes to a register without behaviour of its own, or to CMD, CMDRES, BAR0 and BAR2 (R480, R482,
R486). -/
inductive RegWrite where
  | bar0 (off n : Nat) (data : BitVec 64)
  | bar2 (off n : Nat) (data : BitVec 64)
  deriving DecidableEq, Repr

/-- A PCI Express AtomicOp that the module completes (R479). -/
inductive BusAmo where
  | fetchAdd (x : BitVec 64)
  | swap (x : BitVec 64)
  | cas (cmp x : BitVec 64)
  deriving DecidableEq, Repr

/-- A window access of the host (R479, R481): a read of `n` bytes, a write of bytes, or an AtomicOp of 4 or 8 bytes. -/
inductive WinAccess where
  | read (off n : Nat)
  | write (off : Nat) (data : List Byte)
  | atomic (off w : Nat) (op : BusAmo)
  deriving DecidableEq, Repr

/-- A response to a fabric operation that left the module (R433, R434). -/
inductive FabResp where
  | ok (data : List Dword)
  | refused (sub : BitVec 8)
  deriving DecidableEq, Repr

/-- A response with the headers of its packets (R428, R433). -/
structure FabAnswer where
  resp : FabResp
  hs   : List PktHdr
  deriving DecidableEq, Repr

/-- How many members of a group have acknowledged a multicast store, and how many have refused it (R439). -/
structure AckCounts where
  group : Nat
  pos : Nat
  neg : Nat
  deriving DecidableEq, Repr

/-- What a multicast load brings back from a group: the members' values, none for a poisoned one, or the first refusal (R440). -/
structure McastFold where
  group : Nat
  vals : List (Option (BitVec 64))
  nak  : Option (BitVec 8)
  deriving DecidableEq, Repr

/-- The answer a tack operation toward another module receives (R457, R460, R462); a doubleword of a reduced chunk comes with
whether it holds the poison code. -/
inductive TackResp where
  | landed
  | notReady
  | refused (sub : BitVec 8)
  | reduced (data : List Dword)
  deriving DecidableEq, Repr

/-- Such an answer with the headers of its packets, and the multicast group whose switches send it, where they do; no header for
the part of this module itself (R428, R457, R460). -/
structure TackAnswer where
  resp  : TackResp
  group : Option Nat
  hs   : List PktHdr
  deriving DecidableEq, Repr

/-- One instruction or event: one constructor per row of the opcode table, in the table's order. -/
inductive Instr where
  -- OPR (R117, R158)
  | add (w : Bool) (p : PredNo) (d a b : RegNo)
  | sub (w : Bool) (p : PredNo) (d a b : RegNo)
  | and (w : Bool) (p : PredNo) (d a b : RegNo)
  | or (w : Bool) (p : PredNo) (d a b : RegNo)
  | xor (w : Bool) (p : PredNo) (d a b : RegNo)
  | shl (w : Bool) (p : PredNo) (d a b : RegNo)
  | shr (w : Bool) (p : PredNo) (d a b : RegNo)
  | sar (w : Bool) (p : PredNo) (d a b : RegNo)
  | slt (w : Bool) (p : PredNo) (d a b : RegNo)
  | sltu (w : Bool) (p : PredNo) (d a b : RegNo)
  | mul (p : PredNo) (d a b : RegNo)
  | mulh (p : PredNo) (d a b : RegNo)
  | mulhu (p : PredNo) (d a b : RegNo)
  | div (p : PredNo) (d a b : RegNo)
  | divu (p : PredNo) (d a b : RegNo)
  | rem (p : PredNo) (d a b : RegNo)
  | remu (p : PredNo) (d a b : RegNo)
  | min (p : PredNo) (d a b : RegNo)
  | max (p : PredNo) (d a b : RegNo)
  | minu (p : PredNo) (d a b : RegNo)
  | maxu (p : PredNo) (d a b : RegNo)
  | popc (w : Bool) (p : PredNo) (d a : RegNo)
  | clz (w : Bool) (p : PredNo) (d a : RegNo)
  | ctz (w : Bool) (p : PredNo) (d a : RegNo)
  | brev (p : PredNo) (d a : RegNo)
  | bfx (p : PredNo) (d a b : RegNo)
  | bfi (p : PredNo) (d a b : RegNo)
  | andn (p : PredNo) (d a b : RegNo)
  | orn (p : PredNo) (d a b : RegNo)
  | rol (w : Bool) (p : PredNo) (d a b : RegNo)
  | ror (w : Bool) (p : PredNo) (d a b : RegNo)
  | bswap (p : PredNo) (d a : RegNo)
  -- immediate majors (R112, R162-R164)
  | addi (d a : RegNo) (imm : BitVec 16)
  | andi (d a : RegNo) (imm : BitVec 16)
  | ori (d a : RegNo) (imm : BitVec 16)
  | xori (d a : RegNo) (imm : BitVec 16)
  | slti (d a : RegNo) (imm : BitVec 16)
  | shli (w : Bool) (amt : BitVec 6) (d a : RegNo)
  | shri (w : Bool) (amt : BitVec 6) (d a : RegNo)
  | sari (w : Bool) (amt : BitVec 6) (d a : RegNo)
  | rori (w : Bool) (amt : BitVec 6) (d a : RegNo)
  | lhi (d : RegNo) (imm : BitVec 21)
  | addpc (d : RegNo) (imm : BitVec 21)
  -- jumps, branches, loops (R165-R172)
  | jal (d : RegNo) (imm : BitVec 21)
  | jalr (d a : RegNo) (imm : BitVec 16)
  | beq (a b : RegNo) (off : BitVec 12)
  | bne (a b : RegNo) (off : BitVec 12)
  | blt (a b : RegNo) (off : BitVec 12)
  | bge (a b : RegNo) (off : BitVec 12)
  | bltu (a b : RegNo) (off : BitVec 12)
  | bgeu (a b : RegNo) (off : BitVec 12)
  | bbs (a b : RegNo) (off : BitVec 12)
  | bbc (a b : RegNo) (off : BitVec 12)
  | bany (a : PredNo) (off : BitVec 12)
  | ball (a : PredNo) (off : BitVec 12)
  | bnone (a : PredNo) (off : BitVec 12)
  | loopi (len : BitVec 10) (count : BitVec 15)
  | loops (len : BitVec 10) (dim : BitVec 2) (d a : RegNo)
  -- scalar memory (R118, R120, R207-R214)
  | ld (p : PredNo) (off : BitVec 8) (ord : LoadOrder) (zx : Bool) (w : Width) (d base : RegNo)
  | st (p : PredNo) (off : BitVec 8) (ord : StoreOrder) (w : Width) (a base : RegNo)
  | amoswap (p : PredNo) (posted : Bool) (ord : AmoOrder) (w : Bool) (d a base : RegNo)
  | amoadd (p : PredNo) (posted : Bool) (ord : AmoOrder) (w : Bool) (d a base : RegNo)
  | amoand (p : PredNo) (posted : Bool) (ord : AmoOrder) (w : Bool) (d a base : RegNo)
  | amoor (p : PredNo) (posted : Bool) (ord : AmoOrder) (w : Bool) (d a base : RegNo)
  | amoxor (p : PredNo) (posted : Bool) (ord : AmoOrder) (w : Bool) (d a base : RegNo)
  | amomin (p : PredNo) (posted : Bool) (ord : AmoOrder) (w : Bool) (d a base : RegNo)
  | amomax (p : PredNo) (posted : Bool) (ord : AmoOrder) (w : Bool) (d a base : RegNo)
  | amominu (p : PredNo) (posted : Bool) (ord : AmoOrder) (w : Bool) (d a base : RegNo)
  | amomaxu (p : PredNo) (posted : Bool) (ord : AmoOrder) (w : Bool) (d a base : RegNo)
  | amocas (p : PredNo) (ord : AmoOrder) (w : Bool) (d a base : RegNo)
  | amofadd (p : PredNo) (posted : Bool) (ord : AmoOrder) (d a base : RegNo)
  -- SYNC (R121, R215-R225)
  | fence (p : PredNo) (a : RegNo)
  | fenceLb (p : PredNo)
  | watch (p : PredNo) (cmp : WatchCmp) (a b : RegNo)
  | barArr (p : PredNo) (a : RegNo)
  | barWait (p : PredNo) (a b : RegNo)
  | mput (p : PredNo) (a : RegNo) (mbox : BitVec 3)
  | mget (p : PredNo) (d : RegNo) (mbox : BitVec 3)
  | wait (p : PredNo) (cls : WaitClass)
  | twaitSrc (p : PredNo) (a : RegNo)
  | twaitVis (p : PredNo) (a : RegNo)
  -- VOP (R124, R180)
  | vadd (p : PredNo) (ty : VType) (d a b : RegNo)
  | vsub (p : PredNo) (ty : VType) (d a b : RegNo)
  | vmul (p : PredNo) (ty : VType) (d a b : RegNo)
  | vcmul (p : PredNo) (d a b : RegNo)
  | vmax (p : PredNo) (ty : VType) (d a b : RegNo)
  | vmin (p : PredNo) (ty : VType) (d a b : RegNo)
  | vmaxUnsigned (p : PredNo) (ty : VType) (d a b : RegNo)
  | vminUnsigned (p : PredNo) (ty : VType) (d a b : RegNo)
  | vneg (p : PredNo) (ty : VType) (d a : RegNo)
  | vabs (p : PredNo) (ty : VType) (d a : RegNo)
  | vshl (p : PredNo) (ty : VType) (d a b : RegNo)
  | vshr (p : PredNo) (ty : VType) (d a b : RegNo)
  | vsar (p : PredNo) (ty : VType) (d a b : RegNo)
  | vand (p : PredNo) (d a b : RegNo)
  | vor (p : PredNo) (d a b : RegNo)
  | vxor (p : PredNo) (d a b : RegNo)
  | vmov (p : PredNo) (d a : RegNo)
  | vdiv (p : PredNo) (ty : VType) (d a b : RegNo)
  | vsqrt (p : PredNo) (ty : VType) (d a : RegNo)
  | vconj (p : PredNo) (d a : RegNo)
  | vadds (p : PredNo) (ty : VType) (d a b : RegNo)
  | vsubs (p : PredNo) (ty : VType) (d a b : RegNo)
  -- VFMA (R125, R185)
  | vfma (p : PredNo) (rm : Rm) (ty : VType) (d a b : RegNo)
  | vfms (p : PredNo) (rm : Rm) (ty : VType) (d a b : RegNo)
  | vfnma (p : PredNo) (rm : Rm) (ty : VType) (d a b : RegNo)
  | vfnms (p : PredNo) (rm : Rm) (ty : VType) (d a b : RegNo)
  -- VMEM (R126, R209-R211)
  | vld (p : PredNo) (w : Width) (ord : LoadOrder) (d base x : RegNo)
  | vlds (p : PredNo) (w : Width) (ord : LoadOrder) (d base x : RegNo)
  | vldx (p : PredNo) (w : Width) (ord : LoadOrder) (d base x : RegNo)
  | vst (p : PredNo) (w : Width) (ord : StoreOrder) (a base x : RegNo)
  | vsts (p : PredNo) (w : Width) (ord : StoreOrder) (a base x : RegNo)
  | vstx (p : PredNo) (w : Width) (ord : StoreOrder) (a base x : RegNo)
  -- VMISC (R127, R187-R198)
  | vcmpeq (p : PredNo) (ty : VType) (d : PredNo) (a b : RegNo)
  | vcmpne (p : PredNo) (ty : VType) (d : PredNo) (a b : RegNo)
  | vcmplt (p : PredNo) (ty : VType) (d : PredNo) (a b : RegNo)
  | vcmple (p : PredNo) (ty : VType) (d : PredNo) (a b : RegNo)
  | vcmpltUnsigned (p : PredNo) (ty : VType) (d : PredNo) (a b : RegNo)
  | vcmpleUnsigned (p : PredNo) (ty : VType) (d : PredNo) (a b : RegNo)
  | vcmpun (p : PredNo) (ty : VType) (d : PredNo) (a b : RegNo)
  | vcvt (p : PredNo) (dt st : VType) (rm : Rm) (d a : RegNo)
  | vbcast (p : PredNo) (w : Width) (d a : RegNo)
  | vext (p : PredNo) (w : Width) (d a b : RegNo)
  | vins (p : PredNo) (w : Width) (d a b : RegNo)
  | vperm (p : PredNo) (d a b : RegNo)
  | vsel (p : PredNo) (d a b : RegNo)
  | vslideup (p : PredNo) (d a b : RegNo)
  | vslidedn (p : PredNo) (d a b : RegNo)
  | pand (d a b : PredNo)
  | por (d a b : PredNo)
  | pxor (d a b : PredNo)
  | pnot (d a : PredNo)
  | pmov (d : PredNo) (a : RegNo)
  | pget (d : RegNo) (a : PredNo)
  | pcnt (d : RegNo) (a : PredNo)
  | pfirst (d : RegNo) (a : PredNo)
  | vredadd (p : PredNo) (ty : VType) (d a : RegNo)
  | vredmax (p : PredNo) (ty : VType) (d a : RegNo)
  | vredmin (p : PredNo) (ty : VType) (d a : RegNo)
  | vpack (p : PredNo) (fmt : MxFmt) (rm : Rm) (d a : RegNo)
  | vunpk (p : PredNo) (fmt : MxFmt) (d a b : RegNo)
  -- 16-bit lane forms (R133)
  | vaddN (p : PredNo) (vd va : BitVec 4)
  | vsubN (p : PredNo) (vd va : BitVec 4)
  | vmulN (p : PredNo) (vd va : BitVec 4)
  | vmaxN (p : PredNo) (vd va : BitVec 4)
  | vminN (p : PredNo) (vd va : BitVec 4)
  | vnegN (p : PredNo) (vd va : BitVec 4)
  | vabsN (p : PredNo) (vd va : BitVec 4)
  | vaddI32N (p : PredNo) (vd va : BitVec 4)
  | vsubI32N (p : PredNo) (vd va : BitVec 4)
  | vmulI32N (p : PredNo) (vd va : BitVec 4)
  | vshlI32N (p : PredNo) (vd va : BitVec 4)
  | vandN (p : PredNo) (vd va : BitVec 4)
  | vorN (p : PredNo) (vd va : BitVec 4)
  | vxorN (p : PredNo) (vd va : BitVec 4)
  | vmovN (p : PredNo) (vd va : BitVec 4)
  | vcmulC64N (p : PredNo) (vd va : BitVec 4)
  -- MSG (R128, R229-R239)
  | sendm (p : PredNo) (a b : RegNo)
  | recvm (p : PredNo) (d a : RegNo)
  | rcall (p : PredNo) (d a b : RegNo)
  | rret (p : PredNo) (d a b : RegNo)
  | rgrab (p : PredNo) (d a : RegNo)
  -- GROUP (R129, R240-R247)
  | gjoin (slot : BitVec 2) (a b : RegNo)
  | gleave (slot : BitVec 2)
  | ginfo (slot : BitVec 2) (d : RegNo)
  | gabsent (slot : BitVec 2)
  | cbrAll (off : BitVec 11) (hint : Bool) (bit : BitVec 6) (p : PredNo) (slot : BitVec 2)
  | cbrAny (off : BitVec 11) (hint : Bool) (bit : BitVec 6) (p : PredNo) (slot : BitVec 2)
  -- CPY (R331)
  | cpy (p : PredNo) (ctl base scope : RegNo)
  | cpyBar (p : PredNo) (ctl base scope : RegNo)
  -- TILE (R130)
  | mma (p : PredNo) (fmt : MmaFmt) (pb : BitVec 4) (a b : RegNo)
  | msacc (p : PredNo) (z : BitVec 3) (pb : BitVec 4) (b : RegNo)
  | msaccV (p : PredNo) (z : BitVec 3) (pb : BitVec 4) (b : RegNo)
  | mzero (p : PredNo) (z : BitVec 3)
  | mldz (p : PredNo) (z : BitVec 3) (a : RegNo)
  | mstz (p : PredNo) (bf : Bool) (rm : Rm) (z : BitVec 3) (a : RegNo)
  | mcommit (p : PredNo)
  | mwait (p : PredNo) (n : BitVec 5)
  | mresume (p : PredNo) (a : RegNo)
  | mvs (p : PredNo) (fmt : MxFmt) (pb : BitVec 4) (a b : RegNo)
  -- YARD (R131)
  | ycfg (a : RegNo)
  | yswap (r l : BitVec 6)
  | ywant (two : Bool) (b0 b1 : BitVec 6)
  | ysync
  | ygen (d : RegNo)
  | axa (ty : YType) (d a b : RegNo)
  | axd (ty : YType) (a b : RegNo)
  | axs (ty : YType) (axpy : Bool) (a b : RegNo)
  | axn (ty : YType) (d : RegNo)
  -- FAB (R128, R432, R452)
  | put (p : PredNo) (d a : RegNo)
  | puts (p : PredNo) (d a b : RegNo)
  | get (p : PredNo) (d a : RegNo)
  | radd (p : PredNo) (d a b : RegNo)
  | coll (p : PredNo) (d a b : RegNo)
  -- SYS (R132, R267)
  | exit (p : PredNo)
  | trap (p : PredNo)
  | tret (p : PredNo)
  | srd (p : PredNo) (d : RegNo) (num : BitVec 10)
  | swr (p : PredNo) (a : RegNo) (num : BitVec 10)
  | ctxs (p : PredNo) (a : RegNo)
  | ctxr (p : PredNo) (halt : Bool) (a : RegNo)
  | tinv (p : PredNo) (a b : RegNo)
  -- tack instructions (R454)
  | tkSend (rs1 rs2 : RegNo)
  | tkRecv (rd rs1 rs2 : RegNo)
  | tkRecvAny (rd rs1 : RegNo)
  | tkCopy (rs1 rs2 : RegNo)
  | tkWait (rs1 rs2 : RegNo)
  | tkSig (rs1 rs2 : RegNo)
  | tkFlush
  | tkDone (rs1 : RegNo)
  | tkRed (op : TkOp) (fmt : TkFmt) (rs1 rs2 : RegNo)
  | tkReds (op : TkOp) (fmt : TkFmt) (rs1 : RegNo)
  -- events: launch (R35-R42, R482-R484)
  | ingressDoorbell (slot : Nat)
  | activeMessageArrival (src : MsgSrc) (core : Nat)
  | contextStart (core : Nat)
  | acceptWordWrite (slot : Nat)
  | contextEnd (tid : Nat)
  -- events: groups (R43-R46)
  | joinComplete (gid : BitVec 48) (news : JoinNews)
  | groupTimeout (gid : BitVec 48)
  | groupDissolved (gid : BitVec 48) (left : List Nat)
  -- events: feed bins and registers (R49-R51, R7)
  | feedBinArm (id part : Nat)
  | feedBinDisarm (id part : Nat)
  | feedBinGrab (src : GrabSrc)
  | registerWrite (r : RegWrite)
  -- events: accesses (R200-R206, R303-R305)
  | accessPerform (id part : Nat) (host : List (Nat × Byte))
  | remoteResultArrival (id : Nat) (ext : Option (PktHdr × List Dword))
  | remoteRefusal (id : Nat) (r : RemoteNak)
  -- events: messages and calls (R231-R238)
  | messageDelivery (id : Nat)
  | callDelivery (id : Nat)
  | callReply (id : Nat)
  -- events: agreement (R246-R255, R441-R443)
  | agreementContribution (gid : BitVec 48) (ordinal : Nat) (members : List Nat) (any value : Bool) (hdr : Option PktHdr)
  | agreementResolution (tid : Nat) (out : Resolution)
  | penDrain (tid : Nat)
  | commitBufferRelease (tid : Nat)
  | specLimit (tid : Nat)
  -- events: interrupts, receive cycles, spill (R262-R277)
  | interruptTake
  | timerTick (paddock : Nat)
  | receiveThreshold (tid : Nat)
  | recvProbe (id : Nat)
  | recvStrike (id : Nat)
  | spill (core : Nat)
  -- events: translation and the window (R299-R301, R481)
  | pageWalk (core : Nat) (va : BitVec 64)
  | tlbInvalidation (core : Nat) (m : InvMsg)
  | bar4WindowAccess (a : WinAccess)
  -- events: copy engine (R330-R345)
  | copyStart (core : Nat)
  | copySrc (core : Nat)
  | copyVis (core id : Nat)
  | copyFault (core id : Nat)
  -- events: tile engine (R353-R371)
  | tileCommandStart (core entry : Nat)
  | tileCommandComplete (core entry : Nat)
  | tileCommandStop (core entry done : Nat)
  | tileFault
  -- events: yard (R394-R419)
  | swapHandshake (core : Nat) (partner : Option (PktHdr × BitVec 48 × Nat × Nat × Nat))
  | exchangeUnitStart (core : Nat)
  | exchangeUnitComplete (core : Nat) (step : UnitStep)
  | yardAccessForward (req : YardReq)
  | axisCommandComplete (core : Nat)
  | yardEnd (core : Nat)
  -- events: fabric (R427-R440)
  | fabricPutArrival (src : FabSrc)
  | fabricPutsArrival (src : FabSrc)
  | fabricGetArrival (src : FabSrc)
  | fabricRaddArrival (src : FabSrc)
  | fabricResponse (id : Nat) (r : FabAnswer)
  | fabricTimeout (id : Nat)
  | multicastReplica (group off : Nat) (src : McastSrc) (reqId : Nat) (data : List (Nat × Byte))
  | multicastAck (id : Nat) (n : AckCounts) (naks : List (Nat × BitVec 8)) (hdr : PktHdr)
  | multicastLoadCollect (group off : Nat) (src : McastSrc) (reqId : Nat)
  | multicastLoadResult (id : Nat) (r : McastFold) (hdr : PktHdr)
  | capabilityExchange (peer : Nat) (rev cap : BitVec 8) (hdr : PktHdr)
  -- events: sequencers (R453-R467)
  | invocationStart (seq : Nat)
  | chunkArrival (seq : Nat) (peer peerSeq : Nat) (tag : BitVec 16) (buf chunk : Nat) (data : List Dword) (hs : List PktHdr)
  | tackSendRetry (seq op : Nat)
  | tackSendTimeout (seq op : Nat)
  | signalArrival (seq : Nat) (peer peerSeq : Nat) (tag : BitVec 16) (buf chunk : Nat) (inc : BitVec 64) (hdr : PktHdr)
  -- events: hayloft commands (R486, R487)
  | paddockSet
  | paddockClear
  | preempt
  | swap
  | resume
  | threadEnd
  | interrupt
  | hashgrpSet
  | mkeyLoad
  | fkeyLoad
  | peerSet
  | mcastSet
  | tackLoad
  | debugAddr
  | attest
  | update
  -- events: boot, sensors, log (R488-R494)
  | moduleReset (trained : Bool)
  | islandSensorRefresh (island : Nat) (temp curr volt : BitVec 16) (below1ms : Bool)
  | logFlashCopy
  -- events: the rest
  | illegalEncoding (bits : BitVec 32)
  | uncorrectableEccError (place : Nat)
  | sequencerRv64Instruction (bits : BitVec 32)
  | tackOperationPerformed (seq op : Nat) (r : TackAnswer)
  | copyDestinationRelease (core id : Nat)
  | tileSourceRelease (core entry : Nat)
  | exportEntryWrite (paddock entry : Nat) (w0 w1 : BitVec 64)
  deriving DecidableEq, Repr

end Sys2Proof
end

