-- ==== Sys2Proof/Machine/Float.lean ====
section
/-! DEFINITION. Number formats and exact arithmetic (R58-R84). Values are exact dyadic numbers; every rounding is one call
of `roundFmt`. -/

namespace Sys2Proof.Machine

/-- Exception flags, laid out as FFLAGS (R71). -/
abbrev Flags := BitVec 6
def Flags.nx : Flags := 1
def Flags.uf : Flags := 2
def Flags.of : Flags := 4
def Flags.dz : Flags := 8
def Flags.nv : Flags := 16
def Flags.sat : Flags := 32

/-- The flags `f` when `c` holds, else none. -/
def Flags.when (c : Bool) (f : Flags) : Flags := if c then f else 0

/-- A value read from a format: NaN, an infinity, or (−1)^neg × m × 2^e exactly. -/
inductive Num where
  | nan
  | inf (neg : Bool)
  | fin (neg : Bool) (m : Nat) (e : Int)
  deriving DecidableEq, Repr

/-- A binary format by its exponent and mantissa widths (R60). -/
structure Fmt where
  eb : Nat
  mb : Nat
  deriving DecidableEq, Repr

def Fmt.f32 : Fmt := ⟨8, 23⟩
def Fmt.bf16 : Fmt := ⟨8, 7⟩
def Fmt.f16 : Fmt := ⟨5, 10⟩

/-- The exponent bias. -/
def Fmt.bias (f : Fmt) : Int := 2 ^ (f.eb - 1) - 1
/-- The exponent of the last bit of a subnormal. -/
def Fmt.emin (f : Fmt) : Int := 1 - f.bias - f.mb
/-- The sign bit's weight. -/
def Fmt.signBit (f : Fmt) : Nat := 2 ^ (f.eb + f.mb)
/-- The bits of +∞. -/
def Fmt.infBits (f : Fmt) : Nat := (2 ^ f.eb - 1) * 2 ^ f.mb
/-- The canonical NaN (R60). -/
def Fmt.nanBits (f : Fmt) : Nat := f.infBits + 2 ^ (f.mb - 1)
/-- A sign as bits. -/
def Fmt.sign (f : Fmt) (neg : Bool) : Nat := if neg then f.signBit else 0

/-- The value of a bit pattern (R60, R62). -/
def Fmt.num (f : Fmt) (bits : Nat) : Num :=
  let neg := bits / f.signBit % 2 == 1
  let ex := bits / 2 ^ f.mb % 2 ^ f.eb
  let m := bits % 2 ^ f.mb
  if ex = 2 ^ f.eb - 1 then (if m = 0 then .inf neg else .nan)
  else if ex = 0 then .fin neg m f.emin
  else .fin neg (m + 2 ^ f.mb) (f.emin + (ex - 1 : Nat))

/-- A signalling NaN (R61). -/
def Fmt.isSnan (f : Fmt) (bits : Nat) : Bool :=
  f.num bits == .nan && bits / 2 ^ (f.mb - 1) % 2 == 0

/-- Is a magnitude cut `s` bits down rounded up? `k` is the kept part, `rem` what is cut, of `s` bits. -/
def roundsUp (rm : Rm) (neg : Bool) (k rem s : Nat) : Bool :=
  match rm with
  | .rne | .dyn => decide (2 ^ s < 2 * rem) || (decide (2 * rem = 2 ^ s) && k % 2 == 1)
  | .rtz => false
  | .rdn => neg && decide (rem ≠ 0)
  | .rup => !neg && decide (rem ≠ 0)

/-- Cut m × 2^e at exponent `q`: the kept multiple of 2^q and whether anything was lost. -/
def cutAt (rm : Rm) (neg : Bool) (m : Nat) (e q : Int) : Nat × Bool :=
  if q ≤ e then (m * 2 ^ (e - q).toNat, false)
  else
    let s := (q - e).toNat
    let k := m / 2 ^ s
    let rem := m % 2 ^ s
    (k + (if roundsUp rm neg k rem s then 1 else 0), decide (rem ≠ 0))

/-- The exponent of the last kept bit when m × 2^e (m > 0) is cut to `p` bits with no exponent limit. -/
def lastExp (p m : Nat) (e : Int) : Int := e + (Nat.log2 m + 1 : Nat) - p

/-- `roundFmt` on a non-zero finite magnitude: the bits and flags (R73). -/
def roundMag (f : Fmt) (rm : Rm) (neg : Bool) (m : Nat) (e : Int) : Nat × Flags :=
  let p := f.mb + 1
  let qu := lastExp p m e
  let q := max qu f.emin
  let (k, lost) := cutAt rm neg m e q
  let (ku, _) := cutAt rm neg m e qu
  -- tininess after rounding, with the exponent range unbounded below
  let tiny := decide (qu < f.emin) && !(decide (qu + 1 = f.emin) && decide (ku = 2 ^ p))
  let bits :=
    if k < 2 ^ f.mb then k
    else if k = 2 ^ p then ((q - f.emin).toNat + 2) * 2 ^ f.mb
    else ((q - f.emin).toNat + 1) * 2 ^ f.mb + (k - 2 ^ f.mb)
  if f.infBits ≤ bits then
    let toInf := match rm with
      | .rne | .dyn => true
      | .rtz => false
      | .rdn => neg
      | .rup => !neg
    (f.sign neg + (if toInf then f.infBits else f.infBits - 1), Flags.of ||| Flags.nx)
  else
    (f.sign neg + bits, Flags.when lost .nx ||| Flags.when (lost && tiny) .uf)

/-- `round_fmt` (R73): the bits of `x` in format `f` and the flags. A zero keeps the sign it is given (R74). -/
def roundFmt (f : Fmt) (rm : Rm) : Num → Nat × Flags
  | .nan => (f.nanBits, 0)
  | .inf neg => (f.sign neg + f.infBits, 0)
  | .fin neg m e => if m = 0 then (f.sign neg, 0) else roundMag f rm neg m e

/-! ## Exact operations -/

/-- The sign of an exactly zero sum whose terms have the signs given (R74). -/
def zeroSign (rm : Rm) (allNegZero : Bool) : Bool := allNegZero || rm == .rdn

/-- Magnitude and sign as an integer multiple of 2^e. -/
def signed (neg : Bool) (m : Nat) : Int := if neg then -(m : Int) else m

/-- The exact sum of two values, with NV for opposite infinities (R178). -/
def Num.add (rm : Rm) : Num → Num → Num × Flags
  | .nan, _ => (.nan, 0)
  | _, .nan => (.nan, 0)
  | .inf a, .inf b => if a = b then (.inf a, 0) else (.nan, .nv)
  | .inf a, .fin .. => (.inf a, 0)
  | .fin .., .inf b => (.inf b, 0)
  | .fin na ma ea, .fin nb mb eb =>
    let e := min ea eb
    let t := signed na (ma * 2 ^ (ea - e).toNat) + signed nb (mb * 2 ^ (eb - e).toNat)
    if t = 0 then (.fin (zeroSign rm (decide (ma = 0) && decide (mb = 0) && na && nb)) 0 0, 0)
    else (.fin (decide (t < 0)) t.natAbs e, 0)

/-- The value with its sign changed. -/
def Num.neg : Num → Num
  | .nan => .nan
  | .inf n => .inf !n
  | .fin n m e => .fin (!n) m e

/-- The exact product, with NV for ∞ × 0 (R178). -/
def Num.mul : Num → Num → Num × Flags
  | .nan, _ => (.nan, 0)
  | _, .nan => (.nan, 0)
  | .inf a, .inf b => (.inf (a != b), 0)
  | .inf a, .fin n m _ => if m = 0 then (.nan, .nv) else (.inf (a != n), 0)
  | .fin n m _, .inf a => if m = 0 then (.nan, .nv) else (.inf (a != n), 0)
  | .fin na ma ea, .fin nb mb eb => (.fin (na != nb) (ma * mb) (ea + eb), 0)

/-- The quotient cut to 70 bits or more with a sticky last bit, exact enough for one rounding to any format here. -/
def Num.div : Num → Num → Num × Flags
  | .nan, _ => (.nan, 0)
  | _, .nan => (.nan, 0)
  | .inf _, .inf _ => (.nan, .nv)
  | .inf a, .fin n _ _ => (.inf (a != n), 0)
  | .fin n _ _, .inf a => (.fin (n != a) 0 0, 0)
  | .fin na ma ea, .fin nb mb eb =>
    if mb = 0 then (if ma = 0 then (.nan, .nv) else (.inf (na != nb), .dz))
    else
      let k := Nat.log2 mb + 70
      let q := ma * 2 ^ k / mb
      let sticky := if ma * 2 ^ k % mb = 0 then 0 else 1
      (.fin (na != nb) (2 * q + sticky) (ea - eb - k - 1), 0)

/-- Integer square root, by bits from the top. -/
def isqrtFrom (n : Nat) : Nat → Nat → Nat
  | 0, r => r
  | k + 1, r => let t := r + 2 ^ k; isqrtFrom n k (if t * t ≤ n then t else r)

/-- The square root cut with a sticky last bit. -/
def Num.sqrt : Num → Num × Flags
  | .nan => (.nan, 0)
  | .inf n => if n then (.nan, .nv) else (.inf false, 0)
  | .fin n m e =>
    if m = 0 then (.fin n 0 0, 0)
    else if n then (.nan, .nv)
    else
      -- m × 2^e = (m × 2^s) × 2^(e − s) with e − s even
      let s := 140 + (e.emod 2).toNat
      let x := m * 2 ^ s
      let r := isqrtFrom x (Nat.log2 x / 2 + 1) 0
      let sticky := if r * r = x then 0 else 1
      (.fin false (2 * r + sticky) ((e - s) / 2 - 1), 0)

/-- A round of a result with the flags of its operands and of its computation. -/
def settle (f : Fmt) (rm : Rm) (r : Num × Flags) (extra : Flags) : Nat × Flags :=
  let (bits, fl) := roundFmt f rm r.1
  (bits, fl ||| r.2 ||| extra)

/-- NV for signalling operands (R61). -/
def snanFlag (f : Fmt) (xs : List Nat) : Flags := Flags.when (xs.any f.isSnan) .nv

/-- One rounded sum. -/
def fadd (f : Fmt) (rm : Rm) (x y : Nat) : Nat × Flags :=
  settle f rm (Num.add rm (f.num x) (f.num y)) (snanFlag f [x, y])
/-- One rounded difference. -/
def fsub (f : Fmt) (rm : Rm) (x y : Nat) : Nat × Flags :=
  settle f rm (Num.add rm (f.num x) (f.num y).neg) (snanFlag f [x, y])
/-- One rounded product. -/
def fmul (f : Fmt) (rm : Rm) (x y : Nat) : Nat × Flags :=
  settle f rm (Num.mul (f.num x) (f.num y)) (snanFlag f [x, y])
/-- One rounded quotient. -/
def fdiv (f : Fmt) (rm : Rm) (x y : Nat) : Nat × Flags :=
  settle f rm (Num.div (f.num x) (f.num y)) (snanFlag f [x, y])
/-- One rounded square root. -/
def fsqrt (f : Fmt) (rm : Rm) (x : Nat) : Nat × Flags :=
  settle f rm (Num.sqrt (f.num x)) (snanFlag f [x])

/-- ±(x × y) ± z, computed exactly and rounded once (R75, R185). -/
def ffma (f : Fmt) (rm : Rm) (negProd negAdd : Bool) (x y z : Nat) : Nat × Flags :=
  let (p, fl) := Num.mul (f.num x) (f.num y)
  let p := if negProd then p.neg else p
  let a := if negAdd then (f.num z).neg else f.num z
  let (r, fl') := Num.add rm p a
  settle f rm (r, fl ||| fl') (snanFlag f [x, y, z])

/-- `fma32` (R75). -/
def fma32 (rm : Rm) (x y z : Nat) : Nat × Flags := ffma .f32 rm false false x y z

/-- Less-than on values, −0 below +0, for max and min (R182). -/
def Num.ltTotal : Num → Num → Bool
  | .nan, _ => false
  | _, .nan => false
  | .inf a, .inf b => a && !b
  | .inf a, .fin .. => a
  | .fin .., .inf b => !b
  | .fin na ma ea, .fin nb mb eb =>
    let e := min ea eb
    let x := signed na (ma * 2 ^ (ea - e).toNat)
    let y := signed nb (mb * 2 ^ (eb - e).toNat)
    decide (x < y) || (decide (x = y) && decide (ma = 0) && na && !nb)

/-- Numeric comparison: less than. -/
def Num.lt : Num → Num → Bool
  | .nan, _ => false
  | _, .nan => false
  | .inf a, .inf b => a && !b
  | .inf a, .fin .. => a
  | .fin .., .inf b => !b
  | .fin na ma ea, .fin nb mb eb =>
    let e := min ea eb
    decide (signed na (ma * 2 ^ (ea - e).toNat) < signed nb (mb * 2 ^ (eb - e).toNat))

/-- Numeric comparison: equal; +0 equals −0, a NaN equals nothing (R188). -/
def Num.eq (x y : Num) : Bool := x != .nan && y != .nan && !x.lt y && !y.lt x

/-- The max and min rule (R182). -/
def fmax (f : Fmt) (x y : Nat) : Nat × Flags :=
  if f.num x == .nan || f.num y == .nan then (f.nanBits, snanFlag f [x, y])
  else (if (f.num x).ltTotal (f.num y) then y else x, 0)
/-- The lesser by the max and min rule (R182). -/
def fmin (f : Fmt) (x y : Nat) : Nat × Flags :=
  if f.num x == .nan || f.num y == .nan then (f.nanBits, snanFlag f [x, y])
  else (if (f.num y).ltTotal (f.num x) then y else x, 0)

/-- Clear or invert a sign bit; a NaN becomes canonical (R181). -/
def fsign (f : Fmt) (g : Bool → Bool) (x : Nat) : Nat × Flags :=
  if f.num x == .nan then (f.nanBits, snanFlag f [x])
  else (x % f.signBit + f.sign (g (x / f.signBit % 2 == 1)), 0)

/-- Convert between binary formats (R76). -/
def fconv (src dst : Fmt) (rm : Rm) (x : Nat) : Nat × Flags :=
  settle dst rm (src.num x, 0) (snanFlag src [x])

/-- Widen exactly to FP32, a NaN to the canonical NaN, without flags (R76). -/
def widen (src : Fmt) (x : Nat) : Nat := (roundFmt .f32 .rne (src.num x)).1

/-! ## Integers -/

/-- The signed value of the low `n` bits. -/
def sint (n x : Nat) : Int := if x % 2 ^ n < 2 ^ (n - 1) then (x % 2 ^ n : Nat) else (x % 2 ^ n : Nat) - 2 ^ n
/-- The low `n` bits of an integer. -/
def ofInt (n : Nat) (x : Int) : Nat := (x.emod (2 ^ n)).toNat

/-- `sat_int` to a signed type of `n` bits (R59). -/
def satInt (n : Nat) (x : Int) : Nat × Flags :=
  if x < -(2 ^ (n - 1) : Int) then (2 ^ (n - 1), .sat)
  else if (2 ^ (n - 1) : Int) - 1 < x then (2 ^ (n - 1) - 1, .sat)
  else (ofInt n x, 0)

/-- Round a value to an integer: the integer and whether it was inexact. -/
def roundInt (rm : Rm) (neg : Bool) (m : Nat) (e : Int) : Int × Bool :=
  let (k, lost) := cutAt rm neg m e 0
  (signed neg k, lost)

/-- Float to a signed integer of `n` bits (R76). -/
def floatToInt (f : Fmt) (n : Nat) (rm : Rm) (x : Nat) : Nat × Flags :=
  match f.num x with
  | .nan => (2 ^ (n - 1) - 1, .nv)
  | .inf neg => (if neg then 2 ^ (n - 1) else 2 ^ (n - 1) - 1, .nv)
  | .fin neg m e =>
    let (i, lost) := roundInt rm neg m e
    let (r, s) := satInt n i
    if s == 0 then (r, Flags.when lost .nx) else (r, .nv)

/-- Signed integer of `n` bits to a float (R76): NX and OF only. -/
def intToFloat (f : Fmt) (n : Nat) (rm : Rm) (x : Nat) : Nat × Flags :=
  let i := sint n x
  roundFmt f rm (.fin (decide (i < 0)) i.natAbs 0)

/-! ## Complex and pair arithmetic -/

/-- The FP32 bits with the sign inverted. -/
def neg32 (x : Nat) : Nat := if x / 2 ^ 31 % 2 = 1 then x - 2 ^ 31 else x + 2 ^ 31

/-- `cmac` (R83) on c64 bits, the real part low (R63). -/
def cmac (u x acc : Nat) : Nat × Flags :=
  let ur := u % 2 ^ 32
  let ui := u / 2 ^ 32 % 2 ^ 32
  let xr := x % 2 ^ 32
  let xi := x / 2 ^ 32 % 2 ^ 32
  let (r1, f1) := fma32 .rne ur xr (acc % 2 ^ 32)
  let (r2, f2) := fma32 .rne (neg32 ui) xi r1
  let (i1, f3) := fma32 .rne ur xi (acc / 2 ^ 32 % 2 ^ 32)
  let (i2, f4) := fma32 .rne ui xr i1
  (r2 + 2 ^ 32 * i2, f1 ||| f2 ||| f3 ||| f4)

/-- `two_sum` (R80): sum, error, flags. -/
def twoSum (a b : Nat) : Nat × Nat × Flags :=
  let (s, fl) := fadd .f32 .rne a b
  match Fmt.f32.num s with
  | .fin .. =>
    let exact := (Num.add .rne (Fmt.f32.num a) (Fmt.f32.num b)).1
    let e := (Num.add .rne exact (Fmt.f32.num s).neg).1
    let err := match e with
      | .fin _ 0 _ => 0
      | e => (roundFmt .f32 .rne e).1
    (s, err, fl)
  | _ => (s, 0, fl)

/-- `pair_add` (R81). -/
def pairAdd (s c q : Nat) : Nat × Nat × Flags :=
  let (t, e, f1) := twoSum s q
  let (c', f2) := fadd .f32 .rne c e
  (t, c', f1 ||| f2)

/-- `pair_round` (R82). -/
def pairRound (f : Fmt) (rm : Rm) (s c : Nat) : Nat × Flags :=
  match Fmt.f32.num s with
  | .nan => (f.nanBits, snanFlag .f32 [s])
  | .inf n => (f.sign n + f.infBits, 0)
  | x => settle f rm (Num.add rm x (Fmt.f32.num c)) (snanFlag .f32 [c])

/-! ## MX formats (R64-R68) -/

end Sys2Proof.Machine

namespace Sys2Proof

/-- Element width in bits. -/
def MxFmt.bits : MxFmt → Nat
  | .e4m3 | .e5m2 | .mxi8 => 8
  | .e3m2 | .e2m3 => 6
  | .e2m1 => 4
/-- Exponent and mantissa widths and bias of the float MX formats. -/
def MxFmt.parts : MxFmt → Nat × Nat × Int
  | .e4m3 => (4, 3, 7)
  | .e5m2 => (5, 2, 15)
  | .e3m2 => (3, 2, 3)
  | .e2m3 => (2, 3, 1)
  | .e2m1 => (2, 1, 1)
  | .mxi8 => (0, 7, 0)
/-- The exponent of the largest finite value (R77). -/
def MxFmt.emax : MxFmt → Int
  | .e4m3 => 8
  | .e5m2 => 15
  | .e3m2 => 4
  | .e2m3 => 2
  | .e2m1 => 2
  | .mxi8 => 0
/-- The code of the largest finite value, positive sign (R64). -/
def MxFmt.maxCode : MxFmt → Nat
  | .e4m3 => 0x7E
  | .e5m2 => 0x7B
  | .e3m2 => 0x1F
  | .e2m3 => 0x1F
  | .e2m1 => 0x7
  | .mxi8 => 127
/-- Bytes of a block of 32 elements (R67). -/
def MxFmt.blockBytes (f : MxFmt) : Nat := 4 * f.bits

end Sys2Proof

namespace Sys2Proof.Machine

/-- Multiply a value by 2^k. -/
def Num.scale (k : Int) : Num → Num
  | .fin n m e => .fin n m (e + k)
  | x => x

/-- `mx_decode` (R68). -/
def mxDecode (f : MxFmt) (code scale : Nat) : Num :=
  if scale = 0xFF then .nan
  else
    let k : Int := (scale : Int) - 127
    match f with
    | .mxi8 =>
      let q := sint 8 code
      .fin (decide (q < 0)) q.natAbs (k - 6)
    | _ =>
      let (eb, mb, bias) := f.parts
      let neg := code / 2 ^ (eb + mb) % 2 == 1
      let ex := code / 2 ^ mb % 2 ^ eb
      let m := code % 2 ^ mb
      if f == .e4m3 && code % 128 == 0x7F then .nan
      else if f == .e5m2 && ex == 31 then (if m = 0 then .inf neg else .nan)
      else if ex = 0 then .fin neg m (1 - bias - mb + k)
      else .fin neg (m + 2 ^ mb) (ex - bias - mb + k)

/-- Element `i` of a packed stream (R67). -/
def mxElem (f : MxFmt) (stream i : Nat) : Nat := stream / 2 ^ (f.bits * i) % 2 ^ f.bits

/-- floor(log2) of a non-zero magnitude. -/
def magLog2 (m : Nat) (e : Int) : Int := (Nat.log2 m : Int) + e

/-- One finite element, already divided by 2^e, to its code (R77, R78). -/
def mxElemEncode (f : MxFmt) (rm : Rm) (neg : Bool) (m : Nat) (e : Int) : Nat × Flags :=
  match f with
  | .mxi8 =>
    let (q, lost) := roundInt rm neg m (e + 6)
    let nx := Flags.when lost .nx
    if 127 < q then (127, .sat ||| .nx)
    else if q < -127 then (ofInt 8 (-127), .sat ||| .nx)
    else (ofInt 8 q, nx)
  | _ =>
    let (eb, mb, bias) := f.parts
    let sgn := if neg then 2 ^ (eb + mb) else 0
    if m = 0 then (sgn, 0)
    else
      let emin := 1 - bias - mb
      let q := max (lastExp (mb + 1) m e) emin
      let (k, lost) := cutAt rm neg m e q
      let code :=
        if k < 2 ^ mb then k
        else if k = 2 ^ (mb + 1) then ((q - emin).toNat + 2) * 2 ^ mb
        else ((q - emin).toNat + 1) * 2 ^ mb + (k - 2 ^ mb)
      if f.maxCode < code then (sgn + f.maxCode, .sat ||| .nx)
      else (sgn + code, Flags.when lost .nx)

/-- The largest finite magnitude of a list, by floor(log2), if any element is finite and non-zero. -/
def mxTop : List Num → Option Int
  | [] => none
  | .fin _ m e :: xs =>
    if m = 0 then mxTop xs
    else match mxTop xs with
      | none => some (magLog2 m e)
      | some t => some (max t (magLog2 m e))
  | _ :: xs => mxTop xs

/-- The codes of a block, lowest element first, as a packed stream. -/
def mxCodes (f : MxFmt) (rm : Rm) (e : Int) : List Num → Nat × Flags
  | [] => (0, 0)
  | x :: xs =>
    let (c, fl) := match x with
      | .nan => (0, 0)
      | .inf n =>
        if f == .e5m2 then ((if n then 128 else 0) + 0x7C, 0)
        else if f == .mxi8 then (if n then ofInt 8 (-127) else 127, .sat ||| .nx)
        else ((if n then 2 ^ (f.bits - 1) else 0) + f.maxCode, .sat ||| .nx)
      | .fin n m ex => mxElemEncode f rm n m (ex - e)
    let (r, fl') := mxCodes f rm e xs
    (c + 2 ^ f.bits * r, fl ||| fl')

/-- `mx_encode` (R77, R78): scale code, packed element codes, flags. -/
def mxEncode (f : MxFmt) (rm : Rm) (xs : List Nat) : Nat × Nat × Flags :=
  let ns := xs.map Fmt.f32.num
  if ns.any (· == .nan) then (0xFF, 0, .nv)
  else
    let e := match mxTop ns with
      | none => 0
      | some t => min 127 (max (-127) (t - f.emax))
    let (codes, fl) := mxCodes f rm e ns
    ((e + 127).toNat, codes, fl)

/-! ## Exact block sums (R79) -/

/-- The exact sum of finite terms as a multiple of 2^e. -/
def sumTerms : List Num → Int → Int
  | [], _ => 0
  | .fin n m e :: xs, lo => signed n (m * 2 ^ (e - lo).toNat) + sumTerms xs lo
  | _ :: xs, lo => sumTerms xs lo

/-- The least exponent among finite terms, at most 0. -/
def minExp : List Num → Int
  | [] => 0
  | .fin _ _ e :: xs => min e (minExp xs)
  | _ :: xs => minExp xs

/-- `exact_block_sum` on pairs of exact values; `snan` says whether a signalling BF16 NaN is among the operands. -/
def exactBlockSum (pairs : List (Num × Num)) (snan : Bool) : Nat × Flags :=
  let ts := pairs.map fun p => Num.mul p.1 p.2
  let terms := ts.map (·.1)
  let invalid := ts.any fun t => t.2 != 0
  let pinf := terms.any (· == .inf false)
  let ninf := terms.any (· == .inf true)
  if terms.any (· == .nan) || (pinf && ninf) then
    (Fmt.f32.nanBits, Flags.when (invalid || (pinf && ninf) || snan) .nv)
  else if pinf then (Fmt.f32.infBits, 0)
  else if ninf then (Fmt.f32.signBit + Fmt.f32.infBits, 0)
  else
    let lo := minExp terms
    let t := sumTerms terms lo
    if t = 0 then (if terms.all (fun x => match x with | .fin n _ _ => n | _ => false) then Fmt.f32.signBit else 0, 0)
    else roundFmt .f32 .rne (.fin (decide (t < 0)) t.natAbs lo)

end Sys2Proof.Machine
end

