-- ==== Sys2Proof/Config.lean ====
section
/-! DEFINITION. What the spec leaves open: free values without a body, so that a statement about one holds whatever it
is. Each is named in the assumption log. -/

namespace Sys2Proof.Config

/-- The n-th free 64-bit value: of a clock that is read, or of a poisoned word of a save area that reaches no general register
(DESIGN CHOICE, log entries 16, 25). -/
opaque word : Nat → Word

/-- The n-th free choice among `k` possibilities, taken modulo `k` (DESIGN CHOICE, log entry 12). -/
opaque pick : Nat → Nat

/-- The port by which a module's agreement packets leave, for a group and an agreement's ordinal (R441, R443; DESIGN
CHOICE, log entry 22). -/
opaque agreementPort : BitVec 48 → Nat → BitVec 5

/-- Does a member of a group stand below this module in the switch tree of an agreement, so that this module combines its
contribution on the way up (R441; DESIGN CHOICE, log entry 22)? -/
opaque agreementBelow : BitVec 48 → (member : Nat) → Bool

/-- The digest that partners compare: of a yard record and its member table (R394; DESIGN CHOICE, log entry 23). -/
opaque digest : List Nat → Nat

/-- Does the RSA-4096 signature of a tack image verify over the SHA-512 hash of its header and bytes (R468)? -/
opaque signed : (image signature : List Byte) → Bool

/-- Does a firmware image pass the checks of boot: its signature and its key's hash (R488; DESIGN CHOICE, log entry 26)? -/
opaque firmwareOk : List Byte → Bool

/-- The image at which the boot of a flash slot fails (R488, R494; DESIGN CHOICE, log entry 26). -/
opaque failedImage : List Byte → BitVec 8

/-- The hash of firmware image `i` of the flash slot, whose layout the spec leaves open (R488; DESIGN CHOICE, log entry 26). -/
opaque imageHash : List Byte → Nat → BitVec 512

/-- How a report lays out one entry of the measurement log (R490; DESIGN CHOICE, log entry 26). -/
opaque entryBytes : (kind index : Nat) → BitVec 512 → List Byte

/-- The fabric peer identifier that the hayloft gives the module (R142; DESIGN CHOICE, log entry 26). -/
opaque ident : BitVec 12

/-- Byte `i` of the RSA-4096 signature by the module's identity key over a hash (R490). -/
opaque signature : BitVec 512 → Nat → Byte

end Sys2Proof.Config
end

