-- ==== Sys2Proof/WellFormed.lean ====
section
/-! DEFINITION. Which terms of `Instr` are instructions: the operand limits of R113-R134 and R454 that the fields' widths
do not say. -/

namespace Sys2Proof

/-- Integer element types (R124). -/
def VType.isInt : VType → Bool
  | .i8 | .i16 | .i32 | .i64 => true
  | .f32 | .bf16 | .f16 | .c64 => false

/-- The real floating types f32, bf16 and f16. -/
def VType.isReal : VType → Bool
  | .f32 | .bf16 | .f16 => true
  | .c64 | .i8 | .i16 | .i32 | .i64 => false

/-- K-blocks of one `mma`, by format (R359). -/
def MmaFmt.blocks : MmaFmt → Nat
  | .mx .e4m3 | .mx .e5m2 | .mx .mxi8 => 6
  | .mx .e3m2 | .mx .e2m3 => 8
  | .mx .e2m1 => 12
  | .bf16 => 3

/-- A reduction's operation and format may stand together (R454). -/
def tkPair : TkOp → TkFmt → Bool
  | .sum, _ | .min, _ | .max, _ => true
  | .and, f | .or, f => f == .i32 || f == .i64

/-- The operand limits of each instruction. Events have none: their data come from outside the encoding. -/
def Instr.wf : Instr → Bool
  | .shli w amt _ _ | .shri w amt _ _ | .sari w amt _ _ | .rori w amt _ _ => !w || decide (amt.toNat < 32)
  | .loopi len _ | .loops len _ _ _ => len != 0
  | .ld _ _ _ zx w _ _ => !(zx && w == .dword)
  | .amoswap _ posted _ _ d _ _ | .amoadd _ posted _ _ d _ _ | .amoand _ posted _ _ d _ _
  | .amoor _ posted _ _ d _ _ | .amoxor _ posted _ _ d _ _ | .amomin _ posted _ _ d _ _
  | .amomax _ posted _ _ d _ _ | .amominu _ posted _ _ d _ _ | .amomaxu _ posted _ _ d _ _
  | .amofadd _ posted _ d _ _ => !posted || d == 0
  | .vmul _ ty _ _ _ | .vmax _ ty _ _ _ | .vmin _ ty _ _ _ | .vabs _ ty _ _ => ty != .c64
  | .vmaxUnsigned _ ty _ _ _ | .vminUnsigned _ ty _ _ _ => ty.isInt
  | .vshl _ ty _ _ _ | .vshr _ ty _ _ _ | .vsar _ ty _ _ _ => ty.isInt
  | .vadds _ ty _ _ _ | .vsubs _ ty _ _ _ => ty.isInt
  | .vdiv _ ty _ _ _ | .vsqrt _ ty _ _ => ty.isReal
  | .vfma _ rm ty _ _ _ => ty.isReal || (ty == .c64 && rm == .rne)
  | .vfms _ _ ty _ _ _ | .vfnma _ _ ty _ _ _ | .vfnms _ _ ty _ _ _ => ty.isReal
  | .vcmplt _ ty _ _ _ | .vcmple _ ty _ _ _ => ty != .c64
  | .vcmpltUnsigned _ ty _ _ _ | .vcmpleUnsigned _ ty _ _ _ => ty.isInt
  | .vcmpun _ ty _ _ _ => ty.isReal
  | .vcvt _ td ts _ _ _ => td != ts && td != .c64 && ts != .c64
  | .vredmax _ ty _ _ | .vredmin _ ty _ _ => ty != .c64
  | .vpack _ _ _ _ a => a.toNat % 2 == 0
  | .vunpk _ _ d _ _ => d.toNat % 2 == 0
  | .vaddN p vd va => !(p == 0 && vd == 0 && va == 0)
  | .rgrab _ d _ => d != 31
  | .mma _ fmt pb _ _ => decide (pb.toNat ≤ 11) && decide (pb.toNat + fmt.blocks ≤ 12)
  | .msacc _ _ pb _ | .msaccV _ _ pb _ => decide (pb.toNat ≤ 11)
  | .mvs _ _ pb _ _ => decide (pb.toNat ≤ 11)
  | .ywant two _ b1 => two || b1 == 0
  | .axs _ axpy _ b => axpy == (b != 0)
  | .axn _ d => d.toNat % 2 == 0
  | .tkRed op fmt _ _ => tkPair op fmt
  | .tkReds op fmt _ => tkPair op fmt
  | _ => true

/-- A 16-bit lane form (R133). -/
def Instr.isLane : Instr → Bool
  | .vaddN .. | .vsubN .. | .vmulN .. | .vmaxN .. | .vminN .. | .vnegN .. | .vabsN .. | .vaddI32N .. | .vsubI32N ..
  | .vmulI32N .. | .vshlI32N .. | .vandN .. | .vorN .. | .vxorN .. | .vmovN .. | .vcmulC64N .. => true
  | _ => false

/-- A tack instruction (R454). -/
def Instr.isTack : Instr → Bool
  | .tkSend .. | .tkRecv .. | .tkRecvAny .. | .tkCopy .. | .tkWait .. | .tkSig .. | .tkFlush | .tkDone ..
  | .tkRed .. | .tkReds .. => true
  | _ => false

/-- An event of the table: it has no bits. -/
def Instr.isEvent : Instr → Bool
  | .ingressDoorbell .. | .activeMessageArrival .. | .contextStart .. | .acceptWordWrite .. | .contextEnd ..
  | .joinComplete .. | .groupTimeout .. | .groupDissolved .. | .feedBinArm .. | .feedBinDisarm .. | .feedBinGrab ..
  | .registerWrite .. | .accessPerform .. | .remoteResultArrival .. | .remoteRefusal .. | .messageDelivery ..
  | .callDelivery .. | .callReply .. | .agreementContribution .. | .agreementResolution .. | .penDrain ..
  | .commitBufferRelease .. | .specLimit .. | .interruptTake | .timerTick .. | .receiveThreshold .. | .recvProbe ..
  | .recvStrike .. | .spill .. | .pageWalk .. | .tlbInvalidation .. | .bar4WindowAccess .. | .copyStart ..
  | .copySrc .. | .copyVis .. | .copyFault .. | .tileCommandStart .. | .tileCommandComplete ..
  | .tileCommandStop .. | .tileFault | .swapHandshake .. | .exchangeUnitStart .. | .exchangeUnitComplete ..
  | .yardAccessForward .. | .axisCommandComplete .. | .yardEnd .. | .fabricPutArrival .. | .fabricPutsArrival ..
  | .fabricGetArrival .. | .fabricRaddArrival .. | .fabricResponse .. | .fabricTimeout .. | .multicastReplica ..
  | .multicastAck .. | .multicastLoadCollect .. | .multicastLoadResult .. | .capabilityExchange ..
  | .invocationStart .. | .chunkArrival .. | .tackSendRetry .. | .tackSendTimeout .. | .signalArrival ..
  | .paddockSet | .paddockClear | .preempt | .swap | .resume | .threadEnd | .interrupt | .hashgrpSet | .mkeyLoad
  | .fkeyLoad | .peerSet | .mcastSet | .tackLoad | .debugAddr | .attest | .update | .moduleReset ..
  | .islandSensorRefresh .. | .logFlashCopy | .illegalEncoding .. | .uncorrectableEccError ..
  | .sequencerRv64Instruction .. | .tackOperationPerformed .. | .copyDestinationRelease .. | .tileSourceRelease ..
  | .exportEntryWrite .. => true
  | _ => false

end Sys2Proof
end

