-- ==== Sys2Proof/Decode.lean ====
section
/-! DEFINITION. Framing, decoding and encoding of instructions (R109-R134, R454). Decoding is total; what names no
instruction is rejected with a reason. The encoder is written from the same tables. -/

namespace Sys2Proof

/-- Why a bit pattern is no instruction (R115, R454). -/
inductive Reject where
  | truncated        -- fewer bytes than the instruction's length
  | zeroHalfword     -- the all-zero halfword (R134)
  | reservedMajor    -- majors 28 to 31 (R114)
  | reservedCode     -- an unassigned function code, condition or sub-field value
  | reservedBit      -- a bit that must be 0 is 1
  | operandLimit     -- an operand beyond its limit
  | notTack          -- no tack instruction (R454)
  deriving DecidableEq, Repr

/-- A decoder's answer. -/
abbrev Decoded := Except Reject Instr

/-! ## Layouts (R111) -/

/-- Layout R: p, eight bits of function, b, a, d and the major opcode. -/
def layR (p : BitVec 3) (f : BitVec 8) (b a d maj : BitVec 5) : BitVec 32 := p ++ f ++ b ++ a ++ d ++ maj ++ 1#1
/-- Layout I: a 16-bit immediate. -/
def layI (imm : BitVec 16) (a d maj : BitVec 5) : BitVec 32 := imm ++ a ++ d ++ maj ++ 1#1
/-- Layout U: a 21-bit immediate. -/
def layU (imm : BitVec 21) (d maj : BitVec 5) : BitVec 32 := imm ++ d ++ maj ++ 1#1
/-- Layout B: an offset and a condition. -/
def layB (off : BitVec 12) (cond : BitVec 4) (b a maj : BitVec 5) : BitVec 32 := off ++ cond ++ b ++ a ++ maj ++ 1#1
/-- Layout L: the form bit, the body length and fifteen bits. -/
def layL (s : BitVec 1) (len : BitVec 10) (x : BitVec 15) (maj : BitVec 5) : BitVec 32 := s ++ len ++ x ++ maj ++ 1#1
/-- Layout C: agreed branches (R129). -/
def layC (off : BitVec 11) (z hint any : BitVec 1) (bit : BitVec 6) (p : BitVec 3) (slot : BitVec 2) (maj : BitVec 5) :
    BitVec 32 := 1#1 ++ off ++ z ++ hint ++ any ++ bit ++ p ++ slot ++ maj ++ 1#1
/-- Layout of the YARD major (R131). -/
def layY (fn : BitVec 4) (t : BitVec 2) (m b a d maj : BitVec 5) : BitVec 32 :=
  fn ++ t ++ m ++ b ++ a ++ d ++ maj ++ 1#1
/-- Layout of a lane form (R133). -/
def layN (p : BitVec 3) (va vd op : BitVec 4) : BitVec 16 := p ++ va ++ vd ++ op ++ 0#1
/-- R-type layout of RV64 (R454). -/
def layT (f7 : BitVec 7) (rs2 rs1 : BitVec 5) (f3 : BitVec 3) (rd : BitVec 5) (opc : BitVec 7) : BitVec 32 :=
  f7 ++ rs2 ++ rs1 ++ f3 ++ rd ++ opc

/-- A Boolean as a bit. -/
def bit (b : Bool) : BitVec 1 := if b then 1 else 0

/-! ## Sub-field codes -/

/-- Width codes (R118). -/
def Width.code : Width → BitVec 2
  | .byte => 0
  | .half => 1
  | .word => 2
  | .dword => 3

/-- Width of a code, if assigned. -/
def Width.ofCode (c : BitVec 2) : Option Width :=
  match c.toNat with
  | 0 => some .byte
  | 1 => some .half
  | 2 => some .word
  | 3 => some .dword
  | _ => none

/-- Load order codes (R118). -/
def LoadOrder.code : LoadOrder → BitVec 2
  | .page => 0
  | .acq => 1
  | .so => 2

/-- LoadOrder of a code, if assigned. -/
def LoadOrder.ofCode (c : BitVec 2) : Option LoadOrder :=
  match c.toNat with
  | 0 => some .page
  | 1 => some .acq
  | 2 => some .so
  | _ => none

/-- Store order codes (R118). -/
def StoreOrder.code : StoreOrder → BitVec 2
  | .page => 0
  | .rel => 1
  | .so => 2

/-- StoreOrder of a code, if assigned. -/
def StoreOrder.ofCode (c : BitVec 2) : Option StoreOrder :=
  match c.toNat with
  | 0 => some .page
  | 1 => some .rel
  | 2 => some .so
  | _ => none

/-- Atomic order codes (R120). -/
def AmoOrder.code : AmoOrder → BitVec 2
  | .page => 0
  | .acq => 1
  | .rel => 2
  | .acqrel => 3

/-- AmoOrder of a code, if assigned. -/
def AmoOrder.ofCode (c : BitVec 2) : Option AmoOrder :=
  match c.toNat with
  | 0 => some .page
  | 1 => some .acq
  | 2 => some .rel
  | 3 => some .acqrel
  | _ => none

/-- Comparison codes (R121). -/
def WatchCmp.code : WatchCmp → BitVec 5
  | .eq => 0
  | .ne => 1
  | .geu => 2
  | .ltu => 3

/-- WatchCmp of a code, if assigned. -/
def WatchCmp.ofCode (c : BitVec 5) : Option WatchCmp :=
  match c.toNat with
  | 0 => some .eq
  | 1 => some .ne
  | 2 => some .geu
  | 3 => some .ltu
  | _ => none

/-- Class codes (R121). -/
def WaitClass.code : WaitClass → BitVec 5
  | .all => 0
  | .ld => 1
  | .st => 2
  | .amo => 3
  | .fab => 4

/-- WaitClass of a code, if assigned. -/
def WaitClass.ofCode (c : BitVec 5) : Option WaitClass :=
  match c.toNat with
  | 0 => some .all
  | 1 => some .ld
  | 2 => some .st
  | 3 => some .amo
  | 4 => some .fab
  | _ => none

/-- Type codes (R124). -/
def VType.code : VType → BitVec 3
  | .f32 => 0
  | .bf16 => 1
  | .f16 => 2
  | .c64 => 3
  | .i8 => 4
  | .i16 => 5
  | .i32 => 6
  | .i64 => 7

/-- VType of a code, if assigned. -/
def VType.ofCode (c : BitVec 3) : Option VType :=
  match c.toNat with
  | 0 => some .f32
  | 1 => some .bf16
  | 2 => some .f16
  | 3 => some .c64
  | 4 => some .i8
  | 5 => some .i16
  | 6 => some .i32
  | 7 => some .i64
  | _ => none

/-- MX codes (R127). -/
def MxFmt.code : MxFmt → BitVec 3
  | .e4m3 => 0
  | .e5m2 => 1
  | .e3m2 => 2
  | .e2m3 => 3
  | .e2m1 => 4
  | .mxi8 => 5

/-- MxFmt of a code, if assigned. -/
def MxFmt.ofCode (c : BitVec 3) : Option MxFmt :=
  match c.toNat with
  | 0 => some .e4m3
  | 1 => some .e5m2
  | 2 => some .e3m2
  | 3 => some .e2m3
  | 4 => some .e2m1
  | 5 => some .mxi8
  | _ => none

/-- Formats of `mma` (R130). -/
def MmaFmt.code : MmaFmt → BitVec 3
  | .mx .e4m3 => 0
  | .mx .e5m2 => 1
  | .mx .e3m2 => 2
  | .mx .e2m3 => 3
  | .mx .e2m1 => 4
  | .mx .mxi8 => 5
  | .bf16 => 6

/-- MmaFmt of a code, if assigned. -/
def MmaFmt.ofCode (c : BitVec 3) : Option MmaFmt :=
  match c.toNat with
  | 0 => some (.mx .e4m3)
  | 1 => some (.mx .e5m2)
  | 2 => some (.mx .e3m2)
  | 3 => some (.mx .e2m3)
  | 4 => some (.mx .e2m1)
  | 5 => some (.mx .mxi8)
  | 6 => some .bf16
  | _ => none

/-- Rounding field (R69). -/
def Rm.code : Rm → BitVec 3
  | .rne => 0
  | .rtz => 1
  | .rdn => 2
  | .rup => 3
  | .dyn => 4

/-- Rm of a code, if assigned. -/
def Rm.ofCode (c : BitVec 3) : Option Rm :=
  match c.toNat with
  | 0 => some .rne
  | 1 => some .rtz
  | 2 => some .rdn
  | 3 => some .rup
  | 4 => some .dyn
  | _ => none

/-- Yard element types (R131). -/
def YType.code : YType → BitVec 2
  | .c64 => 0
  | .f32 => 1
  | .bf16 => 2

/-- YType of a code, if assigned. -/
def YType.ofCode (c : BitVec 2) : Option YType :=
  match c.toNat with
  | 0 => some .c64
  | 1 => some .f32
  | 2 => some .bf16
  | _ => none

/-- OP of a tack reduction (R454). -/
def TkOp.code : TkOp → BitVec 4
  | .sum => 0
  | .min => 1
  | .max => 2
  | .and => 3
  | .or => 4

/-- TkOp of a code, if assigned. -/
def TkOp.ofCode (c : BitVec 4) : Option TkOp :=
  match c.toNat with
  | 0 => some .sum
  | 1 => some .min
  | 2 => some .max
  | 3 => some .and
  | 4 => some .or
  | _ => none

/-- FMT of a tack reduction (R454). -/
def TkFmt.code : TkFmt → BitVec 3
  | .f32 => 0
  | .bf16 => 1
  | .f32p => 2
  | .i32 => 3
  | .i64 => 4

/-- TkFmt of a code, if assigned. -/
def TkFmt.ofCode (c : BitVec 3) : Option TkFmt :=
  match c.toNat with
  | 0 => some .f32
  | 1 => some .bf16
  | 2 => some .f32p
  | 3 => some .i32
  | 4 => some .i64
  | _ => none

/-! ## Decoding -/

/-- Continue with a code's meaning, or reject an unassigned code. -/
def withCode {α : Type} (c : Option α) (k : α → Decoded) : Decoded :=
  match c with
  | some x => k x
  | none => .error .reservedCode

/-- The instruction, provided the bits that must be 0 are. -/
def zeros (c : Bool) (i : Instr) : Decoded := if c then .ok i else .error .reservedBit

/-- The low three bits of a register field that names a predicate, a mailbox or a tile. -/
def lo3 (x : BitVec 5) : BitVec 3 := x.extractLsb' 0 3
/-- The bits above them. -/
def hi2 (x : BitVec 5) : BitVec 2 := x.extractLsb' 3 2
/-- The low four bits of a register field that names a partial-bank slot. -/
def lo4 (x : BitVec 5) : BitVec 4 := x.extractLsb' 0 4
/-- The bit above them. -/
def hi1 (x : BitVec 5) : BitVec 1 := x.extractLsb' 4 1

/-- Major OPR (R117). -/
def rawOpr (p : BitVec 3) (w : Bool) (code : Nat) (b a d : BitVec 5) : Decoded :=
  match code with
  | 0 => .ok (.add w p d a b)
  | 1 => .ok (.sub w p d a b)
  | 2 => .ok (.and w p d a b)
  | 3 => .ok (.or w p d a b)
  | 4 => .ok (.xor w p d a b)
  | 5 => .ok (.shl w p d a b)
  | 6 => .ok (.shr w p d a b)
  | 7 => .ok (.sar w p d a b)
  | 8 => .ok (.slt w p d a b)
  | 9 => .ok (.sltu w p d a b)
  | 10 => zeros (!w) (.mul p d a b)
  | 11 => zeros (!w) (.mulh p d a b)
  | 12 => zeros (!w) (.mulhu p d a b)
  | 13 => zeros (!w) (.div p d a b)
  | 14 => zeros (!w) (.divu p d a b)
  | 15 => zeros (!w) (.rem p d a b)
  | 16 => zeros (!w) (.remu p d a b)
  | 17 => zeros (!w) (.min p d a b)
  | 18 => zeros (!w) (.max p d a b)
  | 19 => zeros (!w) (.minu p d a b)
  | 20 => zeros (!w) (.maxu p d a b)
  | 21 => zeros (b == 0) (.popc w p d a)
  | 22 => zeros (b == 0) (.clz w p d a)
  | 23 => zeros (b == 0) (.ctz w p d a)
  | 24 => zeros (!w && b == 0) (.brev p d a)
  | 25 => zeros (!w) (.bfx p d a b)
  | 26 => zeros (!w) (.bfi p d a b)
  | 27 => zeros (!w) (.andn p d a b)
  | 28 => zeros (!w) (.orn p d a b)
  | 29 => .ok (.rol w p d a b)
  | 30 => .ok (.ror w p d a b)
  | 31 => zeros (!w && b == 0) (.bswap p d a)
  | _ => .error .reservedCode

/-- Major BRANCH (R122). -/
def rawBranch (off : BitVec 12) (cond : Nat) (b a : BitVec 5) : Decoded :=
  match cond with
  | 0 => .ok (.beq a b off)
  | 1 => .ok (.bne a b off)
  | 2 => .ok (.blt a b off)
  | 3 => .ok (.bge a b off)
  | 4 => .ok (.bltu a b off)
  | 5 => .ok (.bgeu a b off)
  | 6 => .ok (.bbs a b off)
  | 7 => .ok (.bbc a b off)
  | 8 => zeros (b == 0 && hi2 a == 0) (.bany (lo3 a) off)
  | 9 => zeros (b == 0 && hi2 a == 0) (.ball (lo3 a) off)
  | 10 => zeros (b == 0 && hi2 a == 0) (.bnone (lo3 a) off)
  | _ => .error .reservedCode

/-- Major AMO (R120). -/
def rawAmo (p : BitVec 3) (posted : Bool) (ord : AmoOrder) (w : Bool) (op : Nat) (a base d : BitVec 5) : Decoded :=
  match op with
  | 0 => .ok (.amoswap p posted ord w d a base)
  | 1 => .ok (.amoadd p posted ord w d a base)
  | 2 => .ok (.amoand p posted ord w d a base)
  | 3 => .ok (.amoor p posted ord w d a base)
  | 4 => .ok (.amoxor p posted ord w d a base)
  | 5 => .ok (.amomin p posted ord w d a base)
  | 6 => .ok (.amomax p posted ord w d a base)
  | 7 => .ok (.amominu p posted ord w d a base)
  | 8 => .ok (.amomaxu p posted ord w d a base)
  | 9 => zeros (!posted) (.amocas p ord w d a base)
  | 10 => zeros w (.amofadd p posted ord d a base)
  | _ => .error .reservedCode

/-- Major SYNC (R121). -/
def rawSync (p : BitVec 3) (f : BitVec 8) (b a d : BitVec 5) : Decoded :=
  match f.toNat with
  | 0 => zeros (b == 0 && d == 0) (.fence p a)
  | 1 => zeros (b == 0 && a == 0 && d == 0) (.fenceLb p)
  | 2 => withCode (WatchCmp.ofCode d) fun cmp => .ok (.watch p cmp a b)
  | 3 => zeros (b == 0 && d == 0) (.barArr p a)
  | 4 => zeros (d == 0) (.barWait p a b)
  | 5 => zeros (hi2 b == 0 && d == 0) (.mput p a (lo3 b))
  | 6 => zeros (hi2 b == 0 && a == 0) (.mget p d (lo3 b))
  | 7 => withCode (WaitClass.ofCode b) fun cls => zeros (a == 0 && d == 0) (.wait p cls)
  | 8 => zeros (b == 0 && d == 0) (.twaitSrc p a)
  | 9 => zeros (b == 0 && d == 0) (.twaitVis p a)
  | _ => .error .reservedCode

/-- Major VOP (R124). -/
def rawVop (p : BitVec 3) (op : Nat) (ty : VType) (b a d : BitVec 5) : Decoded :=
  match op with
  | 0 => .ok (.vadd p ty d a b)
  | 1 => .ok (.vsub p ty d a b)
  | 2 => .ok (.vmul p ty d a b)
  | 3 => zeros (ty == .c64) (.vcmul p d a b)
  | 4 => .ok (.vmax p ty d a b)
  | 5 => .ok (.vmin p ty d a b)
  | 6 => .ok (.vmaxUnsigned p ty d a b)
  | 7 => .ok (.vminUnsigned p ty d a b)
  | 8 => zeros (b == 0) (.vneg p ty d a)
  | 9 => zeros (b == 0) (.vabs p ty d a)
  | 10 => .ok (.vshl p ty d a b)
  | 11 => .ok (.vshr p ty d a b)
  | 12 => .ok (.vsar p ty d a b)
  | 13 => zeros (ty == .f32) (.vand p d a b)
  | 14 => zeros (ty == .f32) (.vor p d a b)
  | 15 => zeros (ty == .f32) (.vxor p d a b)
  | 16 => zeros (b == 0 && ty == .f32) (.vmov p d a)
  | 17 => .ok (.vdiv p ty d a b)
  | 18 => zeros (b == 0) (.vsqrt p ty d a)
  | 19 => zeros (b == 0 && ty == .c64) (.vconj p d a)
  | 20 => .ok (.vadds p ty d a b)
  | 21 => .ok (.vsubs p ty d a b)
  | _ => .error .reservedCode

/-- Major VFMA (R125). -/
def rawVfma (p : BitVec 3) (rm : Rm) (op : Nat) (ty : VType) (b a d : BitVec 5) : Decoded :=
  match op with
  | 0 => .ok (.vfma p rm ty d a b)
  | 1 => .ok (.vfms p rm ty d a b)
  | 2 => .ok (.vfnma p rm ty d a b)
  | 3 => .ok (.vfnms p rm ty d a b)
  | _ => .error .reservedCode

/-- Loads of major VMEM (R126). -/
def rawVmemL (p : BitVec 3) (mode : Nat) (w : Width) (ord : LoadOrder) (x base d : BitVec 5) : Decoded :=
  match mode with
  | 0 => .ok (.vld p w ord d base x)
  | 1 => .ok (.vlds p w ord d base x)
  | 2 => .ok (.vldx p w ord d base x)
  | _ => .error .reservedCode

/-- Stores of major VMEM (R126). -/
def rawVmemS (p : BitVec 3) (mode : Nat) (w : Width) (ord : StoreOrder) (x base d : BitVec 5) : Decoded :=
  match mode with
  | 0 => .ok (.vst p w ord d base x)
  | 1 => .ok (.vsts p w ord d base x)
  | 2 => .ok (.vstx p w ord d base x)
  | _ => .error .reservedCode

/-- Compares of major VMISC (R127). -/
def rawCmp (p : BitVec 3) (cond : Nat) (ty : VType) (b a d : BitVec 5) : Decoded :=
  match cond with
  | 0 => .ok (.vcmpeq p ty (lo3 d) a b)
  | 1 => .ok (.vcmpne p ty (lo3 d) a b)
  | 2 => .ok (.vcmplt p ty (lo3 d) a b)
  | 3 => .ok (.vcmple p ty (lo3 d) a b)
  | 4 => .ok (.vcmpltUnsigned p ty (lo3 d) a b)
  | 5 => .ok (.vcmpleUnsigned p ty (lo3 d) a b)
  | 6 => .ok (.vcmpun p ty (lo3 d) a b)
  | _ => .error .reservedCode

/-- Lane moves with a width (R127). -/
def rawLaneW (p : BitVec 3) (g : Nat) (w : Width) (b a d : BitVec 5) : Decoded :=
  match g with
  | 0 => zeros (b == 0) (.vbcast p w d a)
  | 1 => .ok (.vext p w d a b)
  | 2 => .ok (.vins p w d a b)
  | _ => .error .reservedCode

/-- Other lane and predicate operations (R127). -/
def rawLane (p : BitVec 3) (f : BitVec 8) (b a d : BitVec 5) : Decoded :=
  match f.toNat with
  | 140 => .ok (.vperm p d a b)
  | 141 => .ok (.vsel p d a b)
  | 142 => .ok (.vslideup p d a b)
  | 143 => .ok (.vslidedn p d a b)
  | 144 => zeros (p == 0 && hi2 b == 0 && hi2 a == 0 && hi2 d == 0) (.pand (lo3 d) (lo3 a) (lo3 b))
  | 145 => zeros (p == 0 && hi2 b == 0 && hi2 a == 0 && hi2 d == 0) (.por (lo3 d) (lo3 a) (lo3 b))
  | 146 => zeros (p == 0 && hi2 b == 0 && hi2 a == 0 && hi2 d == 0) (.pxor (lo3 d) (lo3 a) (lo3 b))
  | 147 => zeros (p == 0 && b == 0 && hi2 a == 0 && hi2 d == 0) (.pnot (lo3 d) (lo3 a))
  | 148 => zeros (p == 0 && b == 0 && hi2 d == 0) (.pmov (lo3 d) a)
  | 149 => zeros (p == 0 && b == 0 && hi2 a == 0) (.pget d (lo3 a))
  | 150 => zeros (p == 0 && b == 0 && hi2 a == 0) (.pcnt d (lo3 a))
  | 151 => zeros (p == 0 && b == 0 && hi2 a == 0) (.pfirst d (lo3 a))
  | _ => .error .reservedCode

/-- Reductions and MX (R127). -/
def rawRed (p : BitVec 3) (op : Nat) (t : BitVec 3) (b a d : BitVec 5) : Decoded :=
  match op with
  | 0 => withCode (VType.ofCode t) fun ty => zeros (b == 0) (.vredadd p ty d a)
  | 1 => withCode (VType.ofCode t) fun ty => zeros (b == 0) (.vredmax p ty d a)
  | 2 => withCode (VType.ofCode t) fun ty => zeros (b == 0) (.vredmin p ty d a)
  | 3 => withCode (MxFmt.ofCode t) fun fmt => withCode (Rm.ofCode (lo3 b)) fun rm => zeros (hi2 b == 0) (.vpack p fmt rm d a)
  | 4 => withCode (MxFmt.ofCode t) fun fmt => .ok (.vunpk p fmt d a b)
  | _ => .error .reservedCode

/-- Major MSG (R128). -/
def rawMsg (p : BitVec 3) (f : BitVec 8) (b a d : BitVec 5) : Decoded :=
  match f.toNat with
  | 0 => zeros (d == 0) (.sendm p a b)
  | 1 => zeros (b == 0) (.recvm p d a)
  | 2 => .ok (.rcall p d a b)
  | 3 => .ok (.rret p d a b)
  | 4 => zeros (b == 0) (.rgrab p d a)
  | _ => .error .reservedCode

/-- Major GROUP, layout R (R129). -/
def rawGroup (slot : BitVec 2) (f : BitVec 8) (b a d : BitVec 5) : Decoded :=
  match f.toNat with
  | 0 => zeros (d == 0) (.gjoin slot a b)
  | 1 => zeros (b == 0 && a == 0 && d == 0) (.gleave slot)
  | 2 => zeros (b == 0 && a == 0) (.ginfo slot d)
  | 3 => zeros (b == 0 && a == 0 && d == 0) (.gabsent slot)
  | _ => .error .reservedCode

/-- Major CPY (R128, R331). -/
def rawCpy (p : BitVec 3) (f : BitVec 8) (b a d : BitVec 5) : Decoded :=
  match f.toNat with
  | 0 => .ok (.cpy p d a b)
  | 1 => .ok (.cpyBar p d a b)
  | _ => .error .reservedCode

/-- Major TILE (R130). A field of `mzero`, `mldz` or `mstz` marked — that is not 0 makes the word illegal: no sentence says so for
them (DESIGN CHOICE, log entry 29). -/
def rawTile (p : BitVec 3) (op : Nat) (m : BitVec 4) (b a d : BitVec 5) : Decoded :=
  match op with
  | 0 => withCode (MmaFmt.ofCode (m.extractLsb' 0 3)) fun fmt => zeros (m.extractLsb' 3 1 == 0 && hi1 d == 0) (.mma p fmt (lo4 d) a b)
  | 1 => zeros (m == 0 && hi2 d == 0 && hi1 a == 0) (.msacc p (lo3 d) (lo4 a) b)
  | 2 => zeros (m == 0 && hi2 d == 0 && hi1 a == 0) (.msaccV p (lo3 d) (lo4 a) b)
  | 3 => zeros (m == 0 && hi2 d == 0 && a == 0 && b == 0) (.mzero p (lo3 d))
  | 4 => zeros (m == 0 && hi2 d == 0 && b == 0) (.mldz p (lo3 d) a)
  | 5 => withCode (Rm.ofCode (m.extractLsb' 1 3)) fun rm => zeros (hi2 d == 0 && b == 0) (.mstz p (m.extractLsb' 0 1 == 1) rm (lo3 d) a)
  | 6 => zeros (m == 0 && d == 0 && a == 0 && b == 0) (.mcommit p)
  | 7 => zeros (m == 0 && d == 0 && a == 0) (.mwait p b)
  | 8 => zeros (m == 0 && d == 0 && b == 0) (.mresume p a)
  | 9 => withCode (MxFmt.ofCode (m.extractLsb' 0 3)) fun fmt => zeros (m.extractLsb' 3 1 == 0 && hi1 d == 0) (.mvs p fmt (lo4 d) a b)
  | _ => .error .reservedCode

/-- Major YARD (R131). A field a or b of `axn` that is not 0 makes the word illegal: R131 names 25:21 alone as zero for it (DESIGN
CHOICE, log entry 29). -/
def rawYard (fn : Nat) (t : BitVec 2) (m b a d : BitVec 5) : Decoded :=
  match fn with
  | 0 => zeros (t == 0 && m == 0 && b == 0 && d == 0) (.ycfg a)
  | 1 => zeros (t.extractLsb' 1 1 == 0 && b.extractLsb' 1 4 == 0 && d == 0) (.yswap (t.extractLsb' 0 1 ++ m) (b.extractLsb' 0 1 ++ a))
  | 2 => zeros (b.extractLsb' 1 4 == 0 && d == 0) (.ywant (t.extractLsb' 1 1 == 1) (t.extractLsb' 0 1 ++ m) (b.extractLsb' 0 1 ++ a))
  | 3 => zeros (t == 0 && m == 0 && b == 0 && a == 0 && d == 0) .ysync
  | 4 => zeros (t == 0 && m == 0 && b == 0 && a == 0) (.ygen d)
  | 5 => withCode (YType.ofCode t) fun ty => zeros (m == 0) (.axa ty d a b)
  | 6 => withCode (YType.ofCode t) fun ty => zeros (m == 0 && d == 0) (.axd ty a b)
  | 7 => withCode (YType.ofCode t) fun ty => zeros (m.extractLsb' 1 4 == 0 && d == 0) (.axs ty (m.extractLsb' 0 1 == 1) a b)
  | 8 => withCode (YType.ofCode t) fun ty => zeros (m == 0 && b == 0 && a == 0) (.axn ty d)
  | _ => .error .reservedCode

/-- Major FAB (R128). -/
def rawFab (p : BitVec 3) (f : BitVec 8) (b a d : BitVec 5) : Decoded :=
  match f.toNat with
  | 0 => zeros (b == 0) (.put p d a)
  | 1 => .ok (.puts p d a b)
  | 2 => zeros (b == 0) (.get p d a)
  | 3 => .ok (.radd p d a b)
  | 4 => .ok (.coll p d a b)
  | _ => .error .reservedCode

/-- Major SYS (R132). -/
def rawSys (p : BitVec 3) (f : BitVec 8) (b a d : BitVec 5) : Decoded :=
  match f.toNat with
  | 0 => zeros (b == 0 && a == 0 && d == 0) (.exit p)
  | 1 => zeros (b == 0 && a == 0 && d == 0) (.trap p)
  | 2 => zeros (b == 0 && a == 0 && d == 0) (.tret p)
  | 3 => .ok (.srd p d (b ++ a))
  | 4 => .ok (.swr p d (b ++ a))
  | 5 => zeros (b == 0 && d == 0) (.ctxs p a)
  | 6 => zeros (b == 0 && d.extractLsb' 1 4 == 0) (.ctxr p (d.extractLsb' 0 1 == 1) a)
  | 7 => zeros (d == 0) (.tinv p a b)
  | _ => .error .reservedCode

/-- Lane forms (R133). -/
def rawLane16 (p : BitVec 3) (op : Nat) (va vd : BitVec 4) : Decoded :=
  match op with
  | 0 => .ok (.vaddN p vd va)
  | 1 => .ok (.vsubN p vd va)
  | 2 => .ok (.vmulN p vd va)
  | 3 => .ok (.vmaxN p vd va)
  | 4 => .ok (.vminN p vd va)
  | 5 => .ok (.vnegN p vd va)
  | 6 => .ok (.vabsN p vd va)
  | 7 => .ok (.vaddI32N p vd va)
  | 8 => .ok (.vsubI32N p vd va)
  | 9 => .ok (.vmulI32N p vd va)
  | 10 => .ok (.vshlI32N p vd va)
  | 11 => .ok (.vandN p vd va)
  | 12 => .ok (.vorN p vd va)
  | 13 => .ok (.vxorN p vd va)
  | 14 => .ok (.vmovN p vd va)
  | 15 => .ok (.vcmulC64N p vd va)
  | _ => .error .reservedCode

/-- Major VMISC, by the group in F[7:6] (R127). -/
def rawVmisc (p : BitVec 3) (f : BitVec 8) (b a d : BitVec 5) : Decoded :=
  let c := f.extractLsb' 3 3
  let t := f.extractLsb' 0 3
  match (f.extractLsb' 6 2).toNat with
  | 0 => withCode (VType.ofCode t) fun ty => if hi2 d == 0 then rawCmp p c.toNat ty b a d else .error .reservedBit
  | 1 => withCode (VType.ofCode c) fun dt => withCode (VType.ofCode t) fun st => withCode (Rm.ofCode (lo3 b)) fun rm =>
      zeros (hi2 b == 0) (.vcvt p dt st rm d a)
  | 2 =>
    if (f.extractLsb' 2 6).toNat < 35 then
      withCode (Width.ofCode (f.extractLsb' 0 2)) fun w => rawLaneW p ((f.extractLsb' 2 6).toNat - 32) w b a d
    else rawLane p f b a d
  | _ => rawRed p c.toNat t b a d

/-- A 32-bit word, before the operand limits are checked. -/
def raw32 (x : BitVec 32) : Decoded :=
  let p := x.extractLsb' 29 3
  let f := x.extractLsb' 21 8
  let b := x.extractLsb' 16 5
  let a := x.extractLsb' 11 5
  let d := x.extractLsb' 6 5
  let imm16 := x.extractLsb' 16 16
  let imm21 := x.extractLsb' 11 21
  match (x.extractLsb' 1 5).toNat with
  | 0 => if f.extractLsb' 7 1 == 0 then rawOpr p (f.extractLsb' 6 1 == 1) (f.extractLsb' 0 6).toNat b a d
         else .error .reservedBit
  | 1 => .ok (.addi d a imm16)
  | 2 => .ok (.andi d a imm16)
  | 3 => .ok (.ori d a imm16)
  | 4 => .ok (.xori d a imm16)
  | 5 =>
    let w := x.extractLsb' 27 1 == 1
    let amt := x.extractLsb' 21 6
    if x.extractLsb' 30 2 == 0 && b == 0 then
      match (x.extractLsb' 28 2).toNat with
      | 0 => .ok (.shli w amt d a)
      | 1 => .ok (.shri w amt d a)
      | 2 => .ok (.sari w amt d a)
      | _ => .ok (.rori w amt d a)
    else .error .reservedBit
  | 6 => .ok (.slti d a imm16)
  | 7 => .ok (.lhi d imm21)
  | 8 => .ok (.addpc d imm21)
  | 9 => rawBranch (x.extractLsb' 20 12) (x.extractLsb' 16 4).toNat a d
  | 10 => .ok (.jal d imm21)
  | 11 => .ok (.jalr d a imm16)
  | 12 =>
    if x.extractLsb' 31 1 == 0 then .ok (.loopi (x.extractLsb' 21 10) (x.extractLsb' 6 15))
    else if b.extractLsb' 2 3 == 0 then .ok (.loops (x.extractLsb' 21 10) (b.extractLsb' 0 2) d a)
    else .error .reservedCode
  | 13 => withCode (LoadOrder.ofCode (b.extractLsb' 3 2)) fun ord => withCode (Width.ofCode (b.extractLsb' 0 2)) fun w =>
      .ok (.ld p f ord (b.extractLsb' 2 1 == 1) w d a)
  | 14 => withCode (StoreOrder.ofCode (b.extractLsb' 3 2)) fun ord => withCode (Width.ofCode (b.extractLsb' 0 2)) fun w =>
      zeros (b.extractLsb' 2 1 == 0) (.st p f ord w d a)
  | 15 => withCode (AmoOrder.ofCode (f.extractLsb' 5 2)) fun ord =>
      rawAmo p (f.extractLsb' 7 1 == 1) ord (f.extractLsb' 4 1 == 1) (f.extractLsb' 0 4).toNat b a d
  | 16 => rawSync p f b a d
  | 17 => withCode (VType.ofCode (f.extractLsb' 0 3)) fun ty => rawVop p (f.extractLsb' 3 5).toNat ty b a d
  | 18 => withCode (Rm.ofCode (f.extractLsb' 5 3)) fun rm => withCode (VType.ofCode (f.extractLsb' 0 3)) fun ty =>
      rawVfma p rm (f.extractLsb' 3 2).toNat ty b a d
  | 19 =>
    if f.extractLsb' 0 1 == 0 then
      withCode (Width.ofCode (f.extractLsb' 3 2)) fun w =>
        if f.extractLsb' 5 1 == 0 then
          withCode (LoadOrder.ofCode (f.extractLsb' 1 2)) fun ord => rawVmemL p (f.extractLsb' 6 2).toNat w ord b a d
        else
          withCode (StoreOrder.ofCode (f.extractLsb' 1 2)) fun ord => rawVmemS p (f.extractLsb' 6 2).toNat w ord b a d
    else .error .reservedBit
  | 20 => rawVmisc p f b a d
  | 21 => rawMsg p f b a d
  | 22 =>
    if x.extractLsb' 31 1 == 0 then rawGroup (x.extractLsb' 29 2) f b a d
    else if x.extractLsb' 19 1 == 0 then
      let off := x.extractLsb' 20 11
      let hint := x.extractLsb' 18 1 == 1
      let bt := x.extractLsb' 11 6
      let pr := x.extractLsb' 8 3
      let slot := x.extractLsb' 6 2
      if x.extractLsb' 17 1 == 0 then .ok (.cbrAll off hint bt pr slot) else .ok (.cbrAny off hint bt pr slot)
    else .error .reservedBit
  | 23 => rawCpy p f b a d
  | 24 => rawTile p (f.extractLsb' 4 4).toNat (f.extractLsb' 0 4) b a d
  | 25 => rawYard (x.extractLsb' 28 4).toNat (x.extractLsb' 26 2) (x.extractLsb' 21 5) b a d
  | 26 => rawFab p f b a d
  | 27 => rawSys p f b a d
  | _ => .error .reservedMajor

/-- An instruction within its operand limits, or the rejection of one beyond them (R115). -/
def limited (r : Decoded) : Decoded :=
  match r with
  | .ok i => if i.wf then .ok i else .error .operandLimit
  | .error e => .error e

/-- Decode a 32-bit instruction of the core. -/
def decode32 (x : BitVec 32) : Decoded := limited (raw32 x)

/-- Decode a lane form (R133, R134). -/
def decode16 (h : BitVec 16) : Decoded :=
  if h == 0 then .error .zeroHalfword
  else limited (rawLane16 (h.extractLsb' 13 3) (h.extractLsb' 1 4).toNat (h.extractLsb' 9 4) (h.extractLsb' 5 4))

/-- Decode from bytes, lowest address first (R3, R109): the instruction and its length in bytes. -/
def decodeBytes : List Byte → Except Reject (Instr × Nat)
  | b0 :: b1 :: rest =>
    let h0 : BitVec 16 := b1 ++ b0
    if h0.extractLsb' 0 1 == 0 then (decode16 h0).map fun i => (i, 2)
    else
      match rest with
      | b2 :: b3 :: _ => (decode32 ((b3 ++ b2) ++ h0)).map fun i => (i, 4)
      | _ => .error .truncated
  | _ => .error .truncated

/-- Custom-0 (R454). -/
def rawTk0 (f3 : Nat) (rs2 rs1 rd : BitVec 5) : Decoded :=
  match f3 with
  | 0 => zeros (rd == 0) (.tkSend rs1 rs2)
  | 1 => .ok (.tkRecv rd rs1 rs2)
  | 2 => zeros (rs2 == 0) (.tkRecvAny rd rs1)
  | 3 => zeros (rd == 0) (.tkCopy rs1 rs2)
  | 4 => zeros (rd == 0) (.tkWait rs1 rs2)
  | 5 => zeros (rd == 0) (.tkSig rs1 rs2)
  | 6 => zeros (rs2 == 0 && rs1 == 0 && rd == 0) (.tkFlush)
  | 7 => zeros (rs2 == 0 && rd == 0) (.tkDone rs1)
  | _ => .error .reservedCode

/-- Decode a tack instruction of a sequencer (R454); any other word is left to RV64. -/
def decodeTack (x : BitVec 32) : Decoded :=
  let f7 := x.extractLsb' 25 7
  let rs2 := x.extractLsb' 20 5
  let rs1 := x.extractLsb' 15 5
  let rd := x.extractLsb' 7 5
  let f3 := (x.extractLsb' 12 3).toNat
  match (x.extractLsb' 0 7).toNat with
  | 0x0B => if f7 == 0 then rawTk0 f3 rs2 rs1 rd else .error .reservedBit
  | 0x2B => withCode (TkOp.ofCode (f7.extractLsb' 3 4)) fun op => withCode (TkFmt.ofCode (f7.extractLsb' 0 3)) fun fmt =>
      match f3 with
      | 0 => if rd == 0 then limited (.ok (.tkRed op fmt rs1 rs2)) else .error .reservedBit
      | 1 => if rd == 0 && rs2 == 0 then limited (.ok (.tkReds op fmt rs1)) else .error .reservedBit
      | _ => .error .reservedCode
  | _ => .error .notTack

/-! ## Encoding -/

/-- The 32-bit word of a core instruction; 0 for a lane form, a tack instruction or an event. -/
def encode32 : Instr → BitVec 32

  | .add w p d a b => layR p (0#1 ++ bit w ++ 0#6) b a d 0
  | .sub w p d a b => layR p (0#1 ++ bit w ++ 1#6) b a d 0
  | .and w p d a b => layR p (0#1 ++ bit w ++ 2#6) b a d 0
  | .or w p d a b => layR p (0#1 ++ bit w ++ 3#6) b a d 0
  | .xor w p d a b => layR p (0#1 ++ bit w ++ 4#6) b a d 0
  | .shl w p d a b => layR p (0#1 ++ bit w ++ 5#6) b a d 0
  | .shr w p d a b => layR p (0#1 ++ bit w ++ 6#6) b a d 0
  | .sar w p d a b => layR p (0#1 ++ bit w ++ 7#6) b a d 0
  | .slt w p d a b => layR p (0#1 ++ bit w ++ 8#6) b a d 0
  | .sltu w p d a b => layR p (0#1 ++ bit w ++ 9#6) b a d 0
  | .mul p d a b => layR p (0#1 ++ 0#1 ++ 10#6) b a d 0
  | .mulh p d a b => layR p (0#1 ++ 0#1 ++ 11#6) b a d 0
  | .mulhu p d a b => layR p (0#1 ++ 0#1 ++ 12#6) b a d 0
  | .div p d a b => layR p (0#1 ++ 0#1 ++ 13#6) b a d 0
  | .divu p d a b => layR p (0#1 ++ 0#1 ++ 14#6) b a d 0
  | .rem p d a b => layR p (0#1 ++ 0#1 ++ 15#6) b a d 0
  | .remu p d a b => layR p (0#1 ++ 0#1 ++ 16#6) b a d 0
  | .min p d a b => layR p (0#1 ++ 0#1 ++ 17#6) b a d 0
  | .max p d a b => layR p (0#1 ++ 0#1 ++ 18#6) b a d 0
  | .minu p d a b => layR p (0#1 ++ 0#1 ++ 19#6) b a d 0
  | .maxu p d a b => layR p (0#1 ++ 0#1 ++ 20#6) b a d 0
  | .popc w p d a => layR p (0#1 ++ bit w ++ 21#6) 0 a d 0
  | .clz w p d a => layR p (0#1 ++ bit w ++ 22#6) 0 a d 0
  | .ctz w p d a => layR p (0#1 ++ bit w ++ 23#6) 0 a d 0
  | .brev p d a => layR p (0#1 ++ 0#1 ++ 24#6) 0 a d 0
  | .bfx p d a b => layR p (0#1 ++ 0#1 ++ 25#6) b a d 0
  | .bfi p d a b => layR p (0#1 ++ 0#1 ++ 26#6) b a d 0
  | .andn p d a b => layR p (0#1 ++ 0#1 ++ 27#6) b a d 0
  | .orn p d a b => layR p (0#1 ++ 0#1 ++ 28#6) b a d 0
  | .rol w p d a b => layR p (0#1 ++ bit w ++ 29#6) b a d 0
  | .ror w p d a b => layR p (0#1 ++ bit w ++ 30#6) b a d 0
  | .bswap p d a => layR p (0#1 ++ 0#1 ++ 31#6) 0 a d 0
  | .addi d a imm => layI imm a d 1
  | .andi d a imm => layI imm a d 2
  | .ori d a imm => layI imm a d 3
  | .xori d a imm => layI imm a d 4
  | .slti d a imm => layI imm a d 6
  | .jalr d a imm => layI imm a d 11
  | .shli w amt d a => layI (0#2 ++ 0#2 ++ bit w ++ amt ++ 0#5) a d 5
  | .shri w amt d a => layI (0#2 ++ 1#2 ++ bit w ++ amt ++ 0#5) a d 5
  | .sari w amt d a => layI (0#2 ++ 2#2 ++ bit w ++ amt ++ 0#5) a d 5
  | .rori w amt d a => layI (0#2 ++ 3#2 ++ bit w ++ amt ++ 0#5) a d 5
  | .lhi d imm => layU imm d 7
  | .addpc d imm => layU imm d 8
  | .jal d imm => layU imm d 10
  | .beq a b off => layB off 0 b a 9
  | .bne a b off => layB off 1 b a 9
  | .blt a b off => layB off 2 b a 9
  | .bge a b off => layB off 3 b a 9
  | .bltu a b off => layB off 4 b a 9
  | .bgeu a b off => layB off 5 b a 9
  | .bbs a b off => layB off 6 b a 9
  | .bbc a b off => layB off 7 b a 9
  | .bany a off => layB off 8 0 (0#2 ++ a) 9
  | .ball a off => layB off 9 0 (0#2 ++ a) 9
  | .bnone a off => layB off 10 0 (0#2 ++ a) 9
  | .loopi len count => layL 0 len count 12
  | .loops len dim d a => layL 1 len ((0#3 ++ dim) ++ a ++ d) 12
  | .ld p off ord zx w d base => layR p off (ord.code ++ bit zx ++ w.code) base d 13
  | .st p off ord w a base => layR p off (ord.code ++ 0#1 ++ w.code) base a 14
  | .amoswap p posted ord w d a base => layR p (bit posted ++ ord.code ++ bit w ++ 0#4) a base d 15
  | .amoadd p posted ord w d a base => layR p (bit posted ++ ord.code ++ bit w ++ 1#4) a base d 15
  | .amoand p posted ord w d a base => layR p (bit posted ++ ord.code ++ bit w ++ 2#4) a base d 15
  | .amoor p posted ord w d a base => layR p (bit posted ++ ord.code ++ bit w ++ 3#4) a base d 15
  | .amoxor p posted ord w d a base => layR p (bit posted ++ ord.code ++ bit w ++ 4#4) a base d 15
  | .amomin p posted ord w d a base => layR p (bit posted ++ ord.code ++ bit w ++ 5#4) a base d 15
  | .amomax p posted ord w d a base => layR p (bit posted ++ ord.code ++ bit w ++ 6#4) a base d 15
  | .amominu p posted ord w d a base => layR p (bit posted ++ ord.code ++ bit w ++ 7#4) a base d 15
  | .amomaxu p posted ord w d a base => layR p (bit posted ++ ord.code ++ bit w ++ 8#4) a base d 15
  | .amocas p ord w d a base => layR p (0#1 ++ ord.code ++ bit w ++ 9#4) a base d 15
  | .amofadd p posted ord d a base => layR p (bit posted ++ ord.code ++ 1#1 ++ 10#4) a base d 15
  | .fence p a => layR p 0 0 a 0 16
  | .fenceLb p => layR p 1 0 0 0 16
  | .watch p cmp a b => layR p 2 b a cmp.code 16
  | .barArr p a => layR p 3 0 a 0 16
  | .barWait p a b => layR p 4 b a 0 16
  | .mput p a mbox => layR p 5 (0#2 ++ mbox) a 0 16
  | .mget p d mbox => layR p 6 (0#2 ++ mbox) 0 d 16
  | .wait p cls => layR p 7 cls.code 0 0 16
  | .twaitSrc p a => layR p 8 0 a 0 16
  | .twaitVis p a => layR p 9 0 a 0 16
  | .vadd p ty d a b => layR p (0#5 ++ ty.code) b a d 17
  | .vsub p ty d a b => layR p (1#5 ++ ty.code) b a d 17
  | .vmul p ty d a b => layR p (2#5 ++ ty.code) b a d 17
  | .vcmul p d a b => layR p (3#5 ++ 3#3) b a d 17
  | .vmax p ty d a b => layR p (4#5 ++ ty.code) b a d 17
  | .vmin p ty d a b => layR p (5#5 ++ ty.code) b a d 17
  | .vmaxUnsigned p ty d a b => layR p (6#5 ++ ty.code) b a d 17
  | .vminUnsigned p ty d a b => layR p (7#5 ++ ty.code) b a d 17
  | .vneg p ty d a => layR p (8#5 ++ ty.code) 0 a d 17
  | .vabs p ty d a => layR p (9#5 ++ ty.code) 0 a d 17
  | .vshl p ty d a b => layR p (10#5 ++ ty.code) b a d 17
  | .vshr p ty d a b => layR p (11#5 ++ ty.code) b a d 17
  | .vsar p ty d a b => layR p (12#5 ++ ty.code) b a d 17
  | .vand p d a b => layR p (13#5 ++ 0#3) b a d 17
  | .vor p d a b => layR p (14#5 ++ 0#3) b a d 17
  | .vxor p d a b => layR p (15#5 ++ 0#3) b a d 17
  | .vmov p d a => layR p (16#5 ++ 0#3) 0 a d 17
  | .vdiv p ty d a b => layR p (17#5 ++ ty.code) b a d 17
  | .vsqrt p ty d a => layR p (18#5 ++ ty.code) 0 a d 17
  | .vconj p d a => layR p (19#5 ++ 3#3) 0 a d 17
  | .vadds p ty d a b => layR p (20#5 ++ ty.code) b a d 17
  | .vsubs p ty d a b => layR p (21#5 ++ ty.code) b a d 17
  | .vfma p rm ty d a b => layR p (rm.code ++ 0#2 ++ ty.code) b a d 18
  | .vfms p rm ty d a b => layR p (rm.code ++ 1#2 ++ ty.code) b a d 18
  | .vfnma p rm ty d a b => layR p (rm.code ++ 2#2 ++ ty.code) b a d 18
  | .vfnms p rm ty d a b => layR p (rm.code ++ 3#2 ++ ty.code) b a d 18
  | .vld p w ord d base x => layR p (0#2 ++ 0#1 ++ w.code ++ ord.code ++ 0#1) x base d 19
  | .vlds p w ord d base x => layR p (1#2 ++ 0#1 ++ w.code ++ ord.code ++ 0#1) x base d 19
  | .vldx p w ord d base x => layR p (2#2 ++ 0#1 ++ w.code ++ ord.code ++ 0#1) x base d 19
  | .vst p w ord a base x => layR p (0#2 ++ 1#1 ++ w.code ++ ord.code ++ 0#1) x base a 19
  | .vsts p w ord a base x => layR p (1#2 ++ 1#1 ++ w.code ++ ord.code ++ 0#1) x base a 19
  | .vstx p w ord a base x => layR p (2#2 ++ 1#1 ++ w.code ++ ord.code ++ 0#1) x base a 19
  | .vcmpeq p ty d a b => layR p (0#2 ++ 0#3 ++ ty.code) b a (0#2 ++ d) 20
  | .vcmpne p ty d a b => layR p (0#2 ++ 1#3 ++ ty.code) b a (0#2 ++ d) 20
  | .vcmplt p ty d a b => layR p (0#2 ++ 2#3 ++ ty.code) b a (0#2 ++ d) 20
  | .vcmple p ty d a b => layR p (0#2 ++ 3#3 ++ ty.code) b a (0#2 ++ d) 20
  | .vcmpltUnsigned p ty d a b => layR p (0#2 ++ 4#3 ++ ty.code) b a (0#2 ++ d) 20
  | .vcmpleUnsigned p ty d a b => layR p (0#2 ++ 5#3 ++ ty.code) b a (0#2 ++ d) 20
  | .vcmpun p ty d a b => layR p (0#2 ++ 6#3 ++ ty.code) b a (0#2 ++ d) 20
  | .vcvt p dt st rm d a => layR p (1#2 ++ dt.code ++ st.code) (0#2 ++ rm.code) a d 20
  | .vbcast p w d a => layR p (32#6 ++ w.code) 0 a d 20
  | .vext p w d a b => layR p (33#6 ++ w.code) b a d 20
  | .vins p w d a b => layR p (34#6 ++ w.code) b a d 20
  | .vperm p d a b => layR p 140 b a d 20
  | .vsel p d a b => layR p 141 b a d 20
  | .vslideup p d a b => layR p 142 b a d 20
  | .vslidedn p d a b => layR p 143 b a d 20
  | .pand d a b => layR 0 144 (0#2 ++ b) (0#2 ++ a) (0#2 ++ d) 20
  | .por d a b => layR 0 145 (0#2 ++ b) (0#2 ++ a) (0#2 ++ d) 20
  | .pxor d a b => layR 0 146 (0#2 ++ b) (0#2 ++ a) (0#2 ++ d) 20
  | .pnot d a => layR 0 147 0 (0#2 ++ a) (0#2 ++ d) 20
  | .pmov d a => layR 0 148 0 a (0#2 ++ d) 20
  | .pget d a => layR 0 149 0 (0#2 ++ a) d 20
  | .pcnt d a => layR 0 150 0 (0#2 ++ a) d 20
  | .pfirst d a => layR 0 151 0 (0#2 ++ a) d 20
  | .vredadd p ty d a => layR p (3#2 ++ 0#3 ++ ty.code) 0 a d 20
  | .vredmax p ty d a => layR p (3#2 ++ 1#3 ++ ty.code) 0 a d 20
  | .vredmin p ty d a => layR p (3#2 ++ 2#3 ++ ty.code) 0 a d 20
  | .vpack p fmt rm d a => layR p (3#2 ++ 3#3 ++ fmt.code) (0#2 ++ rm.code) a d 20
  | .vunpk p fmt d a b => layR p (3#2 ++ 4#3 ++ fmt.code) b a d 20
  | .sendm p a b => layR p 0 b a 0 21
  | .recvm p d a => layR p 1 0 a d 21
  | .rcall p d a b => layR p 2 b a d 21
  | .rret p d a b => layR p 3 b a d 21
  | .rgrab p d a => layR p 4 0 a d 21
  | .gjoin slot a b => layR (0#1 ++ slot) 0 b a 0 22
  | .gleave slot => layR (0#1 ++ slot) 1 0 0 0 22
  | .ginfo slot d => layR (0#1 ++ slot) 2 0 0 d 22
  | .gabsent slot => layR (0#1 ++ slot) 3 0 0 0 22
  | .cbrAll off hint bt p slot => layC off 0 (bit hint) 0 bt p slot 22
  | .cbrAny off hint bt p slot => layC off 0 (bit hint) 1 bt p slot 22
  | .cpy p ctl base scope => layR p 0 scope base ctl 23
  | .cpyBar p ctl base scope => layR p 1 scope base ctl 23
  | .mma p fmt pb a b => layR p (0#4 ++ 0#1 ++ fmt.code) b a (0#1 ++ pb) 24
  | .msacc p z pb b => layR p (1#4 ++ 0#4) b (0#1 ++ pb) (0#2 ++ z) 24
  | .msaccV p z pb b => layR p (2#4 ++ 0#4) b (0#1 ++ pb) (0#2 ++ z) 24
  | .mzero p z => layR p (3#4 ++ 0#4) 0 0 (0#2 ++ z) 24
  | .mldz p z a => layR p (4#4 ++ 0#4) 0 a (0#2 ++ z) 24
  | .mstz p bf rm z a => layR p (5#4 ++ rm.code ++ bit bf) 0 a (0#2 ++ z) 24
  | .mcommit p => layR p (6#4 ++ 0#4) 0 0 0 24
  | .mwait p n => layR p (7#4 ++ 0#4) n 0 0 24
  | .mresume p a => layR p (8#4 ++ 0#4) 0 a 0 24
  | .mvs p fmt pb a b => layR p (9#4 ++ 0#1 ++ fmt.code) b a (0#1 ++ pb) 24
  | .ycfg a => layY 0 0 0 0 a 0 25
  | .yswap r l => layY 1 (0#1 ++ r.extractLsb' 5 1) (r.extractLsb' 0 5) (0#4 ++ l.extractLsb' 5 1) (l.extractLsb' 0 5) 0 25
  | .ywant two b0 b1 => layY 2 (bit two ++ b0.extractLsb' 5 1) (b0.extractLsb' 0 5) (0#4 ++ b1.extractLsb' 5 1) (b1.extractLsb' 0 5) 0 25
  | .ysync => layY 3 0 0 0 0 0 25
  | .ygen d => layY 4 0 0 0 0 d 25
  | .axa ty d a b => layY 5 ty.code 0 b a d 25
  | .axd ty a b => layY 6 ty.code 0 b a 0 25
  | .axs ty axpy a b => layY 7 ty.code (0#4 ++ bit axpy) b a 0 25
  | .axn ty d => layY 8 ty.code 0 0 0 d 25
  | .put p d a => layR p 0 0 a d 26
  | .puts p d a b => layR p 1 b a d 26
  | .get p d a => layR p 2 0 a d 26
  | .radd p d a b => layR p 3 b a d 26
  | .coll p d a b => layR p 4 b a d 26
  | .exit p => layR p 0 0 0 0 27
  | .trap p => layR p 1 0 0 0 27
  | .tret p => layR p 2 0 0 0 27
  | .srd p d num => layR p 3 (num.extractLsb' 5 5) (num.extractLsb' 0 5) d 27
  | .swr p a num => layR p 4 (num.extractLsb' 5 5) (num.extractLsb' 0 5) a 27
  | .ctxs p a => layR p 5 0 a 0 27
  | .ctxr p halt a => layR p 6 0 a (0#4 ++ bit halt) 27
  | .tinv p a b => layR p 7 b a 0 27
  | _ => 0

/-- The halfword of a lane form; 0 for every other instruction. -/
def encode16 : Instr → BitVec 16
  | .vaddN p vd va => layN p va vd 0
  | .vsubN p vd va => layN p va vd 1
  | .vmulN p vd va => layN p va vd 2
  | .vmaxN p vd va => layN p va vd 3
  | .vminN p vd va => layN p va vd 4
  | .vnegN p vd va => layN p va vd 5
  | .vabsN p vd va => layN p va vd 6
  | .vaddI32N p vd va => layN p va vd 7
  | .vsubI32N p vd va => layN p va vd 8
  | .vmulI32N p vd va => layN p va vd 9
  | .vshlI32N p vd va => layN p va vd 10
  | .vandN p vd va => layN p va vd 11
  | .vorN p vd va => layN p va vd 12
  | .vxorN p vd va => layN p va vd 13
  | .vmovN p vd va => layN p va vd 14
  | .vcmulC64N p vd va => layN p va vd 15
  | _ => 0

/-- The word of a tack instruction; 0 for every other instruction. -/
def encodeTack : Instr → BitVec 32
  | .tkSend rs1 rs2 => layT 0 rs2 rs1 0 0 0x0B
  | .tkRecv rd rs1 rs2 => layT 0 rs2 rs1 1 rd 0x0B
  | .tkRecvAny rd rs1 => layT 0 0 rs1 2 rd 0x0B
  | .tkCopy rs1 rs2 => layT 0 rs2 rs1 3 0 0x0B
  | .tkWait rs1 rs2 => layT 0 rs2 rs1 4 0 0x0B
  | .tkSig rs1 rs2 => layT 0 rs2 rs1 5 0 0x0B
  | .tkFlush => layT 0 0 0 6 0 0x0B
  | .tkDone rs1 => layT 0 0 rs1 7 0 0x0B
  | .tkRed op fmt rs1 rs2 => layT (op.code ++ fmt.code) rs2 rs1 0 0 0x2B
  | .tkReds op fmt rs1 => layT (op.code ++ fmt.code) 0 rs1 1 0 0x2B
  | _ => 0

/-- The bits of an instruction, zero-extended to 32, as TVAL holds them (R115). -/
def encode (i : Instr) : BitVec 32 :=
  if i.isLane then (encode16 i).setWidth 32 else if i.isTack then encodeTack i else encode32 i

/-- The length of an instruction in bytes (R109). -/
def Instr.len (i : Instr) : Nat := if i.isLane then 2 else 4

/-- The bytes of an instruction, lowest address first. -/
def encodeBytes (i : Instr) : List Byte :=
  let x := encode i
  if i.isLane then [x.extractLsb' 0 8, x.extractLsb' 8 8]
  else [x.extractLsb' 0 8, x.extractLsb' 8 8, x.extractLsb' 16 8, x.extractLsb' 24 8]

/-- The bytes of a table word: `nbits` bits of it and zeros above, four bytes in all. -/
def tableBytes (nbits w : Nat) : List Byte :=
  let x : BitVec 32 := BitVec.ofNat 32 (w % 2 ^ nbits)
  [x.extractLsb' 0 8, x.extractLsb' 8 8, x.extractLsb' 16 8, x.extractLsb' 24 8]

/-- What the decoder reads from a word of the opcode table. Words of the tack rows of the table are core instructions as
well (majors 5 and 21): such a word is read as the tack instruction, but for the message instructions other than sendm
with every operand field zero, which are read as the core's (DESIGN CHOICE, log entry 4). -/
def decodeTableWord (nbits w : Nat) : Option Instr :=
  let x : BitVec 32 := BitVec.ofNat 32 (w % 2 ^ nbits)
  let core := match decodeBytes (tableBytes nbits w) with
    | .ok (i, _) => some i
    | .error _ => none
  if x &&& 0xFF1FFFFF#32 = 0x2B#32 ∧ x ≠ 0x2B#32 then core
  else match decodeTack x with
    | .ok i => some i
    | .error _ => core

end Sys2Proof
end

