-- ==== Sys2Proof/Machine/Memory.lean ====
section
/-! DEFINITION. Byte memory as plain data. One flat space of places holds every byte the module has: HBM, local memories,
tile memories, slice lines, shadow stores, sequencer memories and the host's bus memory, each in a region of its own. -/

namespace Sys2Proof.Machine

/-- What a byte that nothing has written reads as (DESIGN CHOICE, log entry 5). -/
def Memory.blank : Byte := 0

/-- Bytes by place, keys rising, none equal to `Memory.blank`; and the aligned eight-byte words (place divided by eight)
that hold the poison code of an uncorrectable ECC error (R293), rising. -/
structure Memory where
  cells  : List Host.Cell
  poison : List Nat
  deriving DecidableEq, Repr

/-- The keys of a list of cells rise and none of its bytes is blank: `lo` is below every key. -/
def cellsFrom (lo : Nat) : List Host.Cell → Bool
  | [] => true
  | (a, b) :: m => decide (lo ≤ a) && decide (b ≠ Memory.blank) && cellsFrom (a + 1) m

/-- A list of numbers rises, none below `lo`. -/
def risingFrom (lo : Nat) : List Nat → Bool
  | [] => true
  | a :: m => decide (lo ≤ a) && risingFrom (a + 1) m

/-- The canonical form of a memory. -/
def Memory.wf (m : Memory) : Bool := cellsFrom 0 m.cells && risingFrom 0 m.poison

/-- Look a byte up. -/
def cellGet : List Host.Cell → Nat → Byte
  | [], _ => Memory.blank
  | (j, b) :: m, a => if a = j then b else if a < j then Memory.blank else cellGet m a

/-- Put a byte, keeping the canonical form. -/
def cellPut : List Host.Cell → Nat → Byte → List Host.Cell
  | [], a, v => if v = Memory.blank then [] else [(a, v)]
  | (j, b) :: m, a, v =>
    if a = j then (if v = Memory.blank then m else (a, v) :: m)
    else if a < j then (if v = Memory.blank then (j, b) :: m else (a, v) :: (j, b) :: m)
    else (j, b) :: cellPut m a v

/-- Add a number to a rising list. -/
def insertNat : List Nat → Nat → List Nat
  | [], a => [a]
  | j :: m, a => if a = j then j :: m else if a < j then a :: j :: m else j :: insertNat m a

/-- Remove a number from a rising list. -/
def removeNat : List Nat → Nat → List Nat
  | [], _ => []
  | j :: m, a => if a = j then m else j :: removeNat m a

/-- The byte at a place. -/
def Memory.byte (m : Memory) (a : Nat) : Byte := cellGet m.cells a

/-- Write one byte. -/
def Memory.putByte (m : Memory) (a : Nat) (v : Byte) : Memory := { m with cells := cellPut m.cells a v }

/-- Does the aligned word that holds place `a` hold the poison code? -/
def Memory.poisoned (m : Memory) (a : Nat) : Bool := m.poison.elem (a / 8)

/-- Mark the aligned word that holds place `a` as poisoned. -/
def Memory.poisonWord (m : Memory) (a : Nat) : Memory := { m with poison := insertNat m.poison (a / 8) }

/-- Clear the poison code of the aligned word that holds place `a`. -/
def Memory.cleanWord (m : Memory) (a : Nat) : Memory := { m with poison := removeNat m.poison (a / 8) }

/-- `n` bytes at `a`, byte 0 least significant (R3). -/
def Memory.read (m : Memory) (a : Nat) : Nat → Nat
  | 0 => 0
  | n + 1 => (m.byte a).toNat + 256 * Memory.read m (a + 1) n

/-- Write the `n` low bytes of `v` at `a`, byte 0 least significant (R3), whatever the poison codes. -/
def Memory.write (m : Memory) (a : Nat) : Nat → Nat → Memory
  | 0, _ => m
  | n + 1, v => Memory.write (m.putByte a (BitVec.ofNat 8 v)) (a + 1) n (v / 256)

/-- Is any of the aligned words that bytes `a` to `a + n - 1` touch poisoned? -/
def Memory.anyPoison (m : Memory) (a n : Nat) : Bool :=
  m.poison.any fun w => decide (a / 8 ≤ w) && decide (w * 8 < a + n)

/-- Write within one aligned word (R293): a whole word replaces a poison code; a part of a poisoned word is lost. -/
def Memory.store (m : Memory) (a n v : Nat) : Memory :=
  if n = 8 ∧ a % 8 = 0 then (m.cleanWord a).write a 8 v
  else if m.poisoned a then m
  else m.write a n v

/-- The bytes at `a`, lowest address first. -/
def Memory.bytes (m : Memory) (a : Nat) : Nat → List Byte
  | 0 => []
  | n + 1 => m.byte a :: Memory.bytes m (a + 1) n

/-- Put a run of bytes, lowest address first. -/
def Memory.putBytes (m : Memory) (a : Nat) : List Byte → Memory
  | [] => m
  | b :: bs => Memory.putBytes (m.putByte a b) (a + 1) bs

/-- Write `n` aligned words from `a` on, the k-th of them `f k`; the words are clean afterwards. -/
def Memory.storeWords (m : Memory) (a : Nat) (f : Nat → Nat) : Nat → Memory
  | 0 => m
  | n + 1 => (Memory.storeWords m a f n).store (a + 8 * n) 8 (f n)

/-- Copy `n` aligned words from `a` to `b`, poison codes with them (R344). -/
def Memory.copyWords (m : Memory) (a b : Nat) : Nat → Memory
  | 0 => m
  | n + 1 =>
    let m' := (Memory.copyWords m a b n).store (b + 8 * n) 8 (m.read (a + 8 * n) 8)
    if m.poisoned (a + 8 * n) then m'.poisonWord (b + 8 * n) else m'

/-- Blank the bytes of `[lo, hi)`. -/
def Memory.erase (m : Memory) (lo hi : Nat) : Memory :=
  { cells := m.cells.filter fun c => !(decide (lo ≤ c.1) && decide (c.1 < hi))
    poison := m.poison.filter fun w => !(decide (lo ≤ 8 * w) && decide (8 * w < hi)) }

/-- Exchange the contents of two regions of `n` bytes, both aligned to 8 (R275). -/
def Memory.exchange (m : Memory) (a b n : Nat) : Memory :=
  let ca := m.cells.filter fun c => decide (a ≤ c.1) && decide (c.1 < a + n)
  let cb := m.cells.filter fun c => decide (b ≤ c.1) && decide (c.1 < b + n)
  let pa := m.poison.filter fun w => decide (a ≤ 8 * w) && decide (8 * w < a + n)
  let pb := m.poison.filter fun w => decide (b ≤ 8 * w) && decide (8 * w < b + n)
  let m0 := (m.erase a (a + n)).erase b (b + n)
  let m1 : Memory := ca.foldl (fun x c => x.putByte (c.1 - a + b) c.2) m0
  let m2 : Memory := cb.foldl (fun x c => x.putByte (c.1 - b + a) c.2) m1
  let m3 : Memory := pa.foldl (fun x w => x.poisonWord (8 * w - a + b)) m2
  pb.foldl (fun x w => x.poisonWord (8 * w - b + a)) m3

/-! ## The regions of the flat space -/

/-- Base of the local memories, one of 2^20 bytes for each core (R15). HBM stands below, at its physical addresses. -/
def Region.local (core : Nat) : Nat := 2 ^ 41 + core * 2 ^ 20
/-- Accumulator tile `z` of a core: 4,096 pairs of eight bytes (R352). -/
def Region.tile (core z : Nat) : Nat := 2 ^ 42 + core * 2 ^ 19 + z * 2 ^ 15
/-- Partial-bank slot of a core: 4,096 values of four bytes (R352). -/
def Region.pbank (core pb : Nat) : Nat := 2 ^ 42 + core * 2 ^ 19 + 2 ^ 18 + pb * 2 ^ 14
/-- Shadow copy of a core's local memory (R275). -/
def Region.shadowLocal (core : Nat) : Nat := 2 ^ 43 + core * 2 ^ 20
/-- Shadow copy of a core's tile memory (R275). -/
def Region.shadowTile (core : Nat) : Nat := 2 ^ 44 + core * 2 ^ 19
/-- Local memory of a sequencer, 256 KiB (R446). -/
def Region.seq (q : Nat) : Nat := 2 ^ 45 + q * 2 ^ 18
/-- The host's bus memory, reached through pages of kind 5 (R285). -/
def Region.host (a : Nat) : Nat := 2 ^ 46 + a
/-- The data of the line at physical address `pa` in the slice of core `home` (R290). -/
def Region.slice (home pa : Nat) : Nat := 2 ^ 48 + home * 2 ^ 41 + pa

end Sys2Proof.Machine
end

