-- ==== Sys2Proof/Machine/State.lean ====
section
/-! DEFINITION. The state of one Igvin module as plain data, the reasons a step can stop, and the state after reset. -/

namespace Sys2Proof.Machine

/-- Why the machine stops. Every exception the spec describes is a next state, so only one reason is left. -/
inductive Fault where
  /-- Raised by no meaning at present: an access to memory that no region of the flat space holds. Safe: the machine
  stops where the spec names no byte. -/
  | noSuchMemory
  deriving DecidableEq, Repr

/-- Why an instruction has no meaning here. -/
inductive Refusal where
  /-- Raised by `exec` for an instruction that is not modelled yet. Safe: nothing follows from a refused step. -/
  | notModelled (mnemonic : String)
  deriving DecidableEq, Repr

/-! ## A thread -/

/-- A scalar register with its pending bit, poison bit and refusal subcode (R135-R138). -/
structure Reg where
  val    : Word
  pend   : Bool
  poison : Bool
  sub    : BitVec 8
  deriving DecidableEq, Repr

/-- A vector register with its pending bit, poison bit and refusal subcode (R135-R138). -/
structure VReg where
  val    : Vec
  pend   : Bool
  poison : Bool
  sub    : BitVec 8
  deriving DecidableEq, Repr

/-- A register that reads zero and is neither pending nor poisoned. -/
def Reg.zero : Reg := ⟨0, false, false, 0⟩
/-- A vector register that reads zero and is neither pending nor poisoned. -/
def VReg.zero : VReg := ⟨0, false, false, 0⟩

/-- The state of a slot (R33). -/
inductive SlotState where | idle | ready | waiting | haltedNested | swapped
  deriving DecidableEq, Repr

/-- What a WAITING thread waits for (R33). The waiting instruction is tried again in the slot's next owned cycle. -/
inductive Wait where
  | register                        -- a pending register (R31, R137)
  | count                           -- an OSTAT class at its limit (R149)
  | order                           -- an access that R205 or R217 holds at issue
  | locked                          -- a locked range (R322)
  | fence
  | watch (word : Nat) (done : Bool) -- `watch` and `bar.wait`: the place watched, and whether a write satisfied it
  | mailbox
  | classCount                      -- `wait`
  | token                           -- `twait.src`, `twait.vis`
  | message (id : Nat)              -- `sendm`, until the target answers
  | recv (sender : Option Nat) (tag : Nat) -- `recvm`: the named sender, and the wait tag
  | call                            -- `rret`
  | join (slot : Nat)               -- `gjoin`
  | agreement (slot : Nat)          -- a reissued agreed branch
  | path                            -- a stall on a run-ahead path (R249)
  | queue                           -- room in an engine's queue, a lock table or the commit buffer
  | walk                            -- a walk of the die's walker that is free (R299)
  | tile                            -- `mwait`, `mcommit`
  | yard                            -- `ysync`, `axn`, `ycfg`
  | invalidate (id : Nat)           -- `tinv`
  | save                            -- `ctxs`, until no register is pending
  | parked                          -- `ctxr` with HALT = 1
  | ending                          -- `exit`, until R42 is met
  deriving DecidableEq, Repr

/-- One loop-stack entry with the mode in which it was pushed (R152). -/
structure LoopEntry where
  lbeg : Word
  lend : Word
  lcnt : BitVec 32
  sup  : Bool
  deriving DecidableEq, Repr

/-- An empty loop-stack entry. -/
def LoopEntry.zero : LoopEntry := ⟨0, 0, 0, false⟩

/-- A membership register (R240), the group id beside it (R243), the number of agreed branches issued on it (R246), and
what a join found while its wait was abandoned: 0 joined, else the GROUP subcode (R277, R275). -/
structure Memb where
  valid   : Bool
  diss    : Bool
  contrib : Bool
  latch   : Bool
  outcome : Bool
  absok   : Bool
  rooted  : Bool
  absent  : Bool
  mismatch : Bool
  count   : BitVec 24
  index   : BitVec 24
  gid     : BitVec 48
  ordinal : Nat
  note    : Option (BitVec 8)
  deriving DecidableEq, Repr

/-- No membership. -/
def Memb.none : Memb := ⟨false, false, false, false, false, false, false, false, false, 0, 0, 0, 0, Option.none⟩

/-- TSTATUS by its fields (R259). -/
structure TStatus where
  ipMessage : Bool
  ipPreempt : Bool
  ipHost    : Bool
  ipTimer   : Bool
  ipMailbox : Bool
  enMessage : Bool
  enHost    : Bool
  enTimer   : Bool
  enMailbox : Bool
  sup       : Bool
  pp        : Bool
  unrc      : Bool
  unrv      : Bool
  phold     : Bool
  hold      : Bool
  deriving DecidableEq, Repr

/-- TSTATUS at a context start: user mode, nothing pending, only PREEMPT enabled (R259). -/
def TStatus.zero : TStatus :=
  ⟨false, false, false, false, false, false, false, false, false, false, false, false, false, false, false⟩

/-- A message in a receive queue (R231): its payload and its sender's descriptor. -/
structure Msg where
  payload : Word
  sender  : Nat
  deriving DecidableEq, Repr

/-- A call in a call queue (R236): its argument and its caller token. -/
structure Call where
  arg   : Word
  token : Word
  deriving DecidableEq, Repr

/-- The place at which an access is performed (R303). -/
inductive Place where
  | loc (core off : Nat)             -- the local memory of a core
  | line (home pa key : Nat)         -- a line in its home slice
  | hbm (home pa key : Nat)          -- HBM, through the home slice without allocation
  | rd (core pa key : Nat)           -- a read-duplicate line in the reading core's slice
  | yard (core index sub : Nat)      -- byte `sub` of yard element `index`, now sent to `core` (R396)
  | host (addr : Nat)                -- the host port
  | mcast (group off : Nat)          -- a multicast aperture
  | bin (bin off : Nat)              -- a feed-bin register
  deriving DecidableEq, Repr

/-- The operation of an atomic (R213), with the compare value of `amocas`. -/
inductive AmoOp where
  | swap | add | and | or | xor | min | max | minu | maxu | cas (cmp : Word) | fadd
  deriving DecidableEq, Repr

/-- One element of an access: its lane, its address, its place, its width in bytes, its data (for a store the value, for
a load the value once read), the bytes a load took from the holding pen at issue (offset and byte, R250), the
single-copy atomic part it belongs to (R204), how it went, and whether it has left for another module. -/
structure Elem where
  lane    : Nat
  va      : Nat
  place   : Place
  w       : Nat
  data    : Nat
  laid    : List (Nat × Byte)
  part    : Nat
  done    : Bool
  poison  : Bool
  refused : Option (BitVec 8)
  sent    : Bool
  deriving DecidableEq, Repr

/-- What an access does. -/
inductive FlightKind where
  | load
  | store
  | amo (op : AmoOp) (word : Bool) (posted : Bool)
  | barArr
  | grab
  deriving DecidableEq, Repr

/-- Where a result goes: nowhere, a scalar register (with the width in bytes and whether it is zero-extended), a vector
register, or the register pair of `rgrab`. -/
inductive Dest where
  | none
  | scalar (r : Nat) (w : Nat) (zx : Bool)
  | vector (r : Nat) (w : Nat)
  | pair (r : Nat)
  deriving DecidableEq, Repr

/-- A remote access under way (R200): its parts in the order of R211, its order keys (R205), whether it was issued on a
run-ahead path, and whether that path has been discarded (R252). -/
structure Flight where
  id     : Nat
  tid    : Nat
  kind   : FlightKind
  elems  : List Elem
  acq    : Bool
  rel    : Bool
  so     : Bool
  dest   : Dest
  path   : Bool
  orphan : Bool
  performed : Bool
  deriving DecidableEq, Repr

/-- A store in the holding pen (R250): the elements of one entry, the page they lie on (its first address and log2 of its
size) where they are translated, and its order keys. -/
structure PenStore where
  elems : List Elem
  page  : Option (Nat × Nat)
  rel   : Bool
  so    : Bool
  deriving DecidableEq, Repr

/-- One item of a thread's program-order sequence of held stores and buffered commands (R251, R252); `path` marks an
item of a path not yet resolved. -/
inductive PenItem where
  | store (path : Bool) (st : PenStore)
  | cmd (path : Bool) (id : Nat)
  deriving DecidableEq, Repr

/-- The checkpoint of an agreed branch (R248). -/
structure Checkpoint where
  s      : Table Reg
  v      : Table VReg
  p      : Table Word
  fflags : BitVec 6
  instret : Word
  loops  : Table LoopEntry
  ldep   : Nat
  deriving DecidableEq, Repr

/-- A path run ahead (R247, R256): the membership slot, the arm, the branch and the other arm, the instructions issued,
a deferred trap (cause, value), whether it is stalled, and the checkpoint. -/
structure Spec where
  slot    : BitVec 2
  hint    : Bool
  cbrPc   : Word
  other   : Word
  run     : Nat
  defer   : Option (Nat × Word)
  stall   : Bool
  ckpt    : Checkpoint
  deriving DecidableEq, Repr

/-- One slot of a core and the thread that lives in it. -/
structure Thread where
  state   : SlotState
  wait    : Option Wait
  pc      : Word
  s       : Table Reg
  v       : Table VReg
  p       : Table Word
  fflags  : BitVec 6
  frm     : BitVec 3
  instret : Word
  tcause  : Word
  tval    : Word
  tepc    : Word
  tvec    : Word
  tscratch : Word
  ncause  : Word
  nval    : Word
  ts      : TStatus
  loops   : Table LoopEntry
  ldep    : Nat
  memb    : Table Memb
  ldCnt   : Nat
  stCnt   : Nat
  amoCnt  : Nat
  fabCnt  : Nat
  errSt   : Bool
  errFab  : Bool
  mNseen  : Bool
  mNv     : Bool
  mOf     : Bool
  mUf     : Bool
  mNx     : Bool
  commits : Nat                    -- `mcommit` instructions executed (R366)
  tgroups : List Nat               -- the group of each tile command not complete
  tstopped : List Nat              -- the group of each stopped command not resumed
  chain   : List (Nat × Bool)      -- the records of a due TILE_FAULT, oldest first, and which of them still stand (R370, R380)
  recvQ   : List Msg
  callQ   : List Call
  callSeq : BitVec 32              -- the slot's call sequence number (R235)
  calls   : List (Nat × BitVec 32) -- outstanding calls: reply register and sequence number
  recvTag : Nat
  refSeq  : BitVec 16
  bp      : Word                   -- breakpoint address, 0 for none
  bpSkip  : Bool                   -- the next fetch takes no breakpoint (R116)
  diverge : Option Word            -- a MAP_DIVERGE to take, with its TVAL
  ir      : Option Instr           -- the instruction at pc, fetched already and waiting to be tried again (R147)
  spec    : Option Spec
  pen     : List PenItem
  deriving DecidableEq, Repr

/-- An idle slot: every register reads zero, predicates p1-p7 are zero, nothing is held (R41, R258). -/
def Thread.idle : Thread where
  state := .idle
  wait := none
  pc := 0
  s := []
  v := []
  p := []
  fflags := 0
  frm := 0
  instret := 0
  tcause := 0
  tval := 0
  tepc := 0
  tvec := 0
  tscratch := 0
  ncause := 0
  nval := 0
  ts := .zero
  loops := []
  ldep := 0
  memb := []
  ldCnt := 0
  stCnt := 0
  amoCnt := 0
  fabCnt := 0
  errSt := false
  errFab := false
  mNseen := false
  mNv := false
  mOf := false
  mUf := false
  mNx := false
  commits := 0
  tgroups := []
  tstopped := []
  chain := []
  recvQ := []
  callQ := []
  callSeq := 0
  calls := []
  recvTag := 0
  refSeq := 0
  bp := 0
  bpSkip := false
  diverge := none
  ir := none
  spec := none
  pen := []

/-- A slot once its context has ended: its breakpoint address stays (R486), and its call sequence number and its count of
`recvm` issues go on with the next context (R235, R276). That they start at 0 when the module resets is a DESIGN CHOICE (log
entry 29). -/
def Thread.ended (t : Thread) : Thread := { Thread.idle with bp := t.bp, callSeq := t.callSeq, recvTag := t.recvTag }

/-! ## A core -/

/-- A TLB entry: the first address it maps, log2 of its size, and the leaf (R284, R299). -/
structure TlbEntry where
  va   : Nat
  size : Nat
  leaf : Word
  deriving DecidableEq, Repr

/-- A range lock on bytes `lo` to `hi - 1` of a core's local memory (R321): the serial number of the command that holds
it, and whether it is a source lock. -/
structure Lock where
  ser : Nat
  src : Bool
  lo  : Nat
  hi  : Nat
  deriving DecidableEq, Repr

/-- What a command owns: a line in the slice of a core, by PA div 256; a line of a strongly ordered page, for which the home
slice holds the directory entry alone (R321); or an element of a yard, by its group and logical index. -/
inductive OwnKey where
  | line (home n : Nat)
  | so (n : Nat)
  | elem (gid : BitVec 48) (index : Nat)
  deriving DecidableEq, Repr

/-- A line or a yard element that a copy or a fabric operation owns (R26, R291, R321), for the command `ser`; `src` marks
one that is held only until the command has read it (R323). -/
structure Own where
  ser : Nat
  src : Bool
  key : OwnKey
  deriving DecidableEq, Repr

/-- An entry of a watch table (R218): the waiting thread, the place of the doubleword, the test, and for `bar.wait` the
phase held (then `cmp` is not used). -/
structure WatchEnt where
  tid   : Nat
  place : Place
  cmp   : WatchCmp
  value : Word
  phase : Option Bool
  deriving DecidableEq, Repr

/-- What a tile command does (R353). -/
inductive TileOp where
  | mma (fmt : MmaFmt) (pb : Nat)
  | msacc (vec : Bool) (z pb : Nat)
  | mzero (z : Nat)
  | mldz (z : Nat)
  | mstz (bf : Bool) (rm : Rm) (z : Nat)
  | mvs (fmt : MxFmt) (pb : Nat)
  deriving DecidableEq, Repr

/-- A command in the tile command queue (R353, R370): its entry, serial number, thread, instruction bits, group, next
block, operands, the translated base and key of `mvs`, how far it has come, once it is to stop the blocks then done and whether
PREEMPT stops it (R368, R378), and the flags it has raised. -/
structure TileCmd where
  entry   : Nat
  ser     : Nat
  tid     : Nat
  op      : TileOp
  insn    : BitVec 32
  group   : Nat
  next    : Nat
  opa     : Word
  opb     : Word
  sta     : Word
  stb     : Word
  bpa     : Nat
  bkey    : Nat
  started : Bool
  srcDone : Bool
  stop    : Option (Nat × Bool)
  narrow  : Bool
  flags   : BitVec 6
  deriving DecidableEq, Repr

/-- A shape record (R150) as read. -/
structure Shape where
  rank : Nat
  elog : Nat
  base : Nat
  n    : List Nat
  st   : List Int
  deriving DecidableEq, Repr

/-- A command in the copy queue (R330-R345). `token` is the slot and register of the token, `bar` the barrier's core and
offset, `buf` the source elements read and not yet written, ascending, each with the words of it that held the poison code,
`asked` the element and the module for whose answer it waits, and `fail` the element at which the copy ends, with code
and subcode (R343). -/
structure CopyCmd where
  ser     : Nat
  tid     : Nat
  src     : Shape
  dst     : Shape
  scope   : Option Word
  user    : Bool
  token   : Option (Nat × Nat)
  bar     : Option (Nat × Nat)
  count   : Nat
  started : Bool
  srcDone : Bool
  visDone : Bool
  buf     : List (Nat × Nat × List Nat)
  asked   : Option (Nat × Nat)
  fail    : Option (Nat × Nat × Nat)
  deriving DecidableEq, Repr

/-- A command held in the commit buffer (R251), with what it read on entering; `record` is the continuation record of an
`mresume`. -/
inductive BufOp where
  | tile (c : TileCmd) (locks : List Lock) (record : Option Nat)
  | copy (c : CopyCmd) (ctl : Word)
  | commit
  deriving DecidableEq, Repr

/-- An entry of a core's commit buffer. -/
structure BufCmd where
  id  : Nat
  tid : Nat
  op  : BufOp
  deriving DecidableEq, Repr

/-- A context to start (R38-R41). -/
structure Launch where
  pc       : Word
  arg0     : Word
  arg1     : Word
  index    : Word
  count    : Word
  movement : Bool
  deriving DecidableEq, Repr

/-- What an axis command does, with the matrix, table, scale or source as read at issue (R412-R415); a word is its bits
and whether it was poisoned. -/
inductive AxisOp where
  | axa (bits : List Nat) (ctl : List Nat) (ctlVal : Nat) (mat : List Nat)
  | axd (bits : List Nat) (tab : List Nat)
  | axsScale (alpha : Nat)
  | axsAxpy (alpha : Nat) (x : List (Nat × Bool))
  deriving DecidableEq, Repr

/-- A command in the axis queue; every tuple or element whose base lies below `pos` has been processed (R398, R418). -/
structure AxisCmd where
  ser : Nat
  tid : Nat
  op  : AxisOp
  pos : Nat
  deriving DecidableEq, Repr

/-- A recorded swap (R389, R390): the physical bits, the generation at which it was recorded, and its serial number in
the core's stream once it has been triggered. -/
structure SwapRec where
  r   : Nat
  l   : Nat
  gen : BitVec 48
  ser : Nat
  deriving DecidableEq, Repr

/-- The swap that is moving (R395): the frontier, the units in flight, whether the handshake of R394 is done, and of the units
at the frontier those written here and those that a partner on another module has acknowledged. -/
structure Moving where
  sw       : SwapRec
  shook    : Bool
  f        : Nat
  inflight : Nat
  got      : Nat
  acked    : Nat
  deriving DecidableEq, Repr

/-- The yard state of a core (R382-R395). -/
structure Yard where
  cfg     : Bool
  ty      : YType
  n       : Nat
  l       : Nat
  u       : Nat
  gid     : BitVec 48
  wbase   : Nat
  members : List Word              -- the member table
  recWords : List Word             -- the record's eight words
  me      : Nat                    -- this member's index
  map     : List Nat               -- position of each logical bit, every recorded swap applied
  place   : List Nat               -- the placement map: every started swap applied
  gen     : BitVec 48
  pend    : List SwapRec           -- pending swaps, oldest first
  trig    : List SwapRec           -- triggered swaps that have not begun to move, oldest first
  moving  : Option Moving
  stamps  : Table Nat
  count   : Nat                    -- axis instructions and `ywant` since `ycfg`
  tid     : Nat                    -- the member thread
  div     : Option Word            -- the member has diverged: TVAL of MAP_DIVERGE
  dead    : Bool                   -- the yard's group has dissolved for this member (R401, R402)
  deriving DecidableEq, Repr

/-- No yard. -/
def Yard.zero : Yard where
  cfg := false
  ty := .c64
  n := 0
  l := 0
  u := 0
  gid := 0
  wbase := 0
  members := []
  recWords := []
  me := 0
  map := []
  place := []
  gen := 0
  pend := []
  trig := []
  moving := none
  stamps := []
  count := 0
  tid := 0
  div := none
  dead := false

/-- An entry spilled into the context buffer (R274). -/
inductive SpillItem where
  | msg (slot : Nat) (m : Msg)
  | call (slot : Nat) (c : Call)
  | launch (l : Launch)
  deriving DecidableEq, Repr

/-- One core of the mesh (R15). -/
structure Core where
  cycle     : Word
  xbound    : Word
  ovec      : Word
  ptroot    : Nat
  paddock   : Option Nat
  mbox      : Table (Option Word)
  launchQ   : List Launch
  locks     : List Lock
  tlb       : List TlbEntry
  watches   : List WatchEnt
  tileQ     : List TileCmd
  copyQ     : List CopyCmd
  cbuf      : List BufCmd
  axisQ     : List AxisCmd
  yard      : Yard
  preempted : Bool
  spilled   : Bool
  spill     : List SpillItem
  narrow    : Bool
  deriving DecidableEq, Repr

/-- A core after reset (R144, R223). -/
def Core.zero : Core where
  cycle := 0
  xbound := 0
  ovec := 0
  ptroot := 0
  paddock := none
  mbox := []
  launchQ := []
  locks := []
  tlb := []
  watches := []
  tileQ := []
  copyQ := []
  cbuf := []
  axisQ := []
  yard := .zero
  preempted := false
  spilled := false
  spill := []
  narrow := false

/-! ## The memory system and the paddocks -/

/-- A line cached in the slice of core `home` (R290): its physical address, the key index it was fetched under (R297),
whether it is dirty, and whether it is a read-duplicate line (R294). The list of lines is in order of use, latest first. -/
structure Line where
  home  : Nat
  pa    : Nat
  key   : Nat
  dirty : Bool
  dup   : Bool
  deriving DecidableEq, Repr

/-- A feed bin (R49, R50). -/
structure Bin where
  start : Word
  len   : Word
  next  : Word
  min   : Word
  part  : Word
  arm   : Bool
  deriving DecidableEq, Repr

/-- A feed bin after reset (R49). -/
def Bin.zero : Bin := ⟨0, 0, 0, 1, 1, false⟩

/-- A paddock (R53, R426, R487). -/
structure Paddock where
  xlo     : Nat
  xhi     : Nat
  ylo     : Nat
  yhi     : Nat
  job     : BitVec 16
  tvec    : Word
  blocks  : Word
  bins    : BitVec 128
  seqs    : BitVec 32
  gtoLog  : Nat
  rthLog  : Nat
  tick    : Nat
  sigTack : Bool
  exports : Table (Word × Word)
  out     : Bool                   -- swapped out to the shadow stores
  deriving DecidableEq, Repr

/-- A joiner or member of a group on this module: its index, its thread and its membership slot. -/
structure Joiner where
  index : Nat
  tid   : Nat
  slot  : Nat
  deriving DecidableEq, Repr

/-- A group (R43-R46): what the first `gjoin` fixed, the joiners here, those on other modules by index and peer, how far it
has come, and whether this module holds combining state for it (R444). -/
structure Group where
  gid       : BitVec 48
  count     : Nat
  absok     : Bool
  rooted    : Bool
  joins     : List Joiner
  others    : List (Nat × Nat)
  complete  : Bool
  dissolved : Bool
  placed    : Bool
  deriving DecidableEq, Repr

/-- A contribution folded into an agreement: the member, ALL or ANY, and the value (R441). -/
structure Contrib where
  index : Nat
  any   : Bool
  value : Bool
  deriving DecidableEq, Repr

/-- The n-th agreement of a group (R246): the contributions held, the members whose contribution has left for other modules,
and the outcome once it is known, without a value where the contributions differ in ANY. -/
structure Agreement where
  gid      : BitVec 48
  ordinal  : Nat
  contribs : List Contrib
  sent     : List Nat
  out      : Option (Option Bool)
  deriving DecidableEq, Repr

/-- A message, call or reply on its way (R232, R236, R237). -/
inductive Packet where
  | msg (id tid target : Nat) (payload : Word)
  | call (id tid target : Nat) (arg token : Word)
  | reply (id : Nat) (value token : Word) (refused : Bool)
  deriving DecidableEq, Repr

/-- Kind of a fabric operation (R433, R435, R437). -/
inductive FabKind where | put | puts | get | radd | mstore | mload
  deriving DecidableEq, Repr

/-- A fabric operation in flight. -/
structure FabOp where
  id     : Nat
  tid    : Nat
  kind   : FabKind
  peer   : Nat
  oper   : Word                    -- the remote operand, or the address of a multicast access
  places : List Place              -- of the doublewords it reads or writes on the issuing side, fixed at issue
  target : List Place              -- of those it reads or writes at the target, where that is this module itself (R316)
  nw     : Nat                     -- doublewords
  lva    : Nat                     -- the local address of `put`, `puts` and `get`
  data   : List Dword
  sig    : BitVec 48
  inc    : BitVec 8
  opnd   : Word
  dest   : Dest
  group  : Nat
  mcount : Nat
  resp   : Option FabResp          -- the response of an operation toward this module itself
  deriving DecidableEq, Repr

/-- What another module's packets have brought here: a one-sided operation, a multicast replica, a multicast load. -/
inductive Arrived where
  | op (kind : FabKind) (q : FabReq)
  | replica (q : McastReq)
  | collect (q : McastReq)
  deriving DecidableEq, Repr

/-- An operation of another module that has been accepted here and waits for a lock, an owner, a paddock that is swapped out
or an earlier operation (R318, R320, R322). -/
structure Incoming where
  id   : Nat
  peer : Nat
  what : Arrived
  deriving DecidableEq, Repr

/-- A probe of a receive cycle (R276): its path so far, origin first, each thread with its wait tag; where it is going;
and whether it has turned into a strike. -/
structure Probe where
  id     : Nat
  path   : List (Nat × Nat)
  target : Nat
  strike : Bool
  deriving DecidableEq, Repr

/-- A `tinv` under way (R272): the cores that have not answered, those of module `peer` as 2,048 × (peer + 1) + core. -/
structure Tinv where
  id   : Nat
  tid  : Nat
  va   : Word
  left : List Nat
  deriving DecidableEq, Repr

/-! ## Sequencers -/

/-- A loaded tack image (R468, R469). -/
structure TackImage where
  load   : Nat
  size   : Nat
  entry  : Nat
  caps   : BitVec 8
  minrev : BitVec 8
  reds   : Bool
  det    : Bool
  deriving DecidableEq, Repr

/-- An invocation (R449-R452): the invoking thread, the completion register, the program slot and the argument block. -/
structure Invocation where
  tid   : Nat
  reg   : Nat
  slot  : Nat
  block : List Word
  deriving DecidableEq, Repr

/-- What a tack operation in flight does (R456-R462); chunks are given as buffer and chunk number. -/
inductive TackKind where
  | send (buf chunk peer pbuf pchunk : Nat)
  | copy (dbuf dchunk sbuf schunk : Nat)
  | red (op : TkOp) (fmt : TkFmt) (abuf achunk xbuf xchunk : Nat)
  | reds (op : TkOp) (fmt : TkFmt) (buf chunk : Nat)
  | sig (buf chunk : Nat) (inc : Word)
  | sigRemote (buf chunk peer : Nat) (inc : Word)
  deriving DecidableEq, Repr

/-- A tack operation in flight (R456), with the sequencer address of its instruction: whether it has left the module, whether it
has been answered "not ready" (R457), and the result of a switch reduction that has come back and waits to be written. -/
structure TackOpn where
  id   : Nat
  pc   : Word
  kind : TackKind
  sent : Bool
  again : Bool
  got  : Option (List Dword)
  deriving DecidableEq, Repr

/-- An entry of an arrival table (R457). -/
structure Arrival where
  buf    : Nat
  chunk  : Nat
  sender : Nat
  deriving DecidableEq, Repr

/-- A collective sequencer: its hart and its parts (R446-R448). -/
structure Sequencer where
  paddock  : Option Nat
  pc       : Word
  x        : Table Word
  f        : Table Word
  v        : Table Vec
  fflags   : BitVec 5
  frm      : BitVec 3
  vl       : Word
  vtype    : Word
  vstart   : Word
  vxrm     : BitVec 2
  vxsat    : Bool
  instret  : Word
  reserve  : Option Nat            -- load-reserved address
  queue    : List Invocation       -- head first; the head is running when `running` is true
  running  : Bool
  slots    : Table TackImage
  peers    : Table Word
  arrivals : List Arrival
  ops      : List TackOpn
  lost     : List TackOpn          -- operations of the running invocation that were refused (R462)
  tlb      : List TlbEntry
  suspended : Bool
  fail     : Option (Nat × BitVec 8 × BitVec 32) -- an end of R466 that waits for operations: STATUS, SUB, VALUE
  deriving DecidableEq, Repr

/-- A sequencer after reset. -/
def Sequencer.zero : Sequencer where
  paddock := none
  pc := 0
  x := []
  f := []
  v := []
  fflags := 0
  frm := 0
  vl := 0
  vtype := 0
  vstart := 0
  vxrm := 0
  vxsat := false
  instret := 0
  reserve := none
  queue := []
  running := false
  slots := []
  peers := []
  arrivals := []
  ops := []
  lost := []
  tlb := []
  suspended := false
  fail := none

/-! ## The host interface and the hayloft -/

/-- An accepted ingress record that is spreading over its cores (R484). -/
structure Spread where
  slot    : Nat
  left    : List Nat
  started : Nat
  cfault  : Nat
  deriving DecidableEq, Repr

/-- A record that has reached a core's network interface and waits there to be served (R38, R56): where it comes from, and the
count word once it has been read. -/
structure Posted where
  src   : MsgSrc
  core  : Nat
  count : Option Nat
  deriving DecidableEq, Repr

/-- What a data packet carries to another module, or up the switch tree of a multicast group (R428, R433). -/
inductive Body where
  | request (kind : FabKind) (reqId tid : Nat) (job : BitVec 16) (addr : Nat) (data : List Dword) (tail : List Word)
  | response (reqId : Nat) (r : FabResp)
  | replica (group off reqId : Nat) (data : List (Nat × Byte))
  | collect (group off reqId : Nat)
  | yardAccess (origin reqId core index sub w : Nat) (store : Option Dword)
  | yardReply (reqId : Nat) (r : FabResp)
  | unit (core unit off : Nat) (data : List Dword)
  | unitAck (core unit : Nat)
  | handshake (core : Nat) (gen : BitVec 48) (r l digest : Nat)
  | chunk (seq : Nat) (tag : BitVec 16) (buf chunk off : Nat) (data : List Dword)
  | chunkReply (seq : Nat) (r : TackResp)
  | reduce (group off : Nat) (data : List Dword)
  | signal (seq : Nat) (tag : BitVec 16) (buf chunk : Nat) (inc : Word)
  | invalidate (core : Nat) (va : Word)
  | invalidated (core : Nat) (va : Word)
  | capability (rev cap : BitVec 8)
  deriving DecidableEq, Repr

/-- What the module sends out: to the host, to other modules and to the switches of the fabric. A window access of the host is
answered with its bytes, or where a word of them holds the poison code with an answer for so many bytes that says so (R12). A data packet and an
agreement packet leave by a port with its counter, with the key under which their tag is computed (none where its slot is
empty: then no receiver takes them), and with their payload encrypted or not (R428, R443). -/
inductive Out where
  | msix (vector : Nat)
  | window (data : List Byte)
  | windowPoison (n : Nat)
  | packet (peer port : Nat) (ctr : Word) (key : Option (BitVec 256)) (sealed : Bool) (body : Body)
  | tree (group port : Nat) (ctr : Word) (key : Option (BitVec 256)) (sealed : Bool) (body : Body)
  | agreement (peer : Option Nat) (port : Nat) (ctr : Word) (key : Option (BitVec 256)) (sealed : Bool) (gid : BitVec 48)
      (ordinal : Nat) (members : List Nat) (any value : Bool)
  | outcome (peer port : Nat) (ctr : Word) (key : Option (BitVec 256)) (gid : BitVec 48) (ordinal : Nat) (value : Option Bool)
  | join (gid : BitVec 48) (index count : Nat) (absok rooted : Bool)
  | leave (gid : BitVec 48) (index : Nat)
  | grabbed (bin : Nat) (start len : Word)
  deriving DecidableEq, Repr

/-- Whose turn a step is: a core, a sequencer, or an event of another agent. -/
inductive Turn where
  | core (c : Nat)
  | seq (q : Nat)
  | event (i : Instr)
  deriving DecidableEq, Repr

/-- A follow-up event that the module owes itself. Each stands for the event of `Instr` named beside it and runs that
event's own meaning; it brings no data from outside. -/
inductive Duty where
  | perform (id part : Nat)             -- ACCESS_PERFORM
  | locate (r : YardReq)                -- YARD_ACCESS_FORWARD
  | arrive (id : Nat)                   -- REMOTE_RESULT_ARRIVAL
  | grab (id : Nat)                     -- FEED_BIN_GRAB
  | message (id : Nat)                  -- MESSAGE_DELIVERY
  | call (id : Nat)                     -- CALL_DELIVERY
  | reply (id : Nat)                    -- CALL_REPLY
  | joined (gid : BitVec 48)            -- JOIN_COMPLETE
  | dissolved (gid : BitVec 48)         -- GROUP_DISSOLVED
  | contribute (gid : BitVec 48) (ordinal index : Nat) (any value : Bool) -- AGREEMENT_CONTRIBUTION
  | resolve (tid : Nat) (slot : BitVec 2) -- AGREEMENT_RESOLUTION
  | drain (tid : Nat)                   -- PEN_DRAIN
  | release (tid : Nat)                 -- COMMIT_BUFFER_RELEASE
  | record (slot core : Nat)            -- ACTIVE_MESSAGE_ARRIVAL
  | start (core : Nat)                  -- CONTEXT_START
  | accepted (slot : Nat)               -- ACCEPT_WORD_WRITE
  | ended (tid : Nat)                   -- CONTEXT_END
  | probe (id : Nat)                    -- RECV_PROBE
  | strike (id : Nat)                   -- RECV_STRIKE
  | spill (core : Nat)                  -- SPILL
  | walk (core va : Nat)                -- PAGE_WALK
  | invalidate (core : Nat) (va : Word) (src : InvSrc) -- TLB_INVALIDATION
  | copyStart (core : Nat)              -- COPY_START
  | copySrc (core : Nat)                -- COPY_SRC
  | copyVis (core id : Nat)             -- COPY_VIS
  | copyFault (core id : Nat)           -- COPY_FAULT
  | copyRelease (core id : Nat)         -- COPY_DESTINATION_RELEASE
  | tileStart (core entry : Nat)        -- TILE_COMMAND_START
  | tileSource (core entry : Nat)       -- TILE_SOURCE_RELEASE
  | tileDone (core entry : Nat)         -- TILE_COMMAND_COMPLETE
  | tileStop (core entry done : Nat)    -- TILE_COMMAND_STOP
  | handshake (core : Nat)              -- SWAP_HANDSHAKE
  | unitStart (core : Nat)              -- EXCHANGE_UNIT_START
  | unitDone (core : Nat)               -- EXCHANGE_UNIT_COMPLETE
  | axisDone (core : Nat)               -- AXIS_COMMAND_COMPLETE
  | yardEnd (core : Nat)                -- YARD_END
  | fabricPut (src : FabSrc)            -- FABRIC_PUT_ARRIVAL
  | fabricPuts (src : FabSrc)           -- FABRIC_PUTS_ARRIVAL
  | fabricGet (src : FabSrc)            -- FABRIC_GET_ARRIVAL
  | fabricRadd (src : FabSrc)           -- FABRIC_RADD_ARRIVAL
  | respond (id : Nat) (r : FabResp)    -- FABRIC_RESPONSE
  | replica (src : McastSrc) (q : McastReq) -- MULTICAST_REPLICA
  | collect (src : McastSrc) (q : McastReq) -- MULTICAST_LOAD_COLLECT
  | invoke (seq : Nat)                  -- INVOCATION_START
  | tackDone (seq op : Nat)             -- TACK_OPERATION_PERFORMED
  | command (code : Nat)                -- the command event of that code
  | armBin (id part : Nat)              -- FEED_BIN_ARM
  | disarmBin (id part : Nat)           -- FEED_BIN_DISARM
  deriving DecidableEq, Repr

/-- An event-log entry (R494). -/
structure LogEntry where
  time : Word
  seq  : BitVec 32
  sub  : BitVec 8
  event : BitVec 8
  data0 : Word
  data1 : Word
  deriving DecidableEq, Repr

/-- A walk under way for a core: the address, and the entry that it will put in the core's TLB, none where it has found a fault,
which is not cached, or where an invalidation has discarded its result (R272, R299). -/
structure WalkRun where
  core  : Nat
  va    : Nat
  found : Option TlbEntry
  deriving DecidableEq, Repr

/-- The whole module. -/
structure State where
  mem      : Memory
  hbmTag   : Table Nat             -- 0, or 1 + the key a line of HBM was written under, by PA div 256
  lines    : List Line             -- cached lines, latest used first
  cores    : Table Core
  threads  : Table Thread          -- by core × 16 + slot
  shCores  : Table Core            -- shadow stores (R275)
  shThreads : Table Thread
  bins     : Table Bin
  hashgrp  : Table Word
  mkeys    : Table (Option (BitVec 512))
  fkeys    : Table (Option (BitVec 256))
  agrKey   : Option (BitVec 256)
  agrStale : Bool
  peers    : Table Word            -- the device group table (R423)
  joining  : List Nat              -- peers that are to join the connected group (R425)
  mcast    : Table (Word × Word)   -- multicast entries (R436)
  portCtr  : Table Word            -- packets sent by each port
  portAgr  : Table Word            -- agreement packets sent by each port
  lastCtr  : Table Word            -- last data counter accepted, by sender × 32 + port
  lastAgr  : Table Word            -- last agreement counter accepted, by sender × 32 + port
  early    : List PktHdr           -- packets accepted of operations of which others have still to come
  paddocks : Table Paddock
  groups   : List Group
  agreements : List Agreement
  flights  : List Flight
  packets  : List Packet
  fabops   : List FabOp
  incoming : List Incoming         -- operations of other modules that wait here, oldest first
  owns     : List Own              -- lines owned by copies and fabric operations (R291, R321)
  satisfied : List Nat             -- waiting threads whose watch test a write under an owner or a lock has met (R219, R291)
  walks    : List WalkRun          -- walks under way in the walkers of the dies, oldest first (R299)
  probes   : List Probe
  tinvs    : List Tinv
  seqs     : Table Sequencer
  ident    : BitVec 12             -- COREID.MODULE
  ready    : Bool                  -- MSTATUS.READY
  recovery : Bool                  -- MSTATUS.RECOVERY
  nested   : Bool                  -- MSTATUS.NESTED
  lognew   : Bool                  -- MSTATUS.LOGNEW
  w4base   : BitVec 11             -- W4BASE.BASE
  logpage  : BitVec 5
  loghead  : BitVec 32
  cmd      : Table Word
  cmdState : Nat                   -- CMDRES[63:62]
  cmdCode  : BitVec 8              -- CMDRES[7:0]
  ingress  : Table Word            -- ingress record words, by 4 × slot + word
  accept   : Table Word
  spreads  : List Spread
  posted   : List Posted           -- records at the cores, oldest first
  log      : Table LogEntry
  flashLog : Table LogEntry
  isles    : Table Word
  flash    : List Byte             -- the image slot
  measure  : List (Nat × Nat × BitVec 512) -- the measurement log
  agenda   : List Turn             -- turns still to come, chosen from outside
  due      : List Duty             -- events the module owes itself, oldest first
  outbox   : List Out
  oracle   : Nat                   -- counts the free values taken
  nextId   : Nat                   -- serial numbers given
  cur      : Nat                   -- the thread whose turn it is
  curSeq   : Nat                   -- the sequencer whose turn it is
  rot      : Nat                   -- the core whose turn comes next
  netTurn  : Bool                  -- the next free turn goes to `due`
  deriving DecidableEq, Repr

/-- The module right after reset (R488): no core runs before the boot. Where the spec gives no value, the model names one:
memory (DESIGN CHOICE, log entry 5) and the rest (DESIGN CHOICE, log entry 6), which names each register, the command block,
CMDRES and the key slots among them. -/
def State.reset : State where
  mem := ⟨[], []⟩
  hbmTag := []
  lines := []
  cores := []
  threads := []
  shCores := []
  shThreads := []
  bins := []
  hashgrp := []
  mkeys := []
  fkeys := []
  agrKey := none
  agrStale := false
  peers := []
  joining := []
  mcast := []
  portCtr := []
  portAgr := []
  lastCtr := []
  lastAgr := []
  early := []
  paddocks := []
  groups := []
  agreements := []
  flights := []
  packets := []
  fabops := []
  incoming := []
  owns := []
  satisfied := []
  walks := []
  probes := []
  tinvs := []
  seqs := []
  ident := 0
  ready := false
  recovery := false
  nested := false
  lognew := false
  w4base := 0
  logpage := 0
  loghead := 0
  cmd := []
  cmdState := 0
  cmdCode := 0
  ingress := []
  accept := []
  spreads := []
  posted := []
  log := []
  flashLog := []
  isles := []
  flash := []
  measure := []
  agenda := []
  due := []
  outbox := []
  oracle := 0
  nextId := 0
  cur := 0
  curSeq := 0
  rot := 0
  netTurn := false

end Sys2Proof.Machine
end

