-- ==== Sys2Proof/Machine/Ops.lean ====
section
/-! DEFINITION. The named operations over threads: registers, control transfers, taking an exception and returning from
one, leaving a wait, run-ahead paths, and the one driver through which every core instruction issues (R116). -/

namespace Sys2Proof.Machine

/-- The answer of a meaning. -/
abbrev Ans := Host.Outcome State Fault Refusal

/-! ## Cores and threads -/

/-- The core with index y × 64 + x (R13). -/
def State.core (s : State) (c : Nat) : Core := tget Core.zero s.cores c
/-- Change one core. -/
def State.modCore (s : State) (c : Nat) (f : Core → Core) : State := { s with cores := tmod Core.zero s.cores c f }
/-- The slot with number core × 16 + slot. -/
def State.thread (s : State) (t : Nat) : Thread := tget Thread.idle s.threads t
/-- Change one slot. -/
def State.modThread (s : State) (t : Nat) (f : Thread → Thread) : State :=
  { s with threads := tmod Thread.idle s.threads t f }
/-- The slots of a core. -/
def slotsOf (core : Nat) : List Nat := (List.range 16).map fun k => core * 16 + k

/-- The thread whose turn it is. -/
def State.th (s : State) : Thread := s.thread s.cur
/-- Change the thread whose turn it is. -/
def State.modTh (s : State) (f : Thread → Thread) : State := s.modThread s.cur f
/-- The core whose turn it is. -/
def State.here (s : State) : Nat := s.cur / 16
/-- The thread descriptor of a slot (R229). -/
def descriptor (tid : Nat) : Nat := tid / 16 % 64 + tid / 16 / 64 * 256 + tid % 16 * 65536
/-- A fresh free value (DESIGN CHOICE, log entry 16). -/
def State.freeWord (s : State) : Word × State := (Config.word s.oracle, { s with oracle := s.oracle + 1 })
/-- A fresh serial number. -/
def State.fresh (s : State) : Nat × State := (s.nextId, { s with nextId := s.nextId + 1 })
/-- Owe the module a follow-up event. -/
def State.owe (s : State) (i : Duty) : State := { s with due := s.due ++ [i] }
/-- Owe an event, unless the module owes it already. -/
def State.oweOnce (s : State) (i : Duty) : State := if s.due.contains i then s else s.owe i
/-- Send something out of the module. -/
def State.send (s : State) (o : Out) : State := { s with outbox := s.outbox ++ [o] }

/-! ## Contexts that may be swapped out (R275) -/

/-- Is the paddock of a core swapped out to the shadow stores? -/
def State.coreOut (s : State) (c : Nat) : Bool :=
  match (s.core c).paddock with
  | none => false
  | some p => match tfind s.paddocks p with
    | none => false
    | some d => d.out

/-- Is the paddock of a slot swapped out? -/
def State.swappedOut (s : State) (tid : Nat) : Bool := s.coreOut (tid / 16)

/-- The state of a core's paddock on it, wherever it stands. -/
def State.coreCtx (s : State) (c : Nat) : Core := if s.coreOut c then tget Core.zero s.shCores c else s.core c

/-- Change it, wherever it stands. -/
def State.modCoreCtx (s : State) (c : Nat) (f : Core → Core) : State :=
  if s.coreOut c then { s with shCores := tmod Core.zero s.shCores c f } else s.modCore c f

/-- The context of a slot, wherever it stands. -/
def State.ctx (s : State) (tid : Nat) : Thread :=
  if s.swappedOut tid then tget Thread.idle s.shThreads tid else s.thread tid

/-- Change the context of a slot, wherever it stands. -/
def State.modCtx (s : State) (tid : Nat) (f : Thread → Thread) : State :=
  if s.swappedOut tid then { s with shThreads := tmod Thread.idle s.shThreads tid f } else s.modThread tid f

/-! ## Registers of a thread (R135-R138) -/

/-- A scalar register; s0 reads zero. -/
def Thread.sreg (t : Thread) (n : Nat) : Reg := if n = 0 then Reg.zero else tget Reg.zero t.s n
/-- A vector register. -/
def Thread.vreg (t : Thread) (n : Nat) : VReg := tget VReg.zero t.v n
/-- A predicate; p0 reads all ones. -/
def Thread.pred (t : Thread) (n : Nat) : Word := if n = 0 then BitVec.allOnes 64 else tget 0 t.p n
/-- Write a scalar register: clean and not pending. A write to s0 is discarded. -/
def Thread.setS (t : Thread) (n : Nat) (v : Word) : Thread :=
  if n = 0 then t else { t with s := tset t.s n ⟨v, false, false, 0⟩ }
/-- Write a vector register. -/
def Thread.setV (t : Thread) (n : Nat) (v : Vec) : Thread := { t with v := tset t.v n ⟨v, false, false, 0⟩ }
/-- Write a predicate. A write to p0 is discarded. -/
def Thread.setP (t : Thread) (n : Nat) (v : Word) : Thread := if n = 0 then t else { t with p := tset t.p n v }
/-- Mark a scalar register pending. -/
def Thread.pendS (t : Thread) (n : Nat) : Thread :=
  if n = 0 then t else { t with s := tmod Reg.zero t.s n fun r => { r with pend := true } }
/-- Mark a vector register pending. -/
def Thread.pendV (t : Thread) (n : Nat) : Thread :=
  { t with v := tmod VReg.zero t.v n fun r => { r with pend := true } }
/-- Write zero and poison to a scalar register (R203, R138, R496). -/
def Thread.poisonS (t : Thread) (n : Nat) (sub : BitVec 8) : Thread :=
  if n = 0 then t else { t with s := tset t.s n ⟨0, false, true, sub⟩ }
/-- Write a vector register and poison it. -/
def Thread.poisonV (t : Thread) (n : Nat) (v : Vec) (sub : BitVec 8) : Thread :=
  { t with v := tset t.v n ⟨v, false, true, sub⟩ }
/-- Raise exception flags (R71). -/
def Thread.flag (t : Thread) (f : BitVec 6) : Thread := { t with fflags := t.fflags ||| f }

/-- The value of a scalar register of the current thread. -/
def State.sv (s : State) (n : RegNo) : Word := (s.th.sreg n.toNat).val
/-- The value of a vector register of the current thread. -/
def State.vv (s : State) (n : RegNo) : Vec := (s.th.vreg n.toNat).val
/-- A predicate of the current thread. -/
def State.pv (s : State) (n : PredNo) : Word := s.th.pred n.toNat
/-- Write a scalar register of the current thread. -/
def State.setS (s : State) (n : RegNo) (v : Word) : State := s.modTh fun t => t.setS n.toNat v
/-- Write a vector register of the current thread. -/
def State.setV (s : State) (n : RegNo) (v : Vec) : State := s.modTh fun t => t.setV n.toNat v
/-- Write a predicate of the current thread. -/
def State.setP (s : State) (n : PredNo) (v : Word) : State := s.modTh fun t => t.setP n.toNat v
/-- Is the current thread in user mode? -/
def State.user (s : State) : Bool := !s.th.ts.sup

/-! ## The event log and MSI-X (R493, R494) -/

/-- Add an entry to the event log; its time is free (DESIGN CHOICE, log entry 16). -/
def State.logEvent (s : State) (ev sub : BitVec 8) (d0 d1 : Word) : State :=
  let (t, s) := s.freeWord
  { s with log := tset s.log (s.loghead.toNat % 4096) ⟨t, s.loghead, sub, ev, d0, d1⟩
           loghead := s.loghead + 1
           lognew := true }

/-! ## Control transfers and the loop stack (R152-R154) -/

/-- The loop-stack entry k. -/
def Thread.loop (t : Thread) (k : Nat) : LoopEntry := tget LoopEntry.zero t.loops k

/-- Set the pc: the instruction there is fetched anew, and an address breakpoint strikes again from here on (R116, R147). -/
def Thread.setPc (t : Thread) (pc : Word) : Thread := { t with pc := pc, bpSkip := false, ir := none }

/-- R153: the next pc after an instruction that retires without a taken transfer; `n` entries are in use. -/
def Thread.seqFrom (t : Thread) (next : Word) : Nat → Thread
  | 0 => { t with ldep := 0 }.setPc next
  | n + 1 =>
    let e := t.loop n
    if e.sup = t.ts.sup ∧ next = e.lend then
      let t' := { t with loops := tset t.loops n { e with lcnt := e.lcnt - 1 } }
      if 1 < e.lcnt.toNat then { t' with ldep := n + 1 }.setPc e.lbeg
      else Thread.seqFrom t' next n
    else { t with ldep := n + 1 }.setPc next

/-- Go on at `next` without a taken transfer. -/
def Thread.seqTo (t : Thread) (next : Word) : Thread := t.seqFrom next t.ldep

/-- R154: how many of `n` entries stay when the current mode jumps to `target`. -/
def Thread.keep (t : Thread) (target : Word) : Nat → Nat
  | 0 => 0
  | n + 1 =>
    let e := t.loop n
    if e.sup = t.ts.sup ∧ (target < e.lbeg ∨ e.lend ≤ target) then Thread.keep t target n else n + 1

/-- A taken transfer to `target`. -/
def Thread.jumpTo (t : Thread) (target : Word) : Thread :=
  { t with ldep := t.keep target t.ldep }.setPc target

/-- R268: every supervisor entry among the first `n` is popped; the user entries below and above it keep their order. -/
def Thread.userLoops (t : Thread) (n : Nat) : List LoopEntry := ((List.range n).map t.loop).filter fun e => !e.sup

/-- The loop stack with these entries, outermost first; the places above them keep what they hold. -/
def Thread.setLoops (t : Thread) (es : List LoopEntry) : Thread :=
  { t with
      loops := (List.range es.length).foldl (fun m k => tset m k (es.getD k LoopEntry.zero)) t.loops
      ldep := es.length }

/-! ## Leaving a wait (R226, R263) -/

/-- Remove what a waiting instruction left elsewhere: its watch entry, its message, its invalidation. -/
def State.unwait (s : State) (tid : Nat) : State :=
  match (s.thread tid).wait with
  | some (.watch _ _) =>
    { s with cores := s.cores.map fun c => (c.1, { c.2 with watches := c.2.watches.filter fun w => w.tid != tid })
             satisfied := s.satisfied.filter fun k => k != tid }
  | some (.message id) =>
    { s with packets := s.packets.filter fun p => match p with
        | .msg i _ _ _ => i != id
        | .call .. | .reply .. => true }
  | some (.invalidate id) => { s with tinvs := s.tinvs.filter fun v => v.id != id }
  | _ => s

/-- End a wait without effect: the thread is ready and its instruction is issued again. -/
def State.abandon (s : State) (tid : Nat) : State :=
  (s.unwait tid).modThread tid fun t => { t with state := .ready, wait := none }

/-! ## Run-ahead paths (R247-R256) -/

/-- Restore the checkpoint of an agreed branch (R252). -/
def Thread.restore (t : Thread) (k : Checkpoint) : Thread :=
  { t with s := k.s, v := k.v, p := k.p, fflags := k.fflags, instret := k.instret, loops := k.loops, ldep := k.ldep }

/-- The checkpoint of an agreed branch (R248). -/
def Thread.checkpoint (t : Thread) : Checkpoint := ⟨t.s, t.v, t.p, t.fflags, t.instret, t.loops, t.ldep⟩

/-- A late result: written to the live registers and, where it was awaited since before the path, to the checkpoint. -/
def Thread.late (t : Thread) (g : Thread → Thread) : Thread :=
  let t' := g t
  { t' with spec := t'.spec.map fun sp => { sp with ckpt := (g (t.restore sp.ckpt)).checkpoint } }

/-- Does an item belong to a path not yet resolved? -/
def PenItem.onPath : PenItem → Bool
  | .store p _ => p
  | .cmd p _ => p

/-- The number of a buffered command. -/
def PenItem.cmdId : PenItem → Option Nat
  | .store _ _ => none
  | .cmd _ id => some id

/-- Discard the path of a thread (R252): the checkpoint returns, held stores and commands vanish, and loads issued on
the path will write nothing. The pc is the agreed branch's. -/
def State.discard (s : State) (tid : Nat) : State :=
  match (s.thread tid).spec with
  | none => s
  | some sp =>
    let gone := (s.thread tid).pen.filter PenItem.onPath
    let s := s.modThread tid fun t =>
      { t.restore sp.ckpt with spec := none, pen := t.pen.filter (fun i => !i.onPath), pc := sp.cbrPc, ir := none }
    let s := s.modCore (tid / 16) fun c =>
      { c with cbuf := c.cbuf.filter fun b => !(gone.any fun i => i.cmdId == some b.id) }
    { s with flights := s.flights.map fun f => if f.tid = tid ∧ f.path then { f with orphan := true } else f }

/-! ## Taking an exception (R258-R266) -/

/-- Trap registers, status, mode and pc at entry (R264); TEPC keeps bits 19:1 (R258). `code` holds INT in bit 63. -/
def Thread.enter (t : Thread) (code value epc : Word) (ovec : Word) : Thread :=
  ({ t with
      state := .ready
      wait := none
      tcause := code
      tval := value
      tepc := epc &&& 0xFFFFE
      ts := { t.ts with pp := t.ts.sup, phold := t.ts.hold, hold := true, unrc := true, unrv := true, sup := true }
    }).setPc (if code = 24 then ovec else t.tvec)

/-- What a nested trap ends of a thread's wait: all but its watch entry, which stays as it is (R266). -/
def State.abandonNested (s : State) (tid : Nat) : State :=
  match (s.thread tid).wait with
  | some (.watch _ _) => s
  | _ => s.abandon tid

/-- A synchronous trap of thread `tid` with the given cause, TVAL and TEPC (R264, R266). -/
def State.trap (s : State) (tid cause : Nat) (value epc : Word) : State :=
  let t := s.thread tid
  if t.ts.unrc || t.ts.unrv then
    let s := (s.abandonNested tid).modThread tid fun t =>
      { t with state := .haltedNested, ncause := BitVec.ofNat 64 cause, nval := value }
    { s with nested := true }.logEvent 3 0 (BitVec.ofNat 64 (descriptor tid)) (BitVec.ofNat 64 cause)
  else
    (s.abandon tid).modThread tid fun t => t.enter (BitVec.ofNat 64 cause) value epc (s.core (tid / 16)).ovec

/-- Take an interrupt (R262-R264): an open path is discarded first (R254). -/
def State.interrupt (s : State) (tid code : Nat) : State :=
  let s := (s.discard tid).abandon tid
  s.modThread tid fun t =>
    t.enter (BitVec.ofNat 64 (2 ^ 63 + code)) 0 t.pc (s.core (tid / 16)).ovec

/-- Return from an exception (R268). The fetch at TEPC that follows takes no breakpoint (R116). -/
def Thread.ret (t : Thread) : Thread :=
  { t.setLoops (t.userLoops t.ldep) with
      ts := { t.ts with sup := t.ts.pp, hold := t.ts.phold, unrc := false, unrv := false }
      pc := t.tepc
      bpSkip := true
      ir := none }

/-! ## Issue (R116, R137, R138) -/

/-- A register by file and number. -/
inductive RName where
  | s (n : Nat)
  | v (n : Nat)
  deriving DecidableEq, Repr

/-- Is the register pending? -/
def Thread.pending (t : Thread) : RName → Bool
  | .s n => (t.sreg n).pend
  | .v n => (t.vreg n).pend

/-- TVAL of POISON for a poisoned register (R138). -/
def poisonVal (n : Nat) (vec : Bool) (sub : BitVec 8) : Word :=
  BitVec.ofNat 64 (n + (if vec then 32 else 0) + (if sub = 0 then 0 else 64 + sub.toNat * 2 ^ 56))

/-- TVAL of POISON, if the register is poisoned. -/
def Thread.poisonOf (t : Thread) : RName → Option Word
  | .s n => let r := t.sreg n; if r.poison then some (poisonVal n false r.sub) else none
  | .v n => let r := t.vreg n; if r.poison then some (poisonVal n true r.sub) else none

/-- TVAL of the first poisoned register of a list. -/
def Thread.firstPoison (t : Thread) : List RName → Option Word
  | [] => none
  | r :: rs => match t.poisonOf r with
    | some v => some v
    | none => Thread.firstPoison t rs

/-- How an instruction stands to a run-ahead path (R249): it issues, it stalls, or its own meaning decides. -/
inductive PathRule where | issue | stall | own
  deriving DecidableEq, Repr

/-- What must be known of an instruction before it acts: its predicate when it is off as a whole, whether it is
supervisor-only, whether it is of the CPY class, its path rule, the registers it reads and those it writes. -/
structure Head where
  instr : Instr
  pred  : PredNo
  sup   : Bool
  mover : Bool
  path  : PathRule
  uses  : List RName
  defs  : List RName
  deriving DecidableEq, Repr

/-- What an instruction does to its thread once it has acted on the state. -/
inductive Act where
  | retire (s : State)                       -- goes on at the next instruction
  | goto (s : State) (target : Word)         -- a taken transfer
  | skip (s : State) (next : Word)           -- retires to `next`, no taken transfer (R171)
  | wait (s : State) (w : Wait)              -- waits and is tried again
  | trap (cause : Nat) (value : Word)        -- traps without effect
  | trapIn (s : State) (cause : Nat) (value : Word) -- traps after an effect the spec states
  | stall                                    -- stalls on a run-ahead path
  | done (s : State)                         -- has set the thread's state itself
  deriving DecidableEq, Repr

/-- An instruction's bits as TVAL holds them (R115). -/
def bitsVal (i : Instr) : Word := (encode i).setWidth 64

/-- Is the path held: at a deferred trap, or at the 257th instruction (R248, R253)? -/
def Thread.held (t : Thread) : Bool :=
  match t.spec with
  | none => false
  | some sp => sp.defer.isSome || decide (256 ≤ sp.run)

/-- The checks of R116, then of R137 and R138; then the instruction's own act. -/
def begin (s : State) (h : Head) (act : State → Act) : Act :=
  let t := s.th
  if t.held then .stall
  else if h.sup && !t.ts.sup then .trap 2 (bitsVal h.instr)
  else if h.mover && s.cur % 16 != 15 then .trap 49 (bitsVal h.instr)
  else if !(s.pv h.pred).getLsbD 0 then .retire s
  else if h.path == .stall && t.spec.isSome then .stall
  else if h.uses.any t.pending || h.defs.any t.pending then .wait s .register
  else match t.firstPoison h.uses with
    | some v => .trap 26 v
    | none => act s

/-- Count a retired instruction: INSTRET (R141) and, on a path, RUN (R248); the thread is ready. -/
def Thread.retired (t : Thread) : Thread :=
  { t with
      state := .ready
      wait := none
      instret := t.instret + 1
      spec := t.spec.map fun sp => { sp with run := sp.run + 1, stall := false } }

/-- A trap of the current instruction: taken, or on a path deferred (R253). -/
def State.raise (s : State) (cause : Nat) (value : Word) : State :=
  match s.th.spec with
  | none => s.trap s.cur cause value s.th.pc
  | some _ => s.modTh fun t =>
      { t with
          state := .waiting
          wait := some .path
          spec := t.spec.map fun sp => { sp with defer := some (cause, value), stall := true } }

/-- Stall on a path (R249). -/
def Thread.stalled (t : Thread) : Thread :=
  { t with state := .waiting, wait := some .path, spec := t.spec.map fun sp => { sp with stall := true } }

/-- Carry out an act; `len` is the instruction's length in bytes. -/
def finish (s : State) (len : Nat) : Act → State
  | .retire s' => s'.modTh fun t => (t.seqTo (t.pc + BitVec.ofNat 64 len)).retired
  | .goto s' target => s'.modTh fun t => (t.jumpTo target).retired
  | .skip s' next => s'.modTh fun t => (t.seqTo next).retired
  | .wait s' w => s'.modTh fun t => { t with state := .waiting, wait := some w }
  | .trap c v => s.raise c v
  | .trapIn s' c v => s'.raise c v
  | .stall => s.modTh Thread.stalled
  | .done s' => s'

/-- Issue one instruction of the current thread. -/
def issue (s : State) (h : Head) (act : State → Act) : Ans :=
  .next (finish s h.instr.len (begin s h act))

end Sys2Proof.Machine
end

