-- ==== Sys2Proof/Machine/Operands.lean ====
section
/-! DEFINITION. Operand forms: extensions, offsets, lanes of a vector register (R135, R174) and lane predicates (R175). -/

namespace Sys2Proof

/-- Bytes of an access width (R207). -/
def Width.bytes : Width → Nat
  | .byte => 1
  | .half => 2
  | .word => 4
  | .dword => 8

/-- Bytes of a lane (R174). -/
def VType.bytes : VType → Nat
  | .i8 => 1
  | .bf16 | .f16 | .i16 => 2
  | .f32 | .i32 => 4
  | .c64 | .i64 => 8

end Sys2Proof

namespace Sys2Proof.Machine

/-- A 32-bit result sign-extended (R159). -/
def sextWord (x : BitVec 32) : Word := x.signExtend 64
/-- The low 32 bits of a register. -/
def lowWord (x : Word) : BitVec 32 := x.setWidth 32
/-- A 16-bit immediate sign-extended (R162). -/
def sext16 (i : BitVec 16) : Word := i.signExtend 64
/-- A 16-bit immediate zero-extended (R162). -/
def zext16 (i : BitVec 16) : Word := i.setWidth 64
/-- A 21-bit immediate sign-extended (R164). -/
def sext21 (i : BitVec 21) : Word := i.signExtend 64
/-- A truth value in a register. -/
def ofBool (b : Bool) : Word := if b then 1 else 0
/-- The `n` low bytes of a register as a number. -/
def lowBytes (x : Word) (n : Nat) : Nat := x.toNat % 2 ^ (8 * n)
/-- A number of `n` bytes in a register, zero- or sign-extended (R208). -/
def extend (zx : Bool) (n v : Nat) : Word :=
  if zx then BitVec.ofNat 64 v else BitVec.ofInt 64 (sint (8 * n) v)

/-- Lane `i` of `w` bytes. -/
def lane (w : Nat) (v : Vec) (i : Nat) : Nat := v.toNat / 2 ^ (8 * w * i) % 2 ^ (8 * w)

/-- Is lane `i` of `w` bytes on (R175)? -/
def laneOn (w : Nat) (p : Word) (i : Nat) : Bool := p.getLsbD (w * i)

/-- The first `n` lanes of `w` bytes with `f` on each on lane and the old value on each off lane, and the flags of the on
lanes (R175, R177). -/
def lanesUpTo (w : Nat) (p : Word) (old : Vec) (f : Nat → Nat × Flags) : Nat → Nat × Flags
  | 0 => (0, 0)
  | n + 1 =>
    let (v, fl) := lanesUpTo w p old f n
    let (x, g) := if laneOn w p n then f n else (lane w old n, 0)
    (v + x * 2 ^ (8 * w * n), fl ||| g)

/-- A whole vector, lane by lane. -/
def lanes (w : Nat) (p : Word) (old : Vec) (f : Nat → Nat × Flags) : Vec × Flags :=
  let (v, fl) := lanesUpTo w p old f (64 / w)
  (BitVec.ofNat 512 v, fl)

/-- `f` folded over the on lanes below `n`, in ascending order (R196). -/
def foldLanes {α : Type} (w : Nat) (p : Word) (f : α → Nat → α) (a : α) : Nat → α
  | 0 => a
  | n + 1 => let r := foldLanes w p f a n; if laneOn w p n then f r n else r

/-- The predicate bits of one lane. -/
def laneMask (w i : Nat) : Word := BitVec.ofNat 64 ((2 ^ w - 1) * 2 ^ (w * i))

/-- Write a truth value to every bit of each on lane below `n` (R188), with the flags. -/
def maskLanes (w : Nat) (p : Word) (old : Word) (f : Nat → Bool × Flags) : Nat → Word × Flags
  | 0 => (old, 0)
  | n + 1 =>
    let (m, fl) := maskLanes w p old f n
    if laneOn w p n then
      let (b, g) := f n
      (if b then m ||| laneMask w n else m &&& ~~~laneMask w n, fl ||| g)
    else (m, fl)

end Sys2Proof.Machine
end

