-- ==== Sys2Proof/Machine/Packet.lean ====
section
/-! DEFINITION. Packets of the fabric (R27, R428, R433): counters, ports and seals of what leaves, and the checks of what
arrives. -/

namespace Sys2Proof.Machine

/-- Bits `lo` to `hi` of a number (R4). -/
def bits (x hi lo : Nat) : Nat := x / 2 ^ lo % 2 ^ (hi + 1 - lo)

/-! ## Leaving -/

/-- The next packet counter of a port (R428). -/
def State.nextCtr (s : State) (port : Nat) : Word × State :=
  let c := tget 0 s.portCtr port + 1
  (c, { s with portCtr := tset s.portCtr port c })

/-- The key of a peer's entry (R428). -/
def State.fabKey (s : State) (peer : Nat) : Option (BitVec 256) := tget none s.fkeys (bits (tget 0 s.peers peer).toNat 47 36)

/-- The key of a multicast group's entry (R428). -/
def State.groupKey (s : State) (group : Nat) : Option (BitVec 256) :=
  tget none s.fkeys (bits (tget (0, 0) s.mcast group).1.toNat 59 48)

/-- The port of a peer's entry (R27, R423). -/
def State.peerPort (s : State) (peer : Nat) : Nat := bits (tget 0 s.peers peer).toNat 60 56

/-- Send a data packet to a peer by a port, under the key and with the seal of the peer's entry (R27, R428); a sequencer has a
port of its own. -/
def State.sendBy (s : State) (port peer : Nat) (b : Body) : State :=
  let (ctr, s) := s.nextCtr port
  s.send (.packet peer port ctr (s.fabKey peer) ((tget 0 s.peers peer).getLsbD 61) b)

/-- Send a data packet to a peer by the port of its entry (R27, R423, R428). -/
def State.sendTo (s : State) (peer : Nat) (b : Body) : State := s.sendBy (s.peerPort peer) peer b

/-- Send a data packet up the switch tree of a multicast group by a port, under the group's key (R428). -/
def State.sendUp (s : State) (port group : Nat) (b : Body) (sealed : Bool) : State :=
  let (ctr, s) := s.nextCtr port
  s.send (.tree group port ctr (s.groupKey group) sealed b)

/-- Send a data packet up the switch tree of a multicast group by the port and with the seal of its entry (R428, R436). -/
def State.sendTree (s : State) (group : Nat) (b : Body) : State :=
  let e := (tget (0, 0) s.mcast group).1
  s.sendUp (bits e.toNat 44 40) group b (e.getLsbD 62)

/-- Packets of `n` doublewords from address `a` on, split at 256-byte boundaries (R433); one at least. -/
def packets (a n : Nat) : Nat := if n = 0 then 1 else (a + 8 * n - 1) / 256 - a / 256 + 1

/-- Packet `k` of a run of doublewords from address `a` on: the offset of its first one, and what it carries. -/
def packetPart {α : Type} (a : Nat) (xs : List α) (k : Nat) : Nat × List α :=
  let first := if k = 0 then 0 else ((a / 256 + k) * 256 - a) / 8
  let next := ((a / 256 + k + 1) * 256 - a) / 8
  (first, (xs.drop first).take (next - first))

/-- Every packet of a run of doublewords. -/
def packetParts {α : Type} (a : Nat) (xs : List α) : List (Nat × List α) := (List.range (packets a xs.length)).map (packetPart a xs)

/-! ## Arriving -/

/-- The stream of a packet: its sender and the port by which it left. -/
def streamOf (h : PktHdr) : Nat := h.peer * 32 + h.port

/-- Does a packet from another module pass: its tag under the key held here, its counter above the last (R428, R443)? -/
def pktPasses (h : PktHdr) (key : Option (BitVec 256)) (last : Word) : Bool :=
  key == some h.key && decide (last < h.ctr)

/-- Log a dropped packet (R493, R494): 1 tag failed, 2 counter not increasing. -/
def State.logDrop (s : State) (h : PktHdr) (key : Option (BitVec 256)) : State :=
  s.logEvent 4 (if key == some h.key then 2 else 1) (BitVec.ofNat 64 (h.port + h.peer * 2 ^ 16)) h.ctr

/-- A data packet arrives: accepted, its counter kept; or dropped and logged (R428). -/
def State.takeHdr (s : State) (key : Option (BitVec 256)) (h : PktHdr) : Bool × State :=
  if pktPasses h key (tget 0 s.lastCtr (streamOf h)) then (true, { s with lastCtr := tset s.lastCtr (streamOf h) h.ctr })
  else (false, s.logDrop h key)

/-- Packets of one operation arrive: is every one accepted, now or, where `whole` says that the list holds all of the operation's,
earlier? The ones accepted are kept in mind. -/
def State.takeEach (s : State) (key : Option (BitVec 256)) (whole : Bool) : List PktHdr → Bool × State
  | [] => (true, s)
  | h :: hs =>
    let (ok, s) := if whole && s.early.contains h then (true, s)
      else match s.takeHdr key h with
        | (true, s) => (true, { s with early := s.early ++ [h] })
        | (false, s) => (false, s)
    let (oks, s) := State.takeEach s key whole hs
    (ok && oks, s)

/-- The packets of one operation arrive, `n` in number: is it whole? Packets of which others have still to come are accepted as
they come, between those of other operations perhaps, and wait for the rest. -/
def State.takeHdrs (s : State) (key : Option (BitVec 256)) (n : Nat) (hs : List PktHdr) : Bool × State :=
  let whole := decide (1 < n) && hs.length == n && decide hs.Nodup
  let (ok, s) := s.takeEach key whole hs
  if ok && (whole || n == 1 && hs.length == 1) then (true, { s with early := s.early.filter fun h => !hs.contains h }) else (false, s)

/-- Who sent the packets of an operation, where all have one sender. -/
def senderOf : List PktHdr → Option Nat
  | [] => none
  | h :: hs => if hs.all fun g => g.peer == h.peer then some h.peer else none

/-- The packets of an operation of a peer arrive, `n` in number: accepted as a whole under its key, or not. A packet of a
peer whose key slot is empty fails its tag. -/
def State.takeFrom (s : State) (peer n : Nat) (hs : List PktHdr) : Bool × State :=
  let (ok, s') := s.takeHdrs (s.fabKey peer) n hs
  (ok && senderOf hs == some peer, s')

/-- A packet arrives, or comes up again after it has waited here. -/
def State.takeOne (s : State) (key : Option (BitVec 256)) (h : PktHdr) : Bool × State :=
  if s.early.contains h then (true, { s with early := s.early.filter fun g => g != h }) else s.takeHdr key h

/-- Packets that have been accepted wait for what they are about to begin here. -/
def State.holdBack (s : State) (hs : List PktHdr) : State := { s with early := s.early ++ hs }

/-- The packets of an operation of a peer arrive, or come up again after they have waited here. -/
def State.takeHeld (s : State) (peer n : Nat) (hs : List PktHdr) : Bool × State :=
  if senderOf hs == some peer && hs.length == n && hs.all s.early.contains then
    (true, { s with early := s.early.filter fun h => !hs.contains h })
  else s.takeFrom peer n hs

end Sys2Proof.Machine
end

