-- ==== Sys2Proof/Machine/Translate.lean ====
section
/-! DEFINITION. Address spaces, homing, page walks, TLBs and translation (R85, R278-R300). -/

namespace Sys2Proof.Machine

/-- Size of the private alias. -/
def privTop : Nat := 2 ^ 20
/-- Base of the mesh window (R278). -/
def meshBase : Nat := 0x7F0000000000
/-- Base of the feed-bin window (R278). -/
def binBase : Nat := 0x7F0080000000
/-- Base of the reserved space above the feed bins. -/
def reservedBase : Nat := 0x7F0080002000
/-- End of the reserved space. -/
def reservedTop : Nat := 0x7F1000000000

/-- Is an address in translated space (R278)? -/
def isTranslated (va : Nat) : Bool :=
  (decide (privTop ≤ va) && decide (va < meshBase)) || (decide (reservedTop ≤ va) && decide (va < 2 ^ 48))

/-- The die of a core (R13). -/
def dieOf (core : Nat) : Nat := core % 64 / 16 + 4 * (core / 64 / 16)
/-- The home stack of a core (R17). -/
def stackOf (core : Nat) : Nat := 2 * dieOf core + (if core % 16 < 8 then 0 else 1)
/-- A core by column and row. -/
def coreAt (x y : Nat) : Nat := y * 64 + x

/-- Do two cores belong to one paddock (R53)? -/
def State.samePaddock (s : State) (a b : Nat) : Bool :=
  (s.core a).paddock.isSome && (s.core a).paddock == (s.core b).paddock

/-! ## HBM under a key (R297, R298) -/

/-- The tag of a key index: 0 for no encryption, one more than the key pair otherwise; none for an empty slot. -/
def State.keyTag (s : State) (idx : Nat) : Option Nat :=
  if idx = 0 then some 0
  else match tget none s.mkeys idx with
    | none => none
    | some k => some (k.toNat + 1)

/-- The key under which an access through a translation reaches HBM. Where the KEY slot has been emptied since the walk, it
goes on as under key 0 (DESIGN CHOICE, log entry 29: R297 gives a cause to walks only). -/
def State.tagOf (s : State) (idx : Nat) : Nat := (s.keyTag idx).getD 0

/-- The bytes of the line of HBM that holds `pa`, as read under a tag: as written, or through both keys (R298). -/
def State.hbmBytes (s : State) (pa tag : Nat) : List Byte :=
  let w := tget 0 s.hbmTag (pa / 256)
  let d := s.mem.bytes (pa / 256 * 256) 256
  if w = tag then d else Aes.recrypt w tag (pa / 256) d

/-- A byte of HBM as read under a tag. -/
def State.hbmByte (s : State) (pa tag : Nat) : Byte :=
  if tget 0 s.hbmTag (pa / 256) = tag then s.mem.byte pa else (s.hbmBytes pa tag).getD (pa % 256) 0

/-- `n` bytes of HBM as read under a tag. -/
def State.hbmRead (s : State) (pa tag : Nat) : Nat → Nat
  | 0 => 0
  | n + 1 => (s.hbmByte pa tag).toNat + 256 * State.hbmRead s (pa + 1) tag n

/-- Hold a line of HBM under a tag: under another key it is what that key reads there. -/
def State.hbmTo (s : State) (pa tag : Nat) : State :=
  if tget 0 s.hbmTag (pa / 256) = tag then s
  else { s with mem := s.mem.putBytes (pa / 256 * 256) (s.hbmBytes pa tag)
                hbmTag := tset s.hbmTag (pa / 256) tag }

/-! ## Homing (R286-R289) -/

/-- The fields of a hash-group entry: x and y ranges and strides, if it is valid (R288). -/
def hashRect (e : Word) : Option (Nat × Nat × Nat × Nat × Nat × Nat) :=
  let v := e.toNat
  let xlo := bits v 7 0
  let ylo := bits v 15 8
  let xhi := bits v 23 16
  let yhi := bits v 31 24
  let sx := bits v 35 32
  let sy := bits v 39 36
  if bits v 63 63 = 1 ∧ xlo ≤ xhi ∧ ylo ≤ yhi ∧ xhi < 64 ∧ yhi < 32 ∧ sx ≤ 5 ∧ sy ≤ 4 then
    some (xlo, xhi, ylo, yhi, sx, sy)
  else none

/-- The home of a line under a hash-group entry (R289). An access through a TLB entry whose hash-group entry has been made invalid
since the walk is homed at core (0, 0) (DESIGN CHOICE, log entry 29: the spec is silent). -/
def hashHome (e : Word) (pa : Nat) : Nat :=
  match hashRect e with
  | none => 0
  | some (xlo, xhi, ylo, yhi, sx, sy) =>
    let nx := (xhi - xlo) / 2 ^ sx + 1
    let ny := (yhi - ylo) / 2 ^ sy + 1
    let h := (pa / 256) ^^^ (pa / 2 ^ 24)
    let k := h % (nx * ny)
    coreAt (xlo + k % nx * 2 ^ sx) (ylo + k / nx * 2 ^ sy)

/-- Kind of a page (R284). -/
inductive PKind where | so | rc | un | yard | mcast | host
  deriving DecidableEq, Repr

/-- Kind of a code, if assigned. -/
def PKind.ofCode : Nat → Option PKind
  | 0 => some .so
  | 1 => some .rc
  | 2 => some .un
  | 3 => some .yard
  | 4 => some .mcast
  | 5 => some .host
  | _ => none

/-- The fields of a leaf entry (R284). -/
structure Leaf where
  r     : Bool
  w     : Bool
  x     : Bool
  u     : Bool
  kind  : PKind
  rd    : Bool
  key   : Nat
  hm    : Bool
  home  : Nat
  frame : Nat
  deriving DecidableEq, Repr

/-- Read a leaf entry's fields; none for a reserved kind. -/
def Leaf.of (e : Word) : Option Leaf :=
  let v := e.toNat
  match PKind.ofCode (bits v 57 55) with
  | none => none
  | some k => some
    { r := bits v 61 61 == 1
      w := bits v 60 60 == 1
      x := bits v 59 59 == 1
      u := bits v 58 58 == 1
      kind := k
      rd := bits v 54 54 == 1
      key := bits v 53 42
      hm := bits v 41 41 == 1
      home := bits v 40 25
      frame := bits v 24 0 }

/-- A frame number that names HBM (R281). -/
def frameOk (f : Nat) : Bool := decide (f % 2 ^ 21 < 0x140000)

/-- Is a leaf with this page size (as log2) valid for a core (R286, R287, R294)? -/
def Leaf.ok (s : State) (core size : Nat) (l : Leaf) : Bool :=
  !(l.w && !l.r) &&
  decide (l.frame % 2 ^ (size - 16) = 0) &&
  (match l.kind with
    | .so | .rc | .un => frameOk l.frame
    | .yard => decide (l.frame = 0)
    | .mcast => decide (l.frame / 2 ^ 12 = 0)
    | .host => true) &&
  (if l.rd then
    (l.kind == .rc || l.kind == .un) && !l.hm && l.r &&
    (decide (l.home % 2 ^ 12 ≠ s.ident.toNat) || decide (l.home / 2 ^ 12 / 2 ≠ l.frame / 2 ^ 21 / 2))
  else if l.hm then
    decide (l.home / 2 ^ 6 = 0) && (hashRect (tget 0 s.hashgrp (l.home % 64))).isSome
  else
    decide (l.home / 2 ^ 11 = 0) && s.samePaddock core (coreAt (l.home % 64) (l.home / 64 % 32)))

/-- The home core of a physical address under a leaf. -/
def Leaf.homeOf (s : State) (l : Leaf) (pa : Nat) : Nat :=
  if l.hm then hashHome (tget 0 s.hashgrp (l.home % 64)) pa else coreAt (l.home % 64) (l.home / 64 % 32)

/-! ## The walk (R282-R287, R299) -/

/-- How a walk or a look-up ends: with a leaf, with an entry that is not valid (R287), with an entry that holds the poison code, or
with a leaf whose KEY slot is empty (R297). A look-up that misses while no walk is free is busy (R299). -/
inductive Walk where
  | leaf (size : Nat) (e : Word)
  | invalid
  | poison
  | noKey (e : Word)
  | busy
  deriving DecidableEq, Repr

/-- The levels of the walk: the entry's index bits, log2 of its leaf size (none for L0) and of the next table. -/
def walkLevels : List (Nat × Nat × Option Nat × Nat) :=
  [(47, 36, none, 11), (35, 28, some 28, 10), (27, 21, some 21, 8), (20, 16, some 16, 0)]

/-- Walk from a table; entries are read directly from HBM, as under key 0 (DESIGN CHOICE, log entry 29: R299 names no key). A
table at or above 80 GiB of its stack reads as blank memory, so that the access takes a page fault (DESIGN CHOICE, log entry 29:
R287 speaks of a leaf's FRAME only). -/
def walkFrom (s : State) (core va table : Nat) : List (Nat × Nat × Option Nat × Nat) → Walk
  | [] => .invalid
  | (hi, lo, size, next) :: rest =>
    let at_ := table + 8 * bits va hi lo
    if s.mem.poisoned at_ then .poison
    else
      let e := BitVec.ofNat 64 (s.hbmRead at_ 0 8)
      if !e.getLsbD 63 then .invalid
      else if e.getLsbD 62 then
        match size, Leaf.of e with
        | some z, some l =>
          if !l.ok s core z then .invalid
          else if (s.keyTag l.key).isNone then .noKey e
          else .leaf z e
        | _, _ => .invalid
      else if rest.isEmpty || decide (bits e.toNat 61 41 ≠ 0) || decide (e.toNat % 2 ^ next ≠ 0) then .invalid
      else walkFrom s core va (bits e.toNat 40 0) rest

/-- A whole walk for a core (R282). -/
def State.walk (s : State) (core va : Nat) : Walk :=
  if (s.core core).ptroot = 0 then .invalid else walkFrom s core va (s.core core).ptroot walkLevels

/-- The TLB entries of a core that map an address. -/
def State.tlbHits (s : State) (core va : Nat) : List TlbEntry :=
  (s.core core).tlb.filter fun e => decide (e.va ≤ va) && decide (va < e.va + 2 ^ e.size)

/-- The address of the copy from which a core reads a byte of a read-duplicate page, given the byte's address in FRAME: the copy
whose stack lies on the core's die, else the one that FRAME names (R294). -/
def Leaf.copyOf (s : State) (core : Nat) (l : Leaf) (pa : Nat) : Nat :=
  let second := l.home / 2 ^ 12
  if pa / 2 ^ 37 / 2 ≠ dieOf core ∧ l.home % 2 ^ 12 = s.ident.toNat ∧ second / 2 = dieOf core then pa % 2 ^ 37 + second * 2 ^ 37
  else pa

/-- Does a TLB entry of a core map the line of a physical address read-duplicate, in the copy that the core reads (R294)? -/
def TlbEntry.dup (s : State) (core pa : Nat) (e : TlbEntry) : Bool :=
  match Leaf.of e.leaf with
  | none => false
  | some l =>
    let lo := l.copyOf s core (l.frame * 2 ^ 16)
    l.rd && decide (lo ≤ pa) && decide (pa < lo + 2 ^ e.size)

/-- Does a core's TLB hold a read-duplicate entry for the page of a physical address (R294)? -/
def State.holdsDup (s : State) (core pa : Nat) : Bool := (s.core core).tlb.any fun e => e.dup s core pa

/-- Discard the read-duplicate lines that a core's slice holds for a TLB entry which goes (R294). They are clean: one that an
access homed here has used has become a line of its home (`State.cacheLine`). -/
def State.dropDup (s : State) (core : Nat) (e : TlbEntry) : State :=
  let gone := fun x : Line => x.home == core && x.dup && e.dup s core x.pa
  { s with
      mem := (s.lines.filter gone).foldl (fun m x => m.erase (Region.slice core x.pa) (Region.slice core x.pa + 256)) s.mem
      lines := s.lines.filter fun x => !gone x }

/-- Discard what the walks under way for a core have found, where it is such an entry (R272). -/
def State.dropWalks (s : State) (core : Nat) (gone : TlbEntry → Bool) : State :=
  { s with walks := s.walks.map fun w => if w.core = core then { w with found := w.found.filter fun e => !gone e } else w }

/-- Take TLB entries out of a core, and out of the walks under way for it. -/
def State.dropTlb (s : State) (core : Nat) (gone : TlbEntry → Bool) : State :=
  let s := s.dropWalks core gone
  let s := ((s.core core).tlb.filter gone).foldl (fun s e => s.dropDup core e) s
  s.modCore core fun c => { c with tlb := c.tlb.filter fun e => !gone e }

/-- Put an entry in the TLB; of 256 entries the oldest gives way (DESIGN CHOICE, log entry 12). -/
def State.fillTlb (s : State) (core : Nat) (e : TlbEntry) : State :=
  let s := match (s.core core).tlb with
    | old :: rest => if 255 ≤ rest.length then (s.dropDup core old).modCore core fun c => { c with tlb := rest } else s
    | [] => s
  s.modCore core fun c => { c with tlb := c.tlb ++ [e] }

/-- Are all 64 walks of the walker of a core's die under way (R299)? -/
def State.walksBusy (s : State) (core : Nat) : Bool :=
  decide (64 ≤ (s.walks.filter fun w => dieOf w.core == dieOf core).length)

/-- The TLB entry that a walk for an address ends with, if it finds a leaf. -/
def Walk.entry (va : Nat) : Walk → Option TlbEntry
  | .leaf z e => some ⟨va / 2 ^ z * 2 ^ z, z, e⟩
  | .invalid | .poison | .noKey _ | .busy => none

/-- Look an address up: a TLB entry (where several match, a free choice, R300), else, where a walk is free, a walk that fills the
TLB (R299). -/
def State.lookup (s : State) (core va : Nat) : Walk × State :=
  match s.tlbHits core va with
  | [e] => (.leaf e.size e.leaf, s)
  | e :: es =>
    let k := Config.pick s.oracle % (es.length + 1)
    let x := (e :: es).getD k e
    (.leaf x.size x.leaf, { s with oracle := s.oracle + 1 })
  | [] =>
    if s.walksBusy core then (.busy, s)
    else
      let w := s.walk core va
      (w, match w.entry va with
        | none => s
        | some e => s.fillTlb core e)

/-- The module as it is for a look-up that need not wait for a walk: what an engine or another module's operation reaches, found
apart from any slot's issue (R299 makes a slot wait; DESIGN CHOICE, log entry 12). -/
def State.walkFree (s : State) : State := { s with walks := [] }

/-! ## Translation (R85, R278-R280) -/

/-- What an access does, for permissions and causes. -/
inductive Acc where | load | store | atomic
  deriving DecidableEq, Repr

/-- Page-fault cause. -/
def Acc.page : Acc → Nat
  | .load => 13
  | _ => 15
/-- Access-fault cause. -/
def Acc.fault : Acc → Nat
  | .load => 5
  | _ => 7
/-- Misaligned cause. -/
def Acc.align : Acc → Nat
  | .load => 4
  | _ => 6

/-- Kind of the place an address reaches: the regions without translation beside the page kinds. -/
inductive AKind where
  | priv
  | mesh
  | bins
  | page (k : PKind)
  deriving DecidableEq, Repr

/-- A translated address: its kind, its place, and whether the page allows fetch (X). -/
structure Trans where
  kind  : AKind
  place : Place
  x     : Bool
  deriving DecidableEq, Repr

/-- How a translation ends: a place, a fault (cause and page-fault subcode, R202), POISON (R497), or a miss for which no walk is
free (R299). -/
inductive TRes where
  | ok (t : Trans)
  | fault (cause sub : Nat)
  | poison
  | busy
  deriving DecidableEq, Repr

/-- The yard of a core's paddock: the yard state of its member with the lowest index found (R382). -/
def State.yardOf (s : State) (core : Nat) : Option Yard :=
  ((s.cores.filter fun c => c.2.yard.cfg && s.samePaddock core c.1).map fun c => c.2.yard).head?

/-- A member of a yard as a number: a core of this module below 2,048, else 2,048 × (peer + 1) + core. -/
def memberAt (s : State) (e : Word) : Nat :=
  let v := e.toNat
  let c := coreAt (bits v 51 46) (bits v 45 41)
  if bits v 63 52 = s.ident.toNat then c else 2048 * (bits v 63 52 + 1) + c

/-- The place of an address on a yard page: the core that first locates it (R387, R396), or none outside the window. -/
def State.yardPlace (s : State) (core va : Nat) : Option (Yard × Place) :=
  match s.yardOf core with
  | none => none
  | some y =>
    let z := 2 ^ (match y.ty with | .c64 => 3 | .f32 => 2 | .bf16 => 1)
    if va < y.wbase ∨ y.wbase + 2 ^ y.n * z ≤ va then none
    else
      let i := (va - y.wbase) / z
      let c := if (s.core core).yard.cfg then core else memberAt s (y.members.getD (i / 2 ^ y.l) 0)
      some (y, .yard c i ((va - y.wbase) % z))

/-- The place a leaf gives to an address (R285, R286, R294). -/
def Leaf.place (s : State) (core size va : Nat) (l : Leaf) : Option Place :=
  let off := va % 2 ^ size
  let pa := l.frame * 2 ^ 16 + off
  match l.kind with
  | .so => some (.hbm (l.homeOf s pa) pa l.key)
  | .rc | .un =>
    if l.rd then some (.rd core (l.copyOf s core pa) l.key)
    else some (.line (l.homeOf s pa) pa l.key)
  | .yard => (s.yardPlace core va).map fun p => p.2
  | .mcast => some (.mcast (l.frame % 2 ^ 12) off)
  | .host => some (.host pa)

/-- `translate` (R85) for a core in user or supervisor mode. -/
def State.translate (s : State) (core : Nat) (user : Bool) (acc : Acc) (va : Nat) : TRes × State :=
  if va < privTop then (.ok ⟨.priv, .loc core va, false⟩, s)
  else if meshBase ≤ va ∧ va < binBase then
    let c := (va - meshBase) / 2 ^ 20
    if s.samePaddock core c then (.ok ⟨.mesh, .loc c ((va - meshBase) % 2 ^ 20), false⟩, s)
    else (.fault acc.fault 0, s)
  else if binBase ≤ va ∧ va < reservedBase then
    (.ok ⟨.bins, .bin ((va - binBase) / 64) ((va - binBase) % 64), false⟩, s)
  else if !isTranslated va then (.fault acc.page 0, s)
  else
    let (w, s) := s.lookup core va
    match w with
    | .invalid => (.fault acc.page 0, s)
    | .noKey _ => (.fault acc.fault 0, s)
    | .poison => (.poison, s)
    | .busy => (.busy, s)
    | .leaf size e =>
      match Leaf.of e with
      | none => (.fault acc.page 0, s)
      | some l =>
        if (user && !l.u) || (if acc == .load then !l.r else !l.w) then (.fault acc.page 0, s)
        else if l.rd && acc != .load then (.fault acc.page 1, s)
        else match l.place s core size va with
          | none => (.fault acc.fault 0, s)
          | some p => (.ok ⟨.page l.kind, p, l.x⟩, s)

end Sys2Proof.Machine
end

