-- ==== Sys2Proof/Machine/Locate.lean ====
section
/-! DEFINITION. Where a yard element is (R86, R382-R387, R395, R396): stripes, units, the placement map and the hops of an
access from member to member. -/

namespace Sys2Proof

/-- Element size of a yard as a power of two (R382). -/
def YType.log : YType → Nat
  | .c64 => 3
  | .f32 => 2
  | .bf16 => 1

end Sys2Proof

namespace Sys2Proof.Machine

/-- The first byte of the stripe of this core (R385). -/
def Yard.base (y : Yard) : Nat := (y.members.getD y.me 0).toNat % 2 ^ 41

/-- Bytes of a stripe. -/
def Yard.size (y : Yard) : Nat := 2 ^ y.l * 2 ^ y.ty.log

/-- The exchange-unit bit (R384). -/
def Yard.unitBit (y : Yard) : Nat := y.u - y.ty.log

/-- An index without its bit `l`. -/
def dropBit (x l : Nat) : Nat := x / 2 ^ (l + 1) * 2 ^ l + x % 2 ^ l

/-- The physical index of a logical index under a map; `b` counts the bits. -/
def permute (i : Nat) (b : Nat) : List Nat → Nat
  | [] => 0
  | x :: xs => bits i b b * 2 ^ x + permute i (b + 1) xs

/-- An index with bits r and l exchanged. -/
def exchangeBits (p r l : Nat) : Nat := if p.testBit r = p.testBit l then p else p ^^^ (2 ^ r + 2 ^ l)

/-- The member with which a swap of remote position r pairs this one (R394). -/
def Yard.partner (y : Yard) (r : Nat) : Nat := y.me ^^^ 2 ^ (r - y.l)

/-- Units of a swap (R395). -/
def Yard.units (y : Yard) : Nat := 2 ^ (y.l - 1 - y.unitBit)

/-- The local positions that this member exchanges in unit `w`: bit l is 1 on the member whose index bit is 0 (R395). -/
def Yard.unitIndex (y : Yard) (sw : SwapRec) (w e : Nat) : Nat :=
  let x := w * 2 ^ y.unitBit + e
  let half := if y.me.testBit (sw.r - y.l) then 0 else 1
  x / 2 ^ sw.l * 2 ^ (sw.l + 1) + half * 2 ^ sw.l + x % 2 ^ sw.l

/-- The first byte of unit `w` in this member's stripe; its 2^U bytes lie in a row (R384, R395). -/
def Yard.unitAddr (y : Yard) (sw : SwapRec) (w : Nat) : Nat := y.base + y.unitIndex sw w 0 * 2 ^ y.ty.log

/-- `yard_locate` (R86) under this member's replica: must the access wait, and the physical index. Where the moving pair is not
this member's own it holds no copy of F (R395), and takes the place as it is once the swap has moved (DESIGN CHOICE, log entry
29: R86 and R396 do not say which). -/
def Yard.locate (y : Yard) (i : Nat) : Bool × Nat :=
  let p := permute i 0 y.place
  match y.moving with
  | none => (false, p)
  | some m =>
    if p / 2 ^ y.l ≠ y.me ∧ p / 2 ^ y.l ≠ y.partner m.sw.r then (false, p)
    else
      let w := dropBit (p % 2 ^ y.l) m.sw.l / 2 ^ y.unitBit
      if w < m.f then (false, p)
      else if w = m.f ∧ 0 < m.inflight then (true, p)
      else (false, exchangeBits p m.sw.r m.sw.l)

/-- The local index at which the element of a logical index stands in this stripe, if it does and does not move. -/
def Yard.localIndex (y : Yard) (i : Nat) : Option Nat :=
  match y.locate i with
  | (true, _) => none
  | (false, p) => if p / 2 ^ y.l = y.me then some (p % 2 ^ y.l) else none

/-- The unit of a local index in the swap that moves (R395). -/
def Yard.unitOf (y : Yard) (sw : SwapRec) (j : Nat) : Nat := dropBit j sw.l / 2 ^ y.unitBit

/-- The first local index of the tuple that holds local index `j`: its own for `axd` and `axs` (R412). -/
def AxisCmd.base (c : AxisCmd) (y : Yard) (j : Nat) : Nat :=
  match c.op with
  | .axa list _ _ _ => list.foldl (fun x b => let q := y.place.getD b 0; if x.testBit q then x - 2 ^ q else x) j
  | .axd _ _ | .axsScale _ | .axsAxpy _ _ => j

/-- Has the command still to process an element of the stripe that lies in a line, by PA div 256 (R412)? -/
def AxisCmd.holds (c : AxisCmd) (y : Yard) (line : Nat) : Bool :=
  (List.range (256 / 2 ^ y.ty.log)).any fun k =>
    let a := 256 * line + k * 2 ^ y.ty.log
    decide (y.base ≤ a) && decide (a < y.base + y.size) && decide (c.pos ≤ c.base y ((a - y.base) / 2 ^ y.ty.log))

/-- The core of member `m`, as a number (2,048 × (peer + 1) + core for another module). -/
def State.memberCore (s : State) (y : Yard) (m : Nat) : Nat := memberAt s (y.members.getD m 0)

/-- The module of a core's number beyond 2,047. -/
def peerOf (core : Nat) : Nat := core / 2048 - 1

/-- Is a peer in the connected group (R423)? -/
def State.reaches (s : State) (peer : Nat) : Bool := (tget 0 s.peers peer).getLsbD 62

/-- Where an access to a logical index goes from a core. -/
inductive Hop where
  | here (pa : Nat)
  | wait
  | to (core : Nat)
  | denied
  deriving DecidableEq, Repr

/-- Locate an index at a core under its replica (R396); a core without a yard refuses the access (R422). The
replica of a swapped member still locates it (R399). -/
def State.hop (s : State) (core i : Nat) : Hop :=
  let y := (s.coreCtx core).yard
  if !y.cfg then .denied
  else match y.locate i with
    | (true, _) => .wait
    | (false, p) =>
      if p / 2 ^ y.l = y.me then .here (y.base + p % 2 ^ y.l * 2 ^ y.ty.log) else .to (s.memberCore y (p / 2 ^ y.l))

/-- Follow the hops of an engine's access from a core, at most `n` of them: the place, or the far core's number. -/
def State.follow (s : State) (core i : Nat) : Nat → Hop × Nat
  | 0 => (.wait, core)
  | n + 1 =>
    match s.hop core i with
    | .to c => if c < 2048 then State.follow s c i n else (.to c, core)
    | h => (h, core)

end Sys2Proof.Machine
end

