-- ==== Sys2Proof/Machine/Access.lean ====
section
/-! DEFINITION. Places, slices, watch tables, locks, and accesses: how one element is performed at its place, how an
access issues, and how its result arrives (R200-R206, R290-R293, R303-R322). -/

namespace Sys2Proof.Machine

/-! ## Places -/

/-- The flat number of the byte a place names, for comparing places (R306). -/
def Place.flat : Place → Nat
  | .loc c o => Region.local c + o
  | .line h pa _ => Region.slice h pa
  | .rd c pa _ => Region.slice c pa
  | .hbm _ pa _ => pa
  | .host a => Region.host a
  | .yard _ i sub => 2 ^ 62 + i * 8 + sub
  | .mcast g o => 2 ^ 63 + g * 2 ^ 41 + o
  | .bin b o => 2 ^ 61 + b * 64 + o

/-- What must be alike for two elements to lie at one place (R303): the region and the line. -/
def Place.block : Place → Nat × Nat × Nat
  | .loc c _ => (0, c, 0)
  | .line h pa _ => (1, h, pa / 256)
  | .rd c pa _ => (2, c, pa / 256)
  | .hbm h pa _ => (3, h, pa / 256)
  | .host a => (4, 0, a / 2 ^ 16)
  | .yard _ i _ => (5, 0, i)
  | .mcast g o => (6, g, o / 2 ^ 16)
  | .bin b o => (7, b, o)

/-- The core that serves a place (R292, R313). -/
def Place.home : Place → Nat
  | .loc c _ => c
  | .line h _ _ => h
  | .rd c _ _ => c
  | .hbm h _ _ => h
  | .host _ => 0
  | .yard c _ _ => c
  | .mcast _ _ => 0
  | .bin b _ => b / 16 % 4 * 16 + b / 64 * 1024

/-- The place `k` bytes on. -/
def Place.add (p : Place) (k : Nat) : Place :=
  match p with
  | .loc c o => .loc c (o + k)
  | .line h pa q => .line h (pa + k) q
  | .rd c pa q => .rd c (pa + k) q
  | .hbm h pa q => .hbm h (pa + k) q
  | .host a => .host (a + k)
  | .yard c i sub => .yard c i (sub + k)
  | .mcast g o => .mcast g (o + k)
  | .bin b o => .bin b (o + k)

/-- The place of the aligned doubleword that holds a byte. -/
def Place.dword : Place → Place
  | .loc c o => .loc c (o / 8 * 8)
  | .line h pa k => .line h (pa / 8 * 8) k
  | .rd c pa k => .rd c (pa / 8 * 8) k
  | .hbm h pa k => .hbm h (pa / 8 * 8) k
  | .host a => .host (a / 8 * 8)
  | .yard c i sub => .yard c i sub
  | .mcast g o => .mcast g (o / 8 * 8)
  | .bin b o => .bin b (o / 8 * 8)

/-- Do `n` bytes at one place and `m` bytes at another share a byte? -/
def overlaps (p : Place) (n : Nat) (q : Place) (m : Nat) : Bool :=
  decide (p.flat < q.flat + m) && decide (q.flat < p.flat + n)

/-! ## Range locks and ownership (R291, R321, R322) -/

/-- Is a byte of `n` bytes of a core's local memory under a range lock of a command whose serial number is `older`? -/
def State.lockedBy (s : State) (older : Nat → Bool) (core off n : Nat) : Bool :=
  (s.core core).locks.any fun l => older l.ser && decide (l.lo < off + n) && decide (off < l.hi)

/-- Is a byte of `n` bytes of a core's local memory under a range lock taken before that of the command `ser` (R354)? -/
def State.lockedFor (s : State) (core off n ser : Nat) : Bool := s.lockedBy (fun a => decide (a < ser)) core off n

/-- Does an engine own the line at `pa` in the slice of core `home`: a stripe line that axis commands whose serial number is
`older` have still to process (R412), or one of a unit of a moving swap in flight (R395)? -/
def State.owned (s : State) (home pa : Nat) (older : Nat → Bool) : Bool :=
  let c := s.coreCtx home
  let y := c.yard
  y.cfg && ((c.axisQ.any fun a => older a.ser && a.holds y (pa / 256)) ||
    match y.moving with
    | none => false
    | some m => (List.range m.inflight).any fun k =>
        let a := y.unitAddr m.sw (m.f + k)
        decide (a / 256 ≤ pa / 256) && decide (pa / 256 ≤ (a + 2 ^ y.u - 1) / 256))

/-- Does an owned key name the line of a physical address: as that line, or as a yard element that stands in it now? -/
def State.names (s : State) (k : OwnKey) (pa : Nat) : Bool :=
  match k with
  | .line _ n | .so n => n == pa / 256
  | .elem g i => s.cores.any fun c =>
      let y := (s.coreCtx c.1).yard
      y.cfg && y.gid == g && (y.localIndex i).any fun j => (y.base + j * 2 ^ y.ty.log) / 256 == pa / 256

/-- Does a copy or a fabric operation whose serial number is `older` hold the line of a physical address: one that it is to write
or, against a `write`, one that it is to read (R291, R321, R323)? -/
def State.claims (s : State) (older : Nat → Bool) (write : Bool) (pa : Nat) : Bool :=
  s.owns.any fun o => older o.ser && (write || !o.src) && s.names o.key pa

/-- The lines of a core's stripe that lie in one set of its slice, by PA div 256. -/
def Yard.setLines (y : Yard) (set : Nat) : List Nat :=
  let first := y.base / 256
  let a := first + (set + 256 - first % 256) % 256
  (List.range (((y.base + y.size - 1) / 256 + 256 - a) / 256)).map fun k => a + 256 * k

/-- The line of the slice of core `home` that an owned key names, if it needs a way there (R291, R321). -/
def State.keyLine (s : State) (home : Nat) (k : OwnKey) : Option Nat :=
  match k with
  | .line h n => if h = home then some n else none
  | .so _ => none
  | .elem g i =>
    let y := (s.coreCtx home).yard
    if y.cfg && y.gid == g then (y.localIndex i).map fun j => (y.base + j * 2 ^ y.ty.log) / 256 else none

/-- Ways that a set of the slice of core `home` must keep for the destination lines of commands issued before `ser`: of copies
and fabric operations, of the axis engine and of the shunter (R291). -/
def State.ownedWays (s : State) (home pa ser : Nat) : Nat :=
  let set := pa / 256 % 256
  let k := s.coreCtx home
  let older := fun n : Nat => decide (n < ser)
  let copies := (s.owns.filter fun o => older o.ser && !o.src).filterMap fun o => s.keyLine home o.key
  let stripe := if k.yard.moving.isSome || k.axisQ.any (fun a => older a.ser) then
      (k.yard.setLines set).filter fun n => s.owned home (256 * n) older
    else []
  ((copies.filter fun n => n % 256 == set) ++ stripe).eraseDups.length

/-- Must an engine wait, as it reaches a line that it is to write, until a way of the set is released (R291, R340)? A strongly
ordered destination needs none (R321). -/
def State.noWay (s : State) (p : Place) (ser : Nat) : Bool :=
  match p with
  | .line h pa _ => decide (16 ≤ s.ownedWays h pa ser)
  | .hbm _ _ _ | .loc _ _ | .rd _ _ _ | .host _ | .yard _ _ _ | .mcast _ _ | .bin _ _ => false

/-- Is a physical address in a region that an `mvs` has still to read (R377)? -/
def TileCmd.streams (c : TileCmd) (pa : Nat) : Bool :=
  match c.op with
  | .mvs f _ =>
    let nb := bits c.opb.toNat 19 16 + 1
    !c.srcDone && decide (c.bpa ≤ pa) && decide (pa < c.bpa + (f.blockBytes + 1) * 4096 * nb)
  | .mma _ _ | .msacc _ _ _ | .mzero _ | .mldz _ | .mstz _ _ _ => false

/-- Must a write to a physical address wait for an `mvs` of some core whose serial number is `older` (R323, R377)? -/
def State.streams (s : State) (older : Nat → Bool) (pa : Nat) : Bool :=
  s.cores.any fun c => c.2.tileQ.any fun k => older k.ser && k.streams pa

/-- Does a lock or an owner whose serial number is `older` hold `n` bytes at a place against a `write`, or a read (R291, R321,
R322)? A read-duplicate line stands in the slice of the core that reads it (R294). -/
def State.heldBy (s : State) (older : Nat → Bool) (write : Bool) (p : Place) (n : Nat) : Bool :=
  match p with
  | .loc c o => s.lockedBy older c o n || s.coreOut c
  | .line h pa _ => s.owned h pa older || (write && s.streams older pa) || s.claims older write pa
  | .hbm _ pa _ => (write && s.streams older pa) || s.claims older write pa
  | .rd c pa _ =>
    s.owned c pa older || s.owns.any fun o => older o.ser && !o.src && s.keyLine c o.key == some (pa / 256)
  | .host _ | .yard _ _ _ | .mcast _ _ | .bin _ _ => false

/-- Is an engine's access to `n` bytes at a place held by an older lock or another owner? -/
def State.heldFor (s : State) (p : Place) (n ser : Nat) : Bool := s.heldBy (fun a => decide (a < ser)) true p n

/-- Is an access to `n` bytes at a place held by a lock or an owner? -/
def State.heldAt (s : State) (p : Place) (n : Nat) : Bool := s.heldBy (fun _ => true) true p n

/-- Is an access that only reads held by a lock or an owner? A line that a command is still to read holds no other reader. -/
def State.heldRead (s : State) (p : Place) (n : Nat) : Bool := s.heldBy (fun _ => true) false p n

/-! ## Slices (R290, R293, R298) -/

/-- Write a dirty line back to HBM under its key, poison codes with it. -/
def State.writeBack (s : State) (l : Line) : State :=
  if l.dirty then
    { s with mem := s.mem.copyWords (Region.slice l.home l.pa) l.pa 32
             hbmTag := tset s.hbmTag (l.pa / 256) (s.tagOf l.key) }
  else s

/-- Write back every dirty line of a range of physical addresses; the lines stay, clean (R377). -/
def State.cleanRange (s : State) (lo n : Nat) : State :=
  let inside := fun l : Line => decide (lo < l.pa + 256) && decide (l.pa < lo + n)
  let s := (s.lines.filter inside).foldl (fun s l => s.writeBack l) s
  { s with lines := s.lines.map fun l => if inside l then { l with dirty := false } else l }

/-- Drop a line from its slice, writing it back if it is dirty. -/
def State.dropLine (s : State) (l : Line) : State :=
  let s := s.writeBack l
  { s with mem := s.mem.erase (Region.slice l.home l.pa) (Region.slice l.home l.pa + 256)
           lines := s.lines.filter fun x => !(x.home == l.home && x.pa == l.pa) }

/-- Copy the poison codes of `n` words. -/
def copyPoison (src dst : Nat) (m : Memory) : Nat → Memory
  | 0 => m
  | n + 1 =>
    let m := copyPoison src dst m n
    if m.poisoned (src + 8 * n) then m.poisonWord (dst + 8 * n) else m.cleanWord (dst + 8 * n)

/-- Bring a line of HBM into the slice of `home` under a key. -/
def State.fillLine (s : State) (home base key : Nat) (dup : Bool) : State :=
  let tag := s.tagOf key
  let dst := Region.slice home base
  let m := s.mem.putBytes dst (s.hbmBytes base tag)
  { s with mem := copyPoison base dst m 32, lines := ⟨home, base, key, false, dup⟩ :: s.lines }

/-- The lines of one set of a slice, in order of use. -/
def State.setLines (s : State) (home base : Nat) : List Line :=
  s.lines.filter fun l => l.home == home && l.pa / 256 % 256 == base / 256 % 256

/-- Make a line present in a slice and latest used; false where every way of its set is owned (R291). A read-duplicate line that an
access homed here uses is a line of its home from then on (R294). -/
def State.cacheLine (s : State) (home base key : Nat) (dup : Bool) : Bool × State :=
  match s.lines.find? fun l => l.home == home && l.pa == base with
  | some l =>
    if l.key = key then
      (true, { s with lines := { l with dup := l.dup && dup } :: s.lines.filter fun x => !(x.home == home && x.pa == base) })
    else (true, (s.dropLine l).fillLine home base key dup)
  | none =>
    if (s.setLines home base).length < 16 then (true, s.fillLine home base key dup)
    else match (s.setLines home base).reverse.find? fun l => !s.owned home l.pa (fun _ => true) && !s.claims (fun _ => true) true l.pa with
      | some v => (true, (s.dropLine v).fillLine home base key dup)
      | none => (false, s)

/-- Before the command `ser` writes a line that stands in no way: where each way of the set is owned, the command's own line there
that was used least lately gives its way up, and stays owned (R291). -/
def State.giveWay (s : State) (p : Place) (ser : Nat) : State :=
  match p with
  | .line h pa _ =>
    let set := s.setLines h pa
    let pinned := fun (l : Line) (hit : Own → Bool) =>
      s.owned h l.pa (fun _ => true) || s.owns.any fun o => hit o && s.names o.key l.pa
    if (set.any fun l => l.pa == pa / 256 * 256 || !pinned l fun _ => true) || set.length < 16 then s
    else match set.reverse.find? fun l => !pinned l fun o => o.ser != ser with
      | some l => s.dropLine l
      | none => s
  | .loc _ _ | .rd _ _ _ | .hbm _ _ _ | .host _ | .yard _ _ _ | .mcast _ _ | .bin _ _ => s

/-- Mark the latest used line dirty. -/
def State.dirtyTop (s : State) : State :=
  match s.lines with
  | [] => s
  | l :: ls => { s with lines := { l with dirty := true } :: ls }

/-! ## Feed-bin registers (R49, R50) -/

/-- A bin is dry (R50). -/
def Bin.dry (b : Bin) : Bool := b.arm && b.next == b.start + b.len

/-- Read the bin register at an offset. -/
def Bin.read (b : Bin) : Nat → Word
  | 0x00 => b.start
  | 0x08 => b.len
  | 0x10 => b.next
  | 0x18 => b.min
  | 0x20 => b.part
  | 0x28 => (if b.dry then 2 else 0) + (if b.arm then 1 else 0)
  | _ => 0

/-- Arm or disarm a bin (R50). -/
def Bin.control (b : Bin) (arm : Bool) : Bin := if arm then { b with next := b.start, arm := true } else { b with arm := false }

/-- Write the bin register at an offset. -/
def Bin.write (b : Bin) (off : Nat) (v : Word) : Bin :=
  if off = 0x28 then b.control (v.getLsbD 0)
  else if b.arm then b
  else match off with
    | 0x00 => { b with start := v }
    | 0x08 => { b with len := v }
    | 0x18 => { b with min := v }
    | 0x20 => { b with part := v &&& 0xFFFF }
    | _ => b

/-! ## Reading and writing a place -/

/-- Where a cached line's byte stands. -/
def State.inSlice (s : State) (home pa key : Nat) (dup : Bool) : Option Nat × State :=
  let (ok, s) := s.cacheLine home (pa / 256 * 256) key dup
  (if ok then some (Region.slice home pa) else none, s)

/-- Read `n` bytes at a place: the value, whether a word of it is poisoned, and the state with the line used. -/
def State.readPlace (s : State) (p : Place) (n : Nat) : Nat × Bool × State :=
  match p with
  | .loc c o => (s.mem.read (Region.local c + o) n, s.mem.anyPoison (Region.local c + o) n, s)
  | .line h pa k =>
    match s.inSlice h pa k false with
    | (some a, s) => (s.mem.read a n, s.mem.anyPoison a n, s)
    | (none, s) => (s.hbmRead pa (s.tagOf k) n, s.mem.anyPoison pa n, s)
  | .rd c pa k =>
    match if s.holdsDup c pa then s.inSlice c pa k true else (none, s) with
    | (some a, s) => (s.mem.read a n, s.mem.anyPoison a n, s)
    | (none, s) => (s.hbmRead pa (s.tagOf k) n, s.mem.anyPoison pa n, s)
  | .hbm _ pa k => (s.hbmRead pa (s.tagOf k) n, s.mem.anyPoison pa n, s)
  | .host a => (s.mem.read (Region.host a) n, s.mem.anyPoison (Region.host a) n, s)
  | .bin b o => (((tget Bin.zero s.bins b).read o).toNat, false, s)
  | .yard _ _ _ | .mcast _ _ => (0, false, s)

/-- Write the `n` low bytes of `v` within one aligned word at a place. -/
def State.putPlace (s : State) (p : Place) (n v : Nat) : State :=
  match p with
  | .loc c o => { s with mem := s.mem.store (Region.local c + o) n v }
  | .line h pa k =>
    match s.inSlice h pa k false with
    | (some a, s) => { s.dirtyTop with mem := s.mem.store a n v }
    | (none, s) => let s := s.hbmTo pa (s.tagOf k); { s with mem := s.mem.store pa n v }
  | .hbm _ pa k => let s := s.hbmTo pa (s.tagOf k); { s with mem := s.mem.store pa n v }
  | .host a => { s with mem := s.mem.store (Region.host a) n v }
  | .bin b o => { s with bins := tmod Bin.zero s.bins b fun x => x.write o (BitVec.ofNat 64 v) }
  | .rd _ _ _ | .yard _ _ _ | .mcast _ _ => s

/-- Change the poison code of the aligned word at a place: set it, or with `on` false clear it. -/
def State.markPlace (s : State) (p : Place) (on : Bool) : State :=
  let mark := fun (s : State) (a : Nat) => { s with mem := if on then s.mem.poisonWord a else s.mem.cleanWord a }
  match p with
  | .loc c o => mark s (Region.local c + o)
  | .line h pa k =>
    match s.inSlice h pa k false with
    | (some a, s) => mark s.dirtyTop a
    | (none, s) => mark (s.hbmTo pa (s.tagOf k)) pa
  | .hbm _ pa k => mark (s.hbmTo pa (s.tagOf k)) pa
  | .host a => mark s (Region.host a)
  | .rd _ _ _ | .yard _ _ _ | .mcast _ _ | .bin _ _ => s

/-! ## Watch tables (R218, R219, R222, R291) -/

/-- Does a watch entry's comparison hold for a word? -/
def WatchEnt.holds (w : WatchEnt) (v : Word) : Bool :=
  match w.phase with
  | some ph => v.getLsbD 32 != ph
  | none => match w.cmp with
    | .eq => v == w.value
    | .ne => v != w.value
    | .geu => decide (w.value ≤ v)
    | .ltu => decide (v < w.value)

/-- Does the word at an entry's place satisfy it now? A word that holds the poison code releases no thread (DESIGN CHOICE, log
entry 29: R218 and R496 speak of the test at issue only). -/
def State.meets (s : State) (w : WatchEnt) : Bool :=
  let r := s.readPlace w.place 8
  !r.2.1 && w.holds (BitVec.ofNat 64 r.1)

/-- A thread whose watch entry has been satisfied: its wait is over, if it still waits there, in a nested halt or swapped out
perhaps (R218, R266, R275). -/
def Thread.watched (t : Thread) (word : Nat) : Thread :=
  match t.wait with
  | some (.watch _ _) => { t with wait := some (.watch word true) }
  | _ => t

/-- Remove the entries of every watch table that `hit` names, and release their threads. -/
def State.fireAll (s : State) (hit : WatchEnt → Bool) : State :=
  match s.cores.flatMap fun c => c.2.watches.filter hit with
  | [] => s
  | done =>
    let s := { s with cores := s.cores.map fun c => (c.1, { c.2 with watches := c.2.watches.filter fun w => !hit w })
                      satisfied := s.satisfied.filter fun k => !done.any fun w => w.tid == k }
    done.foldl (fun s w => s.modCtx w.tid fun t => t.watched w.place.flat) s

/-- The watch tests that a write to a place makes, on every entry for that doubleword, through whatever leaf (R218, R307). While a
lock or an owner holds the word, a test that is met waits, and stays met whatever is written after it (R219, R291). -/
def State.notify (s : State) (p : Place) : State :=
  let met := fun w : WatchEnt => w.place.flat == p.dword.flat && s.meets w
  let later := (s.cores.flatMap fun c => c.2.watches.filter fun w => met w && s.heldRead w.place 8).map fun w => w.tid
  { s with satisfied := s.satisfied ++ later.filter fun k => !s.satisfied.contains k }.fireAll fun w =>
    met w && !s.heldRead w.place 8

/-- The watch tests that waited for locks or owners which `s0` had and `s` has no longer: a write under them has met the test,
or the word meets it now (R219, R291). -/
def State.freed (s0 s : State) : State :=
  s.fireAll fun w => s0.heldRead w.place 8 && !s.heldRead w.place 8 && (s.satisfied.contains w.tid || s.meets w)

/-- A write by any agent: the bytes, then the watch tests. -/
def State.writePlace (s : State) (p : Place) (n v : Nat) : State := (s.putPlace p n v).notify p

/-- A piece of a write: its place, its bytes, its value. -/
abbrev Piece := Place × Nat × Nat

/-- Do the pieces cover every byte of the aligned word that holds a place? -/
def coverWord (ps : List Piece) (p : Place) : Bool :=
  (List.range 8).all fun k => ps.any fun q => overlaps q.1 q.2.1 (p.dword.add k) 1

/-- Write pieces in one step (R204, R293): words that they cover wholly lose their poison code, all bytes are put, and then
the watch tests see the new words. -/
def State.writeTogether (s : State) (ps : List Piece) : State :=
  let s := ps.foldl (fun s q => if decide (q.2.1 < 8) && coverWord ps q.1 then s.markPlace q.1 false else s) s
  let s := ps.foldl (fun s q => s.putPlace q.1 q.2.1 q.2.2) s
  ps.foldl (fun s q => s.notify q.1) s

/-- Write words of a core's local memory, whatever its locks. -/
def State.putWords (s : State) (core off : Nat) : List Nat → State
  | [] => s
  | v :: vs => State.putWords (s.writePlace (.loc core off) 8 v) core (off + 8) vs

/-! ## Performing one element (R204, R213, R221, R496) -/

/-- The new value of an atomic on n bits (R213). -/
def AmoOp.apply (op : AmoOp) (n old x : Nat) : Nat :=
  match op with
  | .swap => x
  | .add => (old + x) % 2 ^ n
  | .and => old &&& x
  | .or => old ||| x
  | .xor => old ^^^ x
  | .min => if sint n x < sint n old then x else old
  | .max => if sint n old < sint n x then x else old
  | .minu => if x < old then x else old
  | .maxu => if old < x then x else old
  | .cas c => if old = c.toNat % 2 ^ n then x else old
  | .fadd => (Machine.fadd .f32 .rne old x).1

/-- Does an atomic write its word? Only a failing `amocas` does not (R213). -/
def AmoOp.writes (op : AmoOp) (n old : Nat) : Bool :=
  match op with
  | .cas c => decide (old = c.toNat % 2 ^ n)
  | _ => true

/-- Does the place implement the atomic? On the host port only Swap, FetchAdd and CAS exist (R212). -/
def AmoOp.known (op : AmoOp) : Place → Bool
  | .host _ => match op with
    | .swap | .add | .cas _ => true
    | _ => false
  | _ => true

/-- A barrier word after an arrival (R221). -/
def barrierArrive (v : Nat) : Nat :=
  let count := bits v 15 0
  let pending := if bits v 31 16 = 0 then count else bits v 31 16
  let phase := bits v 32 32
  let high := v / 2 ^ 33 * 2 ^ 33
  if pending ≤ 1 then high + (1 - phase) * 2 ^ 32 + count * 2 ^ 16 + count
  else high + phase * 2 ^ 32 + (pending - 1) * 2 ^ 16 + count

/-- Put the bytes a load took from the pen over what it read. -/
def overlay (laid : List (Nat × Byte)) (v : Nat) : Nat :=
  laid.foldl (fun v b => v - v / 256 ^ b.1 % 256 * 256 ^ b.1 + b.2.toNat * 256 ^ b.1) v

/-- Perform one element of an access at its place. -/
def State.perform (s : State) (k : FlightKind) (e : Elem) : Elem × State :=
  match k with
  | .load =>
    let (v, poison, s) := s.readPlace e.place e.w
    ({ e with data := overlay e.laid v, poison := poison && decide (e.laid.length < e.w), done := true }, s)
  | .store => ({ e with done := true }, s.writePlace e.place e.w e.data)
  | .amo op _ _ =>
    if !op.known e.place then ({ e with data := 0, refused := some 1, done := true }, s) else
    let (old, poison, s) := s.readPlace e.place e.w
    if poison then ({ e with data := 0, poison := true, done := true }, s)
    else
      let new := op.apply (8 * e.w) old e.data
      ({ e with data := old, done := true },
        if op.writes (8 * e.w) old then s.writePlace e.place e.w new else s)
  | .barArr =>
    let (old, poison, s) := s.readPlace e.place 8
    if poison then ({ e with poison := true, done := true }, s)
    else ({ e with done := true }, s.writePlace e.place 8 (barrierArrive old))
  | .grab => ({ e with done := true }, s)

/-- Perform the elements that `now` names, one after the other. -/
def State.performEach (s : State) (k : FlightKind) (now : Elem → Bool) : List Elem → List Elem × State
  | [] => ([], s)
  | e :: es =>
    if now e && !e.done then
      let (e', s) := s.perform k e
      let (es', s) := State.performEach s k now es
      (e' :: es', s)
    else
      let (es', s) := State.performEach s k now es
      (e :: es', s)

/-- Perform every element of one part in one step: the elements of a store are written together (R204). -/
def State.performPart (s : State) (k : FlightKind) (part : Nat) (es : List Elem) : List Elem × State :=
  let now := fun e : Elem => e.part == part && !e.done
  match k with
  | .store =>
    (es.map fun e => if now e then { e with done := true } else e,
      s.writeTogether ((es.filter now).map fun e => (e.place, e.w, e.data)))
  | .load | .amo _ _ _ | .barArr | .grab => s.performEach k now es

/-! ## Results (R136, R138, R203, R211) -/

/-- A vector register with the lanes of a load written over its old value. -/
def writeLanes (w : Nat) (old : Nat) (es : List Elem) : Nat :=
  es.foldl (fun v e => v - v / 2 ^ (8 * w * e.lane) % 2 ^ (8 * w) * 2 ^ (8 * w * e.lane) + e.data * 2 ^ (8 * w * e.lane)) old

/-- The refusal of a result that has refused elements: that of the lowest lane, which goes before the poison code of another
lane (DESIGN CHOICE, log entry 29: R203 speaks of one refused element). -/
def firstRefusal : List Elem → Option (BitVec 8)
  | [] => none
  | e :: es => match e.refused with
    | some r => some r
    | none => firstRefusal es

/-- The register files after a result has been written to its destination. -/
def Flight.result (f : Flight) (t : Thread) : Thread :=
  let bad := f.elems.any fun e => e.poison
  match f.dest with
  | .none =>
    match f.kind with
    | .load => t
    | _ => if bad || (firstRefusal f.elems).isSome then { t with errSt := true } else t
  | .scalar r w zx =>
    match firstRefusal f.elems with
    | some sub => t.poisonS r sub
    | none =>
      if bad then t.poisonS r 0
      else t.setS r (extend zx w (match f.elems with | [] => 0 | e :: _ => e.data))
  | .vector r w =>
    match firstRefusal f.elems with
    | some sub => t.poisonV r 0 sub
    | none =>
      let v := BitVec.ofNat 512 (writeLanes w (t.vreg r).val.toNat f.elems)
      if bad then t.poisonV r v 0 else t.setV r v
  | .pair r =>
    match f.elems with
    | a :: b :: _ => (t.setS r (BitVec.ofNat 64 a.data)).setS (r + 1) (BitVec.ofNat 64 b.data)
    | _ => t

/-- A result arrives: the live registers and, for an access issued before the path, the checkpoint (R248, R252). -/
def Flight.deliver (f : Flight) (t : Thread) : Thread :=
  if f.orphan then t
  else if f.path then f.result t
  else t.late f.result

/-- The OSTAT class of an access (R148). -/
inductive Class where | ld | st | amo
  deriving DecidableEq, Repr

/-- The class an access counts in (R148); `bar.arr` counts as a posted atomic does (DESIGN CHOICE, log entry 29). -/
def FlightKind.cls : FlightKind → Class
  | .load => .ld
  | .store => .st
  | .amo _ _ posted => if posted then .st else .amo
  | .barArr => .st
  | .grab => .amo

/-- One more access of a class. -/
def Thread.count (t : Thread) (c : Class) : Thread :=
  match c with
  | .ld => { t with ldCnt := t.ldCnt + 1 }
  | .st => { t with stCnt := t.stCnt + 1 }
  | .amo => { t with amoCnt := t.amoCnt + 1 }

/-- One access of a class less. -/
def Thread.uncount (t : Thread) (c : Class) : Thread :=
  match c with
  | .ld => { t with ldCnt := t.ldCnt - 1 }
  | .st => { t with stCnt := t.stCnt - 1 }
  | .amo => { t with amoCnt := t.amoCnt - 1 }

/-- Does a class stand at its limit (R148, R149)? -/
def Thread.full (t : Thread) (c : Class) : Bool :=
  match c with
  | .ld => decide (32 ≤ t.ldCnt)
  | .st => decide (64 ≤ t.stCnt)
  | .amo => decide (16 ≤ t.amoCnt)

/-- Have all elements of a flight been performed? -/
def Flight.all (f : Flight) : Bool := f.elems.all fun e => e.done

/-- End a flight: its result is written, it counts no longer. -/
def State.endFlight (s : State) (f : Flight) : State :=
  let s := { s with flights := s.flights.filter fun g => g.id != f.id }
  s.modCtx f.tid fun t => (f.deliver t).uncount f.kind.cls

/-! ## The order of performs (R205, R206, R325) -/

/-- Have the thread's earlier loads, stores and atomics been performed? -/
def State.flown (s : State) (tid : Nat) : Bool := !(s.flights.any fun f => f.tid == tid && !f.all)

/-- Have the thread's earlier accesses been performed, its fabric operations toward this module among them, so that a command
may read as of its issue point (R316, R323)? -/
def State.settled (s : State) (tid : Nat) : Bool :=
  s.flown tid && !(s.fabops.any fun o => o.tid == tid && !o.target.isEmpty)

/-- Does a place make its access strongly ordered (R205)? -/
def Place.strong : Place → Bool
  | .hbm _ _ _ | .host _ | .bin _ _ => true
  | .loc _ _ | .line _ _ _ | .rd _ _ _ | .yard _ _ _ | .mcast _ _ => false

/-- Is an access strongly ordered as a whole or in a part? -/
def Flight.isSo (f : Flight) : Bool := f.so || (f.kind != .grab && f.elems.any fun e => e.place.strong)

/-- Do two element lists share a byte, counting only elements of the first not yet performed? -/
def sharesBytes (es gs : List Elem) : Bool :=
  es.any fun e => !e.done && gs.any fun g => overlaps e.place e.w g.place g.w

/-- The earlier accesses of a flight's thread. -/
def State.before (s : State) (f : Flight) : List Flight :=
  s.flights.filter fun g => g.tid == f.tid && decide (g.id < f.id)

/-- Does an element reach the issuing core's local memory through the private alias (R200)? -/
def Elem.ownAlias (e : Elem) : Bool := decide (e.va < privTop)

/-- Does an operation toward this module itself act on bytes of an element, not through the private alias (R205, R316)? -/
def FabOp.touches (o : FabOp) (e : Elem) : Bool := !e.ownAlias && o.target.any fun q => overlaps e.place e.w q 8

/-- The multicast group that a flight stores to. -/
def Flight.group (f : Flight) : Option Nat :=
  match f.kind, f.elems with
  | .store, e :: _ => match e.place with
    | .mcast g _ => some g
    | _ => none
  | _, _ => none

/-- Has an earlier store of the thread to the same multicast group still to set out (R320, R472)? -/
def State.mcastBefore (s : State) (f : Flight) : Bool :=
  f.group.isSome && (s.before f).any fun g => g.group == f.group && !s.fabops.any fun o => o.id == g.id

/-- May part `part` of a flight be performed now, as far as the thread's earlier accesses and, for a store, its own lower
lanes go (R205, R211, R320)? -/
def State.inOrder (s : State) (f : Flight) (part : Nat) : Bool :=
  let es := f.elems.filter fun e => e.part == part
  let waits := f.rel || f.so || es.any fun e => e.place.strong
  !s.mcastBefore f &&
  !((s.before f).any fun g =>
      !g.all && (waits || g.acq || g.isSo || sharesBytes g.elems es)) &&
  !(s.fabops.any fun o => o.tid == f.tid && decide (o.id < f.id) && (waits || es.any o.touches)) &&
  !(f.elems.any fun g => !g.done && decide (g.part < part) &&
      (f.kind == .store || es.any fun e => overlaps e.place e.w g.place g.w))

/-- Does a lock or an owner stand in the way of an element of an access? -/
def State.elemHeld (s : State) (k : FlightKind) (e : Elem) : Bool :=
  if k == .load then s.heldRead e.place e.w else s.heldAt e.place e.w

/-- May a part be performed now: order kept, no lock or owner in the way? -/
def State.mayPerform (s : State) (f : Flight) (part : Nat) : Bool :=
  s.inOrder f part && !((f.elems.filter fun e => e.part == part).any (s.elemHeld f.kind))

/-! ## Issue of an access -/

/-- An access whose addresses have passed every check. -/
structure Req where
  kind  : FlightKind
  elems : List Elem
  acq   : Bool
  rel   : Bool
  so    : Bool
  dest  : Dest
  deriving DecidableEq, Repr

/-- The bytes a load takes from the thread's pen, the youngest entry last (R250). -/
def penBytes (pen : List PenItem) (e : Elem) : List (Nat × Byte) :=
  let stores := pen.flatMap fun i => match i with
    | .store _ st => st.elems
    | .cmd _ _ => []
  (List.range e.w).flatMap fun k =>
    match (stores.filter fun g => overlaps g.place g.w (e.place.add k) 1).getLast? with
    | none => []
    | some g => [(k, BitVec.ofNat 8 (g.data / 256 ^ ((e.place.add k).flat - g.place.flat)))]

/-- Mark the registers of a destination pending (R136). -/
def Dest.pend (d : Dest) (t : Thread) : Thread :=
  match d with
  | .none => t
  | .scalar r _ _ => t.pendS r
  | .vector r _ => t.pendV r
  | .pair r => (t.pendS r).pendS (r + 1)

/-- The parts that are performed as an access issues: those that go through the private alias (R200), of a store only
those below its first other lane (R211). -/
def privateParts (k : FlightKind) (es : List Elem) : List Nat :=
  ((match k with
    | .store => es.takeWhile Elem.ownAlias
    | .load | .amo _ _ _ | .barArr | .grab => es.filter Elem.ownAlias).map Elem.part).eraseDups

/-- Perform those parts, in ascending lane order. -/
def State.performPrivate (s : State) (k : FlightKind) (es : List Elem) : List Elem × State :=
  (privateParts k es).foldl (fun x n => x.2.performPart k n x.1) (es, s)

/-- The follow-up events that perform the parts of a flight not yet done. -/
def performEvents (id : Nat) (k : FlightKind) (es : List Elem) : List Duty :=
  let todo := es.filter fun e => !e.done
  let plain := (todo.filter fun e => match e.place with | .yard _ _ _ => false | _ => true).map fun e => e.part
  let parts := plain.eraseDups
  let yard := todo.filter fun e => match e.place with | .yard _ _ _ => true | _ => false
  let control := fun n => es.find? fun e => e.part == n && k == .store && match e.place with
    | .bin _ o => o == 0x28
    | _ => false
  parts.map (fun n => match control n with
    | none => Duty.perform id n
    | some e => if e.data % 2 = 1 then .armBin id n else .disarmBin id n) ++ yard.map fun e => Duty.locate (.own id e.part)

/-- Does a pen entry that a resolution has released hold back the thread's later accesses until it is performed (R205, R252)? -/
def PenItem.holds : PenItem → Bool
  | .store path st => !path && (st.so || st.elems.any fun e => e.place.strong)
  | .cmd _ _ => false

/-- Has a vector store of some slot of a core still to perform a part through the private alias, behind a part of it that goes
elsewhere (R211)? Every private access that issues later waits for it, so that the slots of the core keep the order of issue
(R309). -/
def State.privateWait (s : State) (core : Nat) : Bool :=
  s.flights.any fun f => f.tid / 16 == core && f.elems.any fun e => e.ownAlias && !e.done

/-- Must the issuing thread wait before this access may issue (R205): a strongly ordered access not performed, or, for a
part through the private alias, what that part must follow? -/
def State.issueWait (s : State) (tid : Nat) (r : Req) : Bool :=
  let mine := s.flights.filter fun f => f.tid == tid && !f.all
  let priv := r.elems.filter Elem.ownAlias
  let pen := (s.thread tid).pen
  let waits := r.rel || r.so || r.elems.any fun e => e.place.strong
  (mine.any Flight.isSo) || pen.any PenItem.holds ||
  (!priv.isEmpty && ((mine.any Flight.acq) || s.privateWait (tid / 16))) ||
  (!priv.isEmpty && waits && (!mine.isEmpty || s.fabops.any fun o => o.tid == tid)) ||
  (waits && !pen.isEmpty) ||
  (r.kind != .load && r.elems.any fun e => !(penBytes pen e).isEmpty)

/-- Issue an access of thread `tid`: none where it must wait, with the label of the wait. -/
def State.launch (s : State) (tid : Nat) (r : Req) : Except Wait State :=
  let t := s.thread tid
  let remote := r.elems.any fun e => !e.ownAlias
  if s.issueWait tid r then .error .order
  else if r.elems.any fun e => e.ownAlias && s.heldAt e.place e.w then .error .locked
  else if remote && t.full r.kind.cls then .error .count
  else
    let es := r.elems.map fun e => { e with laid := if r.kind == .load then penBytes t.pen e else [] }
    let (es, s) := s.performPrivate r.kind es
    let f : Flight := ⟨s.nextId, tid, r.kind, es, r.acq, r.rel, r.so, r.dest, t.spec.isSome, false, false⟩
    if remote then
      let s := { s with flights := s.flights ++ [f], due := s.due ++ performEvents f.id r.kind es, nextId := s.nextId + 1 }
      .ok (s.modThread tid fun t => (r.dest.pend t).count r.kind.cls)
    else .ok (s.modThread tid f.deliver)

end Sys2Proof.Machine
end

