-- ==== Sys2Proof/Machine/Check.lean ====
section
/-! DEFINITION. The checks of an access at issue (R201, R202, R212, R218, R280, R387, R437) and the acts of loads and
stores, on and off a run-ahead path (R227, R249, R250). -/

namespace Sys2Proof.Machine

/-- The form of an access, as far as the kinds it takes depend on it. -/
inductive Form where
  | scalar
  | contiguous (aligned64 : Bool)
  | scattered
  | atomic
  | watch
  deriving DecidableEq, Repr

/-- How the checks of one address end: its kind and place, a fault with cause and page-fault subcode, SEALED_REDUCE
with its group, POISON of a page-table entry, or no walk that is free (R299). -/
inductive Chk where
  | ok (k : AKind) (p : Place)
  | bad (cause sub : Nat)
  | sealed (g : Nat)
  | poison
  | busy
  deriving DecidableEq, Repr

/-- A trap that a check finds: cause and TVAL. -/
abbrev Bad := Option (Nat × Word)

/-- The operation of a multicast entry, if its pair is allowed (R436). -/
def mcastOp (w1 : Word) : Option (TkOp × TkFmt) :=
  let f : Option TkFmt := match bits w1.toNat 51 48 with
    | 0 => some .f32
    | 1 => some .bf16
    | 2 => some .f32p
    | 3 => some .i32
    | 4 => some .i64
    | _ => none
  let o : Option TkOp := match bits w1.toNat 55 52 with
    | 0 => some .sum
    | 1 => some .min
    | 2 => some .max
    | 3 => some .and
    | 4 => some .or
    | _ => none
  match o, f with
  | some o, some f => if tkPair o f then some (o, f) else none
  | _, _ => none

/-- Bytes of an element of a reduction format (R437). -/
def fmtBytes : TkFmt → Nat
  | .f32 | .i32 => 4
  | .bf16 => 2
  | .f32p | .i64 => 8

/-- Is a multicast entry in use (R436)? -/
def mcastValid (e : Word × Word) : Bool := e.1.getLsbD 63 && (mcastOp e.2).isSome

/-- A capability bit in the module's own peer entry. -/
def State.ownCap (s : State) (k : Nat) : Bool := (tget 0 s.peers s.ident.toNat).getLsbD k

/-- The aperture's rules for an access (R437). -/
def State.mcastCheck (s : State) (form : Form) (acc : Acc) (w g : Nat) : Chk → Chk := fun good =>
  let e := tget (0, 0) s.mcast g
  let bad := Chk.bad acc.fault 0
  if !mcastValid e then bad
  else match acc, form with
    | .store, .scalar | .store, .contiguous true => if (w = 4 ∨ w = 8) ∧ s.ownCap 3 = true then good else bad
    | .load, .scalar =>
      match mcastOp e.2 with
      | some (_, f) =>
        if w ≠ fmtBytes f ∨ s.ownCap 4 = false then bad
        else if e.1.getLsbD 62 then .sealed g else good
      | none => bad
    | _, _ => bad

/-- Is a feed bin given to the paddock of a core (R280)? -/
def State.ownBin (s : State) (core b : Nat) : Bool :=
  match (s.core core).paddock with
  | none => false
  | some p => match tfind s.paddocks p with
    | none => false
    | some d => d.bins.getLsbD b && decide (b < 128)

/-- Does a place lie in local memory below its core's XBOUND (R146)? -/
def State.belowXbound (s : State) : Place → Bool
  | .loc c o => decide (o < (s.core c).xbound.toNat)
  | _ => false

/-- What a kind allows to an access of a form. -/
def State.kindCheck (s : State) (core : Nat) (form : Form) (acc : Acc) (va w : Nat) (t : Trans) : Chk :=
  let good := Chk.ok t.kind t.place
  let bad := Chk.bad acc.fault 0
  match t.kind with
  | .priv | .mesh | .page .so | .page .rc | .page .un => good
  | .bins =>
    if form == .scalar && w == 8 && s.ownBin core ((va - binBase) / 64) then good else bad
  | .page .host => if form == .watch then bad else good
  | .page .yard =>
    if form == .atomic || form == .watch then bad
    else match s.yardOf core with
      | none => bad
      | some y =>
        if 2 ^ y.ty.log < w then bad
        else if va % 2 ^ y.ty.log ≠ 0 then .bad acc.align 0
        else good
  | .page .mcast =>
    match t.place with
    | .mcast g _ => s.mcastCheck form acc w g good
    | _ => bad

/-- Every check of one address of width `w` for the current thread, alignment first. -/
def State.check (s : State) (form : Form) (acc : Acc) (va w : Nat) : Chk × State :=
  if va % w ≠ 0 then (.bad acc.align 0, s)
  else
    let (r, s) := s.translate s.here s.user acc va
    match r with
    | .fault c sub => (.bad c sub, s)
    | .poison => (.poison, s)
    | .busy => (.busy, s)
    | .ok t =>
      if s.user && s.belowXbound t.place then (.bad acc.fault 0, s)
      else (s.kindCheck s.here form acc va w t, s)

/-- TVAL of a faulting access: the address, and above it a subcode or a lane (R202). -/
def faultVal (va hi : Nat) : Word := BitVec.ofNat 64 (va % 2 ^ 48 + hi * 2 ^ 48)

/-- TVAL of POISON for data read at issue (R497). -/
def poisonRead : Word := 128

/-- An element before its checks: lane, address, data. -/
structure Want where
  lane : Nat
  va   : Nat
  data : Nat
  deriving DecidableEq, Repr

/-- The elements of an access, the trap of the first lane that fails (R211), or a wait for a walk (R299). -/
inductive Elems where
  | ok (es : List (AKind × Elem)) (s : State)
  | trap (cause : Nat) (value : Word)
  | busy

/-- What keeps an operand of a command from its place: a trap, or a miss for which no walk is free (R299). -/
inductive NoPlace where
  | trap (cause : Nat) (value : Word)
  | busy
  deriving DecidableEq, Repr

/-- The act of an instruction whose operand has no place. -/
def NoPlace.act (s : State) : NoPlace → Act
  | .trap c v => .trap c v
  | .busy => .wait s .walk

/-- Check the lanes of an access in the order given; `vec` puts the lane in TVAL. -/
def State.checkAll (s : State) (form : Form) (acc : Acc) (w : Nat) (vec : Bool) : List Want → Elems
  | [] => .ok [] s
  | x :: xs =>
    match s.check form acc x.va w with
    | (.bad c sub, _) => .trap c (faultVal x.va (if vec then x.lane else sub))
    | (.sealed g, _) => .trap 31 (BitVec.ofNat 64 g)
    | (.poison, _) => .trap 26 poisonRead
    | (.busy, _) => .busy
    | (.ok k p, s) =>
      match State.checkAll s form acc w vec xs with
      | .trap c v => .trap c v
      | .busy => .busy
      | .ok es s => .ok ((k, ⟨x.lane, x.va, p, w, x.data, [], x.lane, false, false, none, false⟩) :: es) s

/-- Give the elements of a whole vector access at a multiple of 64 on one page one part (R204). -/
def asOnePart (es : List (AKind × Elem)) : List (AKind × Elem) :=
  match es with
  | [] => []
  | (k, e) :: _ =>
    if k = .page .yard then es else es.map fun x => (x.1, { x.2 with part := e.part })

/-- Kinds on which a load with order=page issues on a path (R227). -/
def AKind.pathLoad : AKind → Bool
  | .priv | .mesh | .page .rc | .page .un => true
  | .bins | .page .so | .page .yard | .page .mcast | .page .host => false

/-- May a buffered command write memory, so that loads on the path stall (R249)? -/
def BufOp.writes : BufOp → Bool
  | .copy _ _ => true
  | .tile c _ record => record.isSome || match c.op with
    | .mstz _ _ _ | .mvs _ _ => true
    | .mma _ _ | .msacc _ _ _ | .mzero _ | .mldz _ => false
  | .commit => false

/-- Does the thread hold a buffered command that may write memory? -/
def State.bufferWrites (s : State) (tid : Nat) : Bool :=
  (s.core (tid / 16)).cbuf.any fun b => b.tid == tid && b.op.writes

/-- The act of a load whose addresses have passed. -/
def loadAct (s0 s : State) (es : List (AKind × Elem)) (acq so : Bool) (dest : Dest) : Act :=
  if s.th.spec.isSome && (acq || so || es.any (fun e => !e.1.pathLoad) || s.bufferWrites s.cur) then .stall
  else match s.launch s.cur ⟨.load, es.map (·.2), acq, false, so, dest⟩ with
    | .error w => .wait s0 w
    | .ok s => .retire s

/-- What is alike for the elements of one pen entry: the place of R303, which is one for the host port and, on a strongly
ordered page, HBM at its frame whatever the homing (R303, R307); elsewhere the line or the core. -/
def Place.spot (p : Place) : Nat × Nat × Nat :=
  match p with
  | .hbm _ _ _ => (3, 0, 0)
  | .host _ => (4, 0, 0)
  | .loc _ _ | .line _ _ _ | .rd _ _ _ | .yard _ _ _ | .mcast _ _ | .bin _ _ => p.block

/-- The page that the current core's TLB gives an address: its first address and log2 of its size; none without translation. -/
def State.pageOf (s : State) (va : Nat) : Option (Nat × Nat) := ((s.tlbHits s.here va).map fun e => (e.va, e.size)).head?

/-- Split the elements of a contiguous store by page and place (R250). -/
def State.byPlace (s : State) : List Elem → List (List Elem)
  | [] => []
  | e :: es => match State.byPlace s es with
    | (g :: gs) :: rest =>
      if e.place.spot = g.place.spot ∧ s.pageOf e.va = s.pageOf g.va then (e :: g :: gs) :: rest
      else [e] :: (g :: gs) :: rest
    | _ => [[e]]

/-- Pen entries in use (R250). -/
def penUse (pen : List PenItem) : Nat :=
  (pen.filter fun i => i.cmdId.isNone).length

/-- The act of a store whose addresses have passed: into the pen on a path, or while the pen drains; else it issues. -/
def storeAct (s0 s : State) (form : Form) (es : List Elem) (rel so : Bool) : Act :=
  let t := s.th
  if t.spec.isSome || !t.pen.isEmpty then
    let entries := match form with
      | .contiguous _ => s.byPlace es
      | _ => es.map fun e => [e]
    if 32 < penUse t.pen + entries.length then (if t.spec.isSome then .stall else .wait s0 .queue)
    else .retire (s.modTh fun t =>
      { t with pen := t.pen ++ entries.map fun g => .store t.spec.isSome ⟨g, g.head?.bind fun e => s.pageOf e.va, rel, so⟩ })
  else match s.launch s.cur ⟨.store, es, false, rel, so, .none⟩ with
    | .error w => .wait s0 w
    | .ok s => .retire s

end Sys2Proof.Machine
end

