-- ==== Sys2Proof/Machine/Atomic.lean ====
section
/-! DEFINITION. Atomics (R212-R214, R496). -/

namespace Sys2Proof.Machine

/-- TVAL of REMOTE_NAK: the subcode over 56 bits of the raising rule (R260, R261). -/
def nakVal (sub low : Nat) : Word := BitVec.ofNat 64 (sub * 2 ^ 56 + low % 2 ^ 56)

/-- An atomic of width `w` bytes (R212, R213). A value-returning one that the host does not implement traps (R214). -/
def atomic (s : State) (i : Instr) (p : PredNo) (posted : Bool) (ord : AmoOrder) (w : Nat) (d a base : RegNo)
    (uses : List RName) (op : State → AmoOp) : Ans :=
  issue s ⟨i, p, false, false, .stall, uses, if posted then [] else [.s d.toNat]⟩ fun s =>
    match s.checkAll .atomic .atomic w false [⟨0, (s.sv base).toNat, lowBytes (s.sv a) w⟩] with
    | .trap c v => .trap c v
    | .busy => .wait s .walk
    | .ok es s' =>
      if !posted && es.any (fun e => !(op s).known e.2.place) then
        .trap 28 (nakVal 1 ((s.sv base).toNat % 2 ^ 48))
      else
        let dest := if posted then .none else .scalar d.toNat w false
        match s'.launch s'.cur ⟨.amo (op s) (w == 4) posted, es.map (·.2), ord == .acq || ord == .acqrel,
            ord == .rel || ord == .acqrel, false, dest⟩ with
        | .error x => .wait s x
        | .ok s => .retire s

/-- Bytes of a .w or .d atomic. -/
def amoBytes (w : Bool) : Nat := if w then 4 else 8

/-- `amoswap` (R213). -/
def execAmoswap (p : PredNo) (posted : Bool) (ord : AmoOrder) (w : Bool) (d a base : RegNo) (s : State) : Ans :=
  atomic s (.amoswap p posted ord w d a base) p posted ord (amoBytes w) d a base [.s a.toNat, .s base.toNat] fun _ => .swap

/-- `amoadd` (R213). -/
def execAmoadd (p : PredNo) (posted : Bool) (ord : AmoOrder) (w : Bool) (d a base : RegNo) (s : State) : Ans :=
  atomic s (.amoadd p posted ord w d a base) p posted ord (amoBytes w) d a base [.s a.toNat, .s base.toNat] fun _ => .add

/-- `amoand` (R213). -/
def execAmoand (p : PredNo) (posted : Bool) (ord : AmoOrder) (w : Bool) (d a base : RegNo) (s : State) : Ans :=
  atomic s (.amoand p posted ord w d a base) p posted ord (amoBytes w) d a base [.s a.toNat, .s base.toNat] fun _ => .and

/-- `amoor` (R213). -/
def execAmoor (p : PredNo) (posted : Bool) (ord : AmoOrder) (w : Bool) (d a base : RegNo) (s : State) : Ans :=
  atomic s (.amoor p posted ord w d a base) p posted ord (amoBytes w) d a base [.s a.toNat, .s base.toNat] fun _ => .or

/-- `amoxor` (R213). -/
def execAmoxor (p : PredNo) (posted : Bool) (ord : AmoOrder) (w : Bool) (d a base : RegNo) (s : State) : Ans :=
  atomic s (.amoxor p posted ord w d a base) p posted ord (amoBytes w) d a base [.s a.toNat, .s base.toNat] fun _ => .xor

/-- `amomin` (R213). -/
def execAmomin (p : PredNo) (posted : Bool) (ord : AmoOrder) (w : Bool) (d a base : RegNo) (s : State) : Ans :=
  atomic s (.amomin p posted ord w d a base) p posted ord (amoBytes w) d a base [.s a.toNat, .s base.toNat] fun _ => .min

/-- `amomax` (R213). -/
def execAmomax (p : PredNo) (posted : Bool) (ord : AmoOrder) (w : Bool) (d a base : RegNo) (s : State) : Ans :=
  atomic s (.amomax p posted ord w d a base) p posted ord (amoBytes w) d a base [.s a.toNat, .s base.toNat] fun _ => .max

/-- `amominu` (R213). -/
def execAmominu (p : PredNo) (posted : Bool) (ord : AmoOrder) (w : Bool) (d a base : RegNo) (s : State) : Ans :=
  atomic s (.amominu p posted ord w d a base) p posted ord (amoBytes w) d a base [.s a.toNat, .s base.toNat] fun _ => .minu

/-- `amomaxu` (R213). -/
def execAmomaxu (p : PredNo) (posted : Bool) (ord : AmoOrder) (w : Bool) (d a base : RegNo) (s : State) : Ans :=
  atomic s (.amomaxu p posted ord w d a base) p posted ord (amoBytes w) d a base [.s a.toNat, .s base.toNat] fun _ => .maxu

/-- `amocas` reads d as the compare value (R213). -/
def execAmocas (p : PredNo) (ord : AmoOrder) (w : Bool) (d a base : RegNo) (s : State) : Ans :=
  atomic s (.amocas p ord w d a base) p false ord (amoBytes w) d a base [.s a.toNat, .s base.toNat, .s d.toNat]
    fun s => .cas (s.sv d)

/-- `amofadd`, always of 32 bits (R212, R213). -/
def execAmofadd (p : PredNo) (posted : Bool) (ord : AmoOrder) (d a base : RegNo) (s : State) : Ans :=
  atomic s (.amofadd p posted ord d a base) p posted ord 4 d a base [.s a.toNat, .s base.toNat] fun _ => .fadd

end Sys2Proof.Machine
end

