-- ==== Sys2Proof/Machine/Sync.lean ====
section
/-! DEFINITION. Scopes, fences, waits on a word, barriers, mailboxes, counting waits and tokens (R215-R226, R313). -/

namespace Sys2Proof.Machine

/-- A scope: the modules it names and its core rectangle in each (R215). -/
structure Scope where
  all  : Bool                      -- every module of the connected group
  peer : Option Nat                -- one named module; none with `all` false is this module only
  xlo  : Nat
  ylo  : Nat
  xhi  : Nat
  yhi  : Nat
  deriving DecidableEq, Repr

/-- Read a scope value; none where it must trap (R215). -/
def Scope.of (v : Word) : Option Scope :=
  let n := v.toNat
  let mod := bits n 47 32
  if bits n 23 16 < bits n 7 0 ∨ bits n 31 24 < bits n 15 8 ∨ 63 < bits n 23 16 ∨ 31 < bits n 31 24 then none
  else if bits n 63 63 = 1 ∧ mod ≠ 0xFFFF ∧ 4095 < mod then none
  else some
    { all := bits n 63 63 == 1 && mod == 0xFFFF
      peer := if bits n 63 63 = 1 ∧ mod ≠ 0xFFFF then some mod else none
      xlo := bits n 7 0, ylo := bits n 15 8, xhi := bits n 23 16, yhi := bits n 31 24 }

/-- The scope of a core's paddock, on this module (R53). -/
def State.paddockScope (s : State) (core : Nat) : Scope :=
  match (s.core core).paddock with
  | none => ⟨false, none, core % 64, core / 64, core % 64, core / 64⟩
  | some p => match tfind s.paddocks p with
    | none => ⟨false, none, core % 64, core / 64, core % 64, core / 64⟩
    | some d => ⟨false, none, d.xlo, d.ylo, d.xhi, d.yhi⟩

/-- The scope a register names; s0 is the paddock. -/
def State.scope (s : State) (r : RegNo) : Option Scope := if r = 0 then some (s.paddockScope s.here) else Scope.of (s.sv r)

/-- Does a scope name this module? -/
def Scope.here (c : Scope) (ident : Nat) : Bool :=
  match c.peer with
  | none => true
  | some p => p == ident

/-- Does a scope name another module? -/
def Scope.names (c : Scope) (peer : Nat) : Bool := c.all || c.peer == some peer

/-- Does a core lie in the rectangle? -/
def Scope.core (c : Scope) (core : Nat) : Bool :=
  decide (c.xlo ≤ core % 64) && decide (core % 64 ≤ c.xhi) && decide (c.ylo ≤ core / 64) && decide (core / 64 ≤ c.yhi)

/-- Does the rectangle hold a core of a die? -/
def Scope.die (c : Scope) (d : Nat) : Bool :=
  decide (c.xlo ≤ d % 4 * 16 + 15) && decide (d % 4 * 16 ≤ c.xhi) &&
    decide (c.ylo ≤ d / 4 * 16 + 15) && decide (d / 4 * 16 ≤ c.yhi)

/-- Does a place lie inside a scope (R313)? A yard element lies where its member core stands, found from the core that the
access has reached; one that waits at a frontier counts as inside. A multicast store, which R303 gives no single place and
R313 no row, counts as inside every scope (DESIGN CHOICE, log entry 29). -/
def State.inside (s : State) (c : Scope) : Place → Bool
  | .loc k _ | .line k _ _ | .rd k _ _ | .hbm k _ _ => c.here s.ident.toNat && c.core k
  | .yard k i _ =>
    if 2048 ≤ k then c.names (peerOf k) && c.core (k % 2048)
    else match s.follow k i 64 with
      | (.to m, _) => c.names (peerOf m) && c.core (m % 2048)
      | (.wait, _) => true
      | (.here _, h) | (.denied, h) => c.here s.ident.toNat && c.core h
  | .host _ => c.here s.ident.toNat && c.die 0
  | .mcast _ _ => true
  | .bin b _ => c.here s.ident.toNat && c.die (b / 16)

/-- Has everything the thread issued earlier been performed, as far as the scope reaches (R216)? -/
def State.fenced (s : State) (tid : Nat) (c : Scope) : Bool :=
  (s.thread tid).pen.isEmpty &&
  !(s.flights.any fun f => f.tid == tid && f.elems.any fun e => s.inside c e.place) &&
  !(s.fabops.any fun o => o.tid == tid &&
      (if o.peer = s.ident.toNat then o.target.isEmpty || o.target.any (s.inside c) else c.names o.peer))

/-- An instruction of the SYNC major that stalls on a run-ahead path. -/
def syncHead (i : Instr) (p : PredNo) (uses defs : List RName) : Head := ⟨i, p, false, false, .stall, uses, defs⟩

/-- `fence` (R215, R216). -/
def execFence (p : PredNo) (a : RegNo) (s : State) : Ans :=
  issue s (syncHead (.fence p a) p [.s a.toNat] []) fun s =>
    match s.scope a with
    | none => .trap 2 (s.sv a)
    | some c => if s.fenced s.cur c then .retire s else .wait s .fence

/-- `fence.lb` (R217). -/
def execFenceLb (p : PredNo) (s : State) : Ans :=
  issue s (syncHead (.fenceLb p) p [] []) fun s =>
    let lb := fun e : Elem => !e.done && match e.place with
      | .loc c _ => c == s.here
      | _ => false
    if s.th.pen.isEmpty && !(s.flights.any fun f => f.tid == s.cur && f.elems.any lb) then .retire s
    else .wait s .fence

/-- May the thread read `n` bytes at an address and its place now as an acquire (R205, R322)? -/
def State.readable (s : State) (tid va : Nat) (p : Place) (n : Nat) : Bool :=
  let e : Elem := ⟨0, va, p, n, 0, [], 0, false, false, none, false⟩
  let pen := (s.thread tid).pen
  (penBytes pen e).isEmpty && !(pen.any PenItem.holds) && !s.heldRead p n && !(e.ownAlias && s.privateWait (tid / 16)) &&
  !(s.flights.any fun f => f.tid == tid && !f.all && (f.acq || f.isSo || sharesBytes f.elems [e])) &&
  !(s.fabops.any fun o => o.tid == tid && o.touches e) &&
  !(p.strong && (!pen.isEmpty || s.flights.any (fun f => f.tid == tid) || s.fabops.any fun o => o.tid == tid))

/-- Wait on a word until `w` holds of it (R218, R219, R222). `only` says which places it takes. -/
def watchAct (s : State) (va : Nat) (only : Place → Bool) (w : Place → WatchEnt) : Act :=
  match s.th.wait with
  | some (.watch _ true) => .retire s
  | some (.watch d false) => .wait s (.watch d false)
  | _ =>
    match s.checkAll .watch .load 8 false [⟨0, va, 0⟩] with
    | .trap c v => .trap c v
    | .busy => .wait s .walk
    | .ok [] _ => .stall
    | .ok ((_, e) :: _) s' =>
      if !only e.place then .trap 5 (faultVal va 0)
      else if !s'.readable s'.cur va e.place 8 then .wait s .order
      else
        let (v, poison, s'') := s'.readPlace e.place 8
        let ent := w e.place
        if poison then .trap 26 poisonRead
        else if ent.holds (BitVec.ofNat 64 v) then .retire s''
        else if 64 ≤ (s''.core e.place.home).watches.length then .wait s'' .queue
        else .wait (s''.modCore e.place.home fun c => { c with watches := c.watches ++ [ent] }) (.watch e.place.flat false)

/-- `watch` (R218, R219): a is the base, b the value. -/
def execWatch (p : PredNo) (cmp : WatchCmp) (a b : RegNo) (s : State) : Ans :=
  issue s (syncHead (.watch p cmp a b) p [.s a.toNat, .s b.toNat] []) fun s =>
    watchAct s (s.sv a).toNat (fun _ => true) fun pl => ⟨s.cur, pl, cmp, s.sv b, none⟩

/-- Is a place in local memory? -/
def Place.isLocal : Place → Bool
  | .loc _ _ => true
  | _ => false

/-- `bar.arr` (R221, R222): a release, then one atomic update at the word's home. -/
def execBarArr (p : PredNo) (a : RegNo) (s : State) : Ans :=
  issue s (syncHead (.barArr p a) p [.s a.toNat] []) fun s =>
    match s.checkAll .atomic .atomic 8 false [⟨0, (s.sv a).toNat, 0⟩] with
    | .trap c v => .trap c v
    | .busy => .wait s .walk
    | .ok es s' =>
      if es.any fun e => !e.2.place.isLocal then .trap 7 (faultVal (s.sv a).toNat 0)
      else match s'.launch s'.cur ⟨.barArr, es.map (·.2), false, true, false, .none⟩ with
        | .error w => .wait s w
        | .ok s => .retire s

/-- `bar.wait` (R222): a is the base, b holds the phase. -/
def execBarWait (p : PredNo) (a b : RegNo) (s : State) : Ans :=
  issue s (syncHead (.barWait p a b) p [.s a.toNat, .s b.toNat] []) fun s =>
    watchAct s (s.sv a).toNat Place.isLocal fun pl => ⟨s.cur, pl, .eq, 0, some ((s.sv b).getLsbD 0)⟩

/-- The interrupts of R262. -/
inductive Irq where | message | preempt | host | timer | mailbox
  deriving DecidableEq, Repr

/-- Set or clear an IP bit. -/
def TStatus.setIp (t : TStatus) (i : Irq) (b : Bool) : TStatus :=
  match i with
  | .message => { t with ipMessage := b }
  | .preempt => { t with ipPreempt := b }
  | .host => { t with ipHost := b }
  | .timer => { t with ipTimer := b }
  | .mailbox => { t with ipMailbox := b }

/-- Raise an interrupt on a slot: its IP bit is set, or it is discarded where the slot is IDLE (R263). -/
def State.raiseIrq (s : State) (tid : Nat) (i : Irq) : State :=
  if (s.ctx tid).state = .idle then s else s.modCtx tid fun t => { t with ts := t.ts.setIp i true }

/-- A mailbox of a core: its value when it is full (R223). -/
def Core.box (c : Core) (m : Nat) : Option Word := tget none c.mbox m

/-- `mput` (R223). -/
def execMput (p : PredNo) (a : RegNo) (mbox : BitVec 3) (s : State) : Ans :=
  issue s (syncHead (.mput p a mbox) p [.s a.toNat] []) fun s =>
    match (s.core s.here).box mbox.toNat with
    | some _ => .wait s .mailbox
    | none =>
      let s := s.modCore s.here fun c => { c with mbox := tset c.mbox mbox.toNat (some (s.sv a)) }
      .retire (s.raiseIrq (s.here * 16 + 15) .mailbox)

/-- `mget` (R223). -/
def execMget (p : PredNo) (d : RegNo) (mbox : BitVec 3) (s : State) : Ans :=
  issue s (syncHead (.mget p d mbox) p [] [.s d.toNat]) fun s =>
    match (s.core s.here).box mbox.toNat with
    | none => .wait s .mailbox
    | some v =>
      .retire ((s.modCore s.here fun c => { c with mbox := tset c.mbox mbox.toNat none }).setS d v)

/-- Are the counts of a class zero (R224)? -/
def Thread.quiet (t : Thread) : WaitClass → Bool
  | .all => t.ldCnt == 0 && t.stCnt == 0 && t.amoCnt == 0 && t.fabCnt == 0
  | .ld => t.ldCnt == 0
  | .st => t.stCnt == 0
  | .amo => t.amoCnt == 0
  | .fab => t.fabCnt == 0

/-- `wait` (R224). -/
def execWait (p : PredNo) (cls : WaitClass) (s : State) : Ans :=
  issue s (syncHead (.wait p cls) p [] []) fun s =>
    if !s.th.quiet cls then .wait s .classCount
    else if (cls == .all || cls == .st) && s.th.errSt then
      .trapIn (s.modTh fun t => { t with errSt := false }) 28 (nakVal 0x10 0)
    else if (cls == .all || cls == .fab) && s.th.errFab then
      .trapIn (s.modTh fun t => { t with errFab := false }) 28 (nakVal 0x11 0)
    else .retire s

/-- Wait for a bit of a token register, read whether or not it is pending (R225). -/
def tokenWait (s : State) (i : Instr) (p : PredNo) (a : RegNo) (k : Nat) : Ans :=
  issue s (syncHead i p [] []) fun s =>
    match s.th.poisonOf (.s a.toNat) with
    | some v => .trap 26 v
    | none => if (s.sv a).getLsbD k then .retire s else .wait s .token

/-- `twait.src` (R225). -/
def execTwaitSrc (p : PredNo) (a : RegNo) (s : State) : Ans := tokenWait s (.twaitSrc p a) p a 0

/-- `twait.vis` (R225). -/
def execTwaitVis (p : PredNo) (a : RegNo) (s : State) : Ans := tokenWait s (.twaitVis p a) p a 1

end Sys2Proof.Machine
end

