-- ==== Sys2Proof/Machine/Message.lean ====
section
/-! DEFINITION. Messages, remote calls, feed-bin grabs and receive cycles (R51, R229-R239, R276). -/

namespace Sys2Proof.Machine

/-- The slot a descriptor names (R229). -/
def targetOf (v : Word) : Nat := coreAt (bits v.toNat 7 0) (bits v.toNat 15 8) * 16 + bits v.toNat 19 16

/-- May a descriptor be used by a core (R230)? -/
def State.descriptorOk (s : State) (core : Nat) (v : Word) : Bool :=
  decide (bits v.toNat 7 0 ≤ 63) && decide (bits v.toNat 15 8 ≤ 31) && s.samePaddock core (targetOf v / 16)

/-- Has every earlier access of a thread been performed, as a release needs (R205)? -/
def State.released (s : State) (tid : Nat) : Bool :=
  (s.thread tid).pen.isEmpty && !(s.flights.any fun f => f.tid == tid && !f.all) && !(s.fabops.any fun o => o.tid == tid)

/-- Retire the waiting instruction of another thread: it goes on four bytes further. -/
def State.retireOther (s : State) (tid : Nat) : State :=
  s.modThread tid fun t => (t.seqTo (t.pc + 4)).retired

/-- An instruction of the MSG major. -/
def msgHead (i : Instr) (p : PredNo) (uses defs : List RName) : Head := ⟨i, p, false, false, .stall, uses, defs⟩

/-- The register pair d and d + 1, or d alone when d is 31 (R233, R237). -/
def pairDefs (d : RegNo) : List RName := if d = 31 then [.s 31] else [.s d.toNat, .s (d.toNat + 1)]

/-- Put a packet on its way. -/
def State.post (s : State) (p : Packet) : State := { s with packets := s.packets ++ [p] }

/-- `sendm` (R230, R232): it waits for the target's answer. -/
def execSendm (p : PredNo) (a b : RegNo) (s : State) : Ans :=
  issue s (msgHead (.sendm p a b) p [.s a.toNat, .s b.toNat] []) fun s =>
    match s.th.wait with
    | some (.message id) => .wait s (.message id)
    | _ =>
      if !s.descriptorOk s.here (s.sv a) then .trap 28 (nakVal 2 (s.sv a).toNat)
      else if !s.released s.cur then .wait s .order
      else
        let (id, s') := s.fresh
        .wait ((s'.post (.msg id s.cur (targetOf (s.sv a)) (s.sv b))).owe (.message id)) (.message id)

/-- Find a packet by its number. -/
def State.packet (s : State) (id : Nat) : Option Packet :=
  s.packets.find? fun p => match p with
    | .msg i _ _ _ => i == id
    | .call i _ _ _ _ => i == id
    | .reply i _ _ _ => i == id

/-- Drop a packet. -/
def State.dropPacket (s : State) (id : Nat) : State :=
  { s with packets := s.packets.filter fun p => match p with
      | .msg i _ _ _ => i != id
      | .call i _ _ _ _ => i != id
      | .reply i _ _ _ => i != id }

/-- MESSAGE_DELIVERY (R231, R232): accepted, refused for want of a context, or tried again while the queue is full or the
core has spilled (R274). -/
def execMessageDelivery (id : Nat) (s : State) : Ans :=
  match s.packet id with
  | some (.msg _ tid target payload) =>
    let t := s.thread target
    if t.state = .idle then
      let s := s.dropPacket id
      .next (s.trap tid 28 (nakVal 4 (descriptor target)) (s.thread tid).pc)
    else if 16 ≤ t.recvQ.length ∨ (s.core (target / 16)).spilled = true ∨ t.state = .swapped then
      .next (s.owe (.message id))
    else
      let s := (s.dropPacket id).modThread target fun t => { t with recvQ := t.recvQ ++ [⟨payload, descriptor tid⟩] }
      .next ((s.raiseIrq target .message).retireOther tid)
  | _ => .next s

/-- Does a message match a source descriptor (R233)? -/
def Msg.matches (m : Msg) (a : Word) : Bool := a.getLsbD 20 || m.sender == a.toNat % 2 ^ 20

/-- Take the oldest message that matches. -/
def takeMsg (a : Word) : List Msg → Option (Msg × List Msg)
  | [] => none
  | m :: ms =>
    if m.matches a then some (m, ms)
    else match takeMsg a ms with
      | none => none
      | some (x, r) => some (x, m :: r)

/-- Write d, and d + 1 unless d is 31. -/
def State.setPair (s : State) (d : RegNo) (x y : Word) : State :=
  let s := s.setS d x
  if d = 31 then s else s.setS (d + 1) y

/-- `recvm` (R233, R234). -/
def execRecvm (p : PredNo) (d a : RegNo) (s : State) : Ans :=
  issue s (msgHead (.recvm p d a) p [.s a.toNat] (pairDefs d)) fun s =>
    let v := s.sv a
    if !v.getLsbD 20 && !s.descriptorOk s.here v then .trap 28 (nakVal 2 v.toNat)
    else
      let s' := match s.th.wait with
        | some (.recv _ _) => s
        | _ => s.modTh fun t => { t with recvTag := t.recvTag + 1 }
      match takeMsg v s.th.recvQ with
      | some (m, rest) =>
        .retire ((s'.modTh fun t => { t with recvQ := rest }).setPair d m.payload (BitVec.ofNat 64 m.sender))
      | none => .wait s' (.recv (if v.getLsbD 20 then none else some (targetOf v)) s'.th.recvTag)

/-- A caller token (R235). -/
def callToken (tid reg : Nat) (seq : BitVec 32) : Word :=
  BitVec.ofNat 64 (descriptor tid + reg * 2 ^ 20 + seq.toNat * 2 ^ 32)

/-- `rcall` (R236). -/
def execRcall (p : PredNo) (d a b : RegNo) (s : State) : Ans :=
  issue s (msgHead (.rcall p d a b) p [.s a.toNat, .s b.toNat] [.s d.toNat]) fun s =>
    if !s.descriptorOk s.here (s.sv a) then .trap 28 (nakVal 2 (s.sv a).toNat)
    else if !s.released s.cur then .wait s .order
    else if d ≠ 0 ∧ s.th.full .amo = true then .wait s .count
    else
      let seq := s.th.callSeq
      let (id, s') := s.fresh
      let s' := s'.post (.call id s.cur (targetOf (s.sv a)) (s.sv b) (callToken s.cur d.toNat seq))
      let s' := s'.modTh fun t =>
        let t := { t with callSeq := seq + 1 }
        if d = 0 then t else { (t.pendS d.toNat).count .amo with calls := t.calls ++ [(d.toNat, seq)] }
      .retire (s'.owe (.call id))

/-- Answer a call: a reply packet on its way to the caller. -/
def State.reply (s : State) (value token : Word) (refused : Bool) : State :=
  let (id, s) := s.fresh
  (s.post (.reply id value token refused)).owe (.reply id)

/-- CALL_DELIVERY (R236, R238). -/
def execCallDelivery (id : Nat) (s : State) : Ans :=
  match s.packet id with
  | some (.call _ _ target arg token) =>
    let t := s.thread target
    if t.state = .idle then .next ((s.dropPacket id).reply 0 token true)
    else if 16 ≤ t.callQ.length ∨ (s.core (target / 16)).spilled = true ∨ t.state = .swapped then
      .next (s.owe (.call id))
    else .next ((s.dropPacket id).modThread target fun t => { t with callQ := t.callQ ++ [⟨arg, token⟩] })
  | _ => .next s

/-- CALL_REPLY (R237, R238): written to the register whose call it answers; one whose token names no slot of the module, or no
outstanding call, is discarded. -/
def execCallReply (id : Nat) (s : State) : Ans :=
  match s.packet id with
  | some (.reply _ value token refused) =>
    let s := s.dropPacket id
    let tid := targetOf token
    let key := (bits token.toNat 24 20, BitVec.ofNat 32 (bits token.toNat 63 32))
    if decide (bits token.toNat 7 0 < 64) && decide (bits token.toNat 15 8 < 32) && (s.ctx tid).calls.contains key then
      .next (s.modCtx tid fun t =>
        { (t.late fun t => if refused then t.poisonS key.1 4 else t.setS key.1 value).uncount .amo with
            calls := t.calls.filter fun c => c != key })
    else .next s
  | _ => .next s

/-- `rret` (R237): it answers once, then takes the next call. -/
def execRret (p : PredNo) (d a b : RegNo) (s : State) : Ans :=
  issue s (msgHead (.rret p d a b) p [.s a.toNat, .s b.toNat] (pairDefs d)) fun s =>
    if s.sv b ≠ 0 ∧ s.released s.cur = false then .wait s .order
    else
      let s := if s.sv b = 0 then s else (s.reply (s.sv a) (s.sv b) false).setS b 0
      match s.th.callQ with
      | [] => .wait s .call
      | c :: cs => .retire ((s.modTh fun t => { t with callQ := cs }).setPair d c.arg c.token)

/-- `rgrab` (R239): a value-returning atomic at the bin. -/
def execRgrab (p : PredNo) (d a : RegNo) (s : State) : Ans :=
  issue s (msgHead (.rgrab p d a) p [.s a.toNat] [.s d.toNat, .s (d.toNat + 1)]) fun s =>
    let b := (s.sv a).toNat
    if !s.ownBin s.here b then .trap 28 (nakVal 2 b)
    else if s.th.full .amo then .wait s .count
    else
      let (id, s) := s.fresh
      let e : Elem := ⟨0, binBase + 64 * b, .bin b 0, 0, 0, [], 0, false, false, none, false⟩
      let f : Flight :=
        ⟨id, s.cur, .grab, [e, { e with lane := 1 }], false, false, false, .pair d.toNat, false, false, false⟩
      let s := { s with flights := s.flights ++ [f] }.owe (.grab id)
      .retire (s.modTh fun t => (f.dest.pend t).count .amo)

/-- One grab at a bin: start, length and the bin afterwards (R51). -/
def Bin.grab (b : Bin) : Word × Word × Bin :=
  if !b.arm then (b.next, 0, b)
  else
    let remaining := (b.start + b.len - b.next).toNat
    let min := max b.min.toNat 1
    let part := max b.part.toNat 1
    let want := max min ((remaining + 2 * part - 1) / (2 * part))
    let len := BitVec.ofNat 64 (Nat.min remaining want)
    (b.next, len, { b with next := b.next + len })

/-- FEED_BIN_GRAB (R51): by a thread of this module, or by a participant on another one (R275). -/
def execFeedBinGrab (src : GrabSrc) (s : State) : Ans :=
  match src with
  | .other bin =>
    let (start, len, b) := (tget Bin.zero s.bins bin).grab
    .next ({ s with bins := tset s.bins bin b }.send (.grabbed bin start len))
  | .own id =>
    match s.flights.find? fun f => f.id == id && f.kind == .grab && !f.all with
    | none => .next s
    | some f =>
      match f.elems with
      | [x, y] =>
        match x.place with
        | .bin bin _ =>
          let (start, len, b) := (tget Bin.zero s.bins bin).grab
          let f' := { f with
            elems := [{ x with data := start.toNat, done := true }, { y with data := len.toNat, done := true }]
            performed := true }
          let flights := s.flights.map fun g : Flight => if g.id = id then f' else g
          .next ({ s with bins := tset s.bins bin b, flights := flights }.owe (.arrive id))
        | _ => .next s
      | _ => .next s

/-! ## Receive cycles (R276) -/

/-- The named sender and the tag of a thread that waits in a `recvm` with ANY = 0. -/
def State.recvEdge (s : State) (tid : Nat) : Option (Nat × Nat) :=
  match (s.thread tid).state, (s.thread tid).wait with
  | .waiting, some (.recv (some n) tag) => some (n, tag)
  | _, _ => none

/-- The receive threshold of a waiting `recvm` passes: it sends a probe (R234, R276). -/
def execReceiveThreshold (tid : Nat) (s : State) : Ans :=
  match s.recvEdge tid with
  | none => .next s
  | some (n, tag) =>
    let (id, s) := s.fresh
    let p : Probe := ⟨id, [(tid, tag)], n, false⟩
    .next ({ s with probes := s.probes ++ [p] }.owe (.probe id))

/-- Replace or drop a probe. -/
def State.setProbe (s : State) (id : Nat) (p : Option Probe) : State :=
  { s with probes := s.probes.filterMap fun q => if q.id = id then p else some q }

/-- RECV_PROBE: a probe reaches a thread (R276). -/
def execRecvProbe (id : Nat) (s : State) : Ans :=
  match s.probes.find? fun p => p.id == id && !p.strike with
  | none => .next s
  | some p =>
    match s.recvEdge p.target with
    | none => .next (s.setProbe id none)
    | some (n, tag) =>
      match p.path with
      | [] => .next (s.setProbe id none)
      | (origin, otag) :: _ =>
        if p.target = origin then
          if tag = otag then .next ((s.setProbe id (some { p with strike := true })).owe (.strike id))
          else .next (s.setProbe id none)
        else if 32768 ≤ p.path.length then .next (s.setProbe id none)
        else .next ((s.setProbe id (some { p with path := p.path ++ [(p.target, tag)], target := n })).owe (.probe id))

/-- Strike one thread of a cycle of `len` threads, if it is still in the wait recorded for it. -/
def State.strikeOne (s : State) (len : Nat) (x : Nat × Nat) : State :=
  match s.recvEdge x.1 with
  | none => s
  | some (n, tag) =>
    let ts := (s.thread x.1).ts
    if tag = x.2 ∧ (ts.hold || !ts.ipPreempt) = true then s.trap x.1 27 (BitVec.ofNat 64 (descriptor n + len % 2 ^ 16 * 2 ^ 32)) (s.thread x.1).pc else s

/-- RECV_STRIKE: the strike goes along the recorded path (R276). -/
def execRecvStrike (id : Nat) (s : State) : Ans :=
  match s.probes.find? fun p => p.id == id && p.strike with
  | none => .next s
  | some p => .next (p.path.foldl (fun s x => s.strikeOne p.path.length x) (s.setProbe id none))

end Sys2Proof.Machine
end

