-- ==== Sys2Proof/Machine/AccessEvents.lean ====
section
/-! DEFINITION. The events of the memory system: performs, results, refusals, pen drains, walks and ECC errors (R200,
R203, R252, R293, R299, R304). -/

namespace Sys2Proof.Machine

/-- Find a flight. -/
def State.flight (s : State) (id : Nat) : Option Flight := s.flights.find? fun f => f.id == id

/-- Replace a flight. -/
def State.setFlight (s : State) (f : Flight) : State :=
  { s with flights := s.flights.map fun g => if g.id = f.id then f else g }

/-- After elements of a flight have been performed: a result sets out, or the access is over (R148). -/
def State.afterPerform (s : State) (f : Flight) : State :=
  if !f.all then s.setFlight f
  else match f.dest, f.kind with
    | .none, .load => (s.setFlight { f with performed := true }).owe (.arrive f.id)
    | .none, _ => s.endFlight f
    | _, _ => (s.setFlight { f with performed := true }).owe (.arrive f.id)

/-- The bytes of a multicast store as offsets into the aperture. -/
def mcastBytes (es : List Elem) : List (Nat × Byte) :=
  es.flatMap fun e => match e.place with
    | .mcast _ o => (List.range e.w).map fun k => (o + k, BitVec.ofNat 8 (e.data / 256 ^ k))
    | _ => []

/-- A multicast access leaves for the switches (R438, R440); its operand is the address of lane 0, on or off (R435). -/
def State.sendMcast (s : State) (f : Flight) (g : Nat) : State :=
  if s.fabops.any fun o => o.id == f.id then s
  else
    let load := f.kind == .load
    let (va, off) := match f.elems with
      | [] => (0, 0)
      | x :: _ => (x.va - x.lane * x.w, match x.place with
        | .mcast _ o => o - x.lane * x.w
        | _ => 0)
    let op : FabOp :=
      { id := f.id, tid := f.tid, kind := if load then .mload else .mstore, peer := s.ident.toNat
        oper := BitVec.ofNat 64 va, places := [], target := [], nw := 0, lva := 0, data := [], sig := 0, inc := 0, opnd := 0
        dest := f.dest, group := g, mcount := bits (tget (0, 0) s.mcast g).1.toNat 28 16, resp := none }
    let s := { s with fabops := s.fabops ++ [op] }
    s.sendTree g (if load then .collect g off f.id else .replica g off f.id (mcastBytes f.elems))

/-- Perform a part of a flight now, if R205 and the locks allow it; else it is tried again. -/
def State.performNow (s : State) (id part : Nat) (again : Duty) : State :=
  match s.flight id with
  | none => s
  | some f =>
    match f.elems.find? fun e => e.part == part && !e.done with
    | none => s
    | some e =>
      if !s.mayPerform f part then s.owe again
      else match e.place with
        | .mcast g _ => s.sendMcast f g
        | .yard _ _ _ => s
        | _ =>
          let (es, s) := s.performPart f.kind part f.elems
          s.afterPerform { f with elems := es }

/-- ACCESS_PERFORM (R200, R304): `host` is what the host has written to its own bus memory before. -/
def execAccessPerform (id part : Nat) (host : List (Nat × Byte)) (s : State) : Ans :=
  let s := { s with mem := host.foldl (fun (m : Memory) (b : Nat × Byte) => m.putByte (Region.host b.1) b.2) s.mem }
  .next (s.performNow id part (.perform id part))

/-- Is part `part` of a flight a store of this bit to FBCTL.ARM? -/
def State.writesArm (s : State) (id part : Nat) (arm : Bool) : Bool :=
  match s.flight id with
  | none => false
  | some f => f.elems.any fun e => e.part == part && f.kind == .store && decide (e.data % 2 = 1) == arm && match e.place with
    | .bin _ o => o == 0x28
    | _ => false

/-- FEED_BIN_ARM (R50, R51): a store of 1 to FBCTL.ARM is performed at the bin. -/
def execFeedBinArm (id part : Nat) (s : State) : Ans :=
  .next (if s.writesArm id part true then s.performNow id part (.armBin id part) else s)

/-- FEED_BIN_DISARM (R50, R51): a store of 0 to FBCTL.ARM is performed at the bin. -/
def execFeedBinDisarm (id part : Nat) (s : State) : Ans :=
  .next (if s.writesArm id part false then s.performNow id part (.disarmBin id part) else s)

/-! ## Answers of other modules and of the host (R203, R343, R396) -/

/-- The number under which element `k` of an access, or of a copy, asks another module. -/
def requestId (id k : Nat) : Nat := 64 * id + k

/-- In place of a module's number: the host port. -/
def hostPort : Nat := 4096

/-- Set the element of part `part` of a flight. -/
def Flight.setPart (f : Flight) (part : Nat) (g : Elem → Elem) : Flight :=
  { f with elems := f.elems.map fun e => if e.part = part then g e else e }

/-- An element as its answer leaves it: with its value, which may hold the poison code, or refused. -/
def Elem.answered (e : Elem) : FabResp → Elem
  | .ok vs =>
    let v := vs.getD 0 (0, false)
    { e with data := v.1.toNat % 2 ^ (8 * e.w), poison := v.2, done := true }
  | .refused sub => { e with refused := some sub, done := true }

/-- Go on with a flight once an answer has reached its elements: it ends with the last one. -/
def State.settleFlight (s : State) (f : Flight) : State := if f.all then s.endFlight f else s.setFlight f

/-- Has the copy read all that it will read? -/
def CopyCmd.writing (c : CopyCmd) : Bool := c.srcDone || c.fail.isSome

/-- A copy as the answer to element `k` leaves it: read, written, or ended there (R343, R344). -/
def CopyCmd.answered (c : CopyCmd) (k : Nat) (r : FabResp) : CopyCmd :=
  match r with
  | .ok vs =>
    if c.writing then { c with asked := none, buf := c.buf.filter fun b => b.1 != k }
    else
      let v := vs.getD 0 (0, false)
      { c with asked := none, buf := c.buf ++ [(k, v.1.toNat, if v.2 then [0] else [])] }
  | .refused sub => { c with asked := none, fail := some (k, 28, sub.toNat) }

/-- The answer to a copy that has asked for an element; `whom` is the module, or the host port, if it matters. -/
def State.answerCopy (s : State) (ser : Nat) (whom : Option Nat) (r : FabResp) : State :=
  let f := fun c : CopyCmd => match c.asked with
    | some (k, p) => if c.ser = ser ∧ whom.all (· == p) = true then c.answered k r else c
    | none => c
  { s with cores := s.cores.map fun k => (k.1, { k.2 with copyQ := k.2.copyQ.map f }) }

/-- The copy that has asked another module for an element under a serial number, and the module (R343). -/
def State.askedOf (s : State) (ser : Nat) : Option Nat :=
  (s.cores.flatMap fun c => c.2.copyQ).findSome? fun c => match c.asked with
    | some (_, p) => if c.ser = ser ∧ p ≠ hostPort then some p else none
    | none => none

/-- Has an element left for a module, or for any with `none`, and not been answered yet? -/
def Elem.awaits (e : Elem) (peer : Option Nat) : Bool :=
  e.sent && !e.done && match e.place with
    | .yard c _ _ => peer.all fun p => c / 2048 == p + 1
    | _ => false

/-- The answer to a request toward another module's yard. -/
def State.takeAnswer (s : State) (reqId : Nat) (r : FabResp) : State :=
  match s.flight (reqId / 64) with
  | some f => s.settleFlight (f.setPart (reqId % 64) fun e => if e.sent && !e.done then e.answered r else e)
  | none => s.answerCopy (reqId / 64) none r

/-- REMOTE_RESULT_ARRIVAL (R136, R139, R252): the result of access `id`, whose elements have all been performed; or, with
`ext`, another module's authenticated answer to request `id`. -/
def execRemoteResultArrival (id : Nat) (ext : Option (PktHdr × List Dword)) (s : State) : Ans :=
  match ext with
  | none =>
    match s.flight id with
    | none => .next s
    | some f => .next (if f.all then s.endFlight f else s)
  | some (h, vs) =>
    let (ok, s) := s.takeFrom h.peer 1 [h]
    .next (if ok then s.takeAnswer id (.ok vs) else s)

/-- Does an element wait for the host? -/
def Elem.atHost (e : Elem) : Bool :=
  !e.done && match e.place with
    | .host _ => true
    | _ => false

/-- REMOTE_REFUSAL (R203): another module refuses request `id` in an authenticated packet; or the host refuses what access
or copy `id` has there. -/
def execRemoteRefusal (id : Nat) (r : RemoteNak) (s : State) : Ans :=
  match r.hdr with
  | some h =>
    let (ok, s) := s.takeFrom h.peer 1 [h]
    .next (if ok then s.takeAnswer id (.refused r.sub) else s)
  | none =>
    match s.flight id with
    | none => .next (s.answerCopy id (some hostPort) (.refused r.sub))
    | some f =>
      .next (if f.elems.any Elem.atHost then
        s.settleFlight { f with elems := f.elems.map fun e => if e.atHost then e.answered (.refused r.sub) else e } else s)

/-- PEN_DRAIN (R252): the oldest released entry issues as an ordinary store with its own order key. From then on it counts in
OSTAT.ST, and not while it stands in the pen (R148; DESIGN CHOICE, log entry 29: the spec says until when a store counts, not
from when a held one does). -/
def execPenDrain (tid : Nat) (s : State) : Ans :=
  let t := s.thread tid
  match t.pen with
  | .store false st :: rest =>
    let alone := s.modThread tid fun t => { t with pen := [], spec := none }
    match alone.launch tid ⟨.store, st.elems, false, st.rel, st.so, .none⟩ with
    | .error _ => .next (s.owe (.drain tid))
    | .ok s =>
      let s := s.modThread tid fun t' => { t' with pen := rest, spec := t.spec }
      .next (if rest.isEmpty then s else s.owe (.drain tid))
  | .cmd false _ :: _ => .next (s.owe (.release tid))
  | _ => .next s

/-- Begin a walk for a core's miss, where one is free: it reads the table and owes its end (R299). -/
def State.beginWalk (s : State) (core va : Nat) : State :=
  if !isTranslated va || !(s.tlbHits core va).isEmpty || s.walksBusy core then s
  else
    State.owe { s with walks := s.walks ++ [⟨core, va, (s.walk core va).entry va⟩] } (.walk core va)

/-- End a walk: the entry that it has found, if it has one still, enters the TLB, unless another walk has mapped the address. -/
def State.endWalk (s : State) (w : WalkRun) : State :=
  let s := { s with walks := s.walks.erase w }
  match w.found with
  | none => s
  | some e => if (s.tlbHits w.core w.va).isEmpty then s.fillTlb w.core e else s

/-- PAGE_WALK (R272, R299): a walk for a core begins, or one that is under way ends and fills the core's TLB; a fault found in it
is not cached. -/
def execPageWalk (core : Nat) (va : BitVec 64) (s : State) : Ans :=
  .next (match s.walks.find? fun w => w.core == core && w.va == va.toNat with
    | none => s.beginWalk core va.toNat
    | some w => s.endWalk w)

/-- An uncorrectable ECC error strikes the word at a place of the flat space (R293). -/
def execUncorrectableEccError (place : Nat) (s : State) : Ans :=
  .next { s with mem := s.mem.poisonWord place }

end Sys2Proof.Machine
end

