-- ==== Sys2Proof/Machine/Flags.lean ====
section
/-! DEFINITION. Rounding modes (R69, R70), FFLAGS (R71, R72) and the typed lane operations with the flags each raises. -/

namespace Sys2Proof

/-- The binary format of a real floating type; c64 parts are FP32. -/
def VType.fmt : VType → Machine.Fmt
  | .bf16 => .bf16
  | .f16 => .f16
  | .f32 | .c64 | .i8 | .i16 | .i32 | .i64 => .f32

/-- Bits of a lane. -/
def VType.width (ty : VType) : Nat := 8 * ty.bytes

end Sys2Proof

namespace Sys2Proof.Machine

/-- The mode an RM field selects; none where DYN meets a reserved FRM (R69). -/
def Thread.rounding (t : Thread) : Rm → Option Rm
  | .dyn => match t.frm.toNat with
    | 0 => some .rne
    | 1 => some .rtz
    | 2 => some .rdn
    | 3 => some .rup
    | _ => none
  | m => some m

/-- Apply a float operation to both parts of c64 lanes (R180). -/
def onParts (g : Nat → Nat → Nat × Flags) (x y : Nat) : Nat × Flags :=
  let (r, f1) := g (x % 2 ^ 32) (y % 2 ^ 32)
  let (i, f2) := g (x / 2 ^ 32) (y / 2 ^ 32)
  (r + 2 ^ 32 * i, f1 ||| f2)

/-- A lane operation by type: `fl` on floats, on each part of c64, `int` on integers of n bits. -/
def laneBin (ty : VType) (fl : Fmt → Nat → Nat → Nat × Flags) (int : Nat → Nat → Nat → Nat × Flags) (x y : Nat) :
    Nat × Flags :=
  match ty with
  | .f32 | .bf16 | .f16 => fl ty.fmt x y
  | .c64 => onParts (fl .f32) x y
  | .i8 | .i16 | .i32 | .i64 => int ty.width x y

/-- An integer operation that wraps and raises no flag. -/
def wrapInt (f : Int → Int → Int) (n x y : Nat) : Nat × Flags := (ofInt n (f (sint n x) (sint n y)), 0)
/-- An unsigned operation on n-bit lanes. -/
def natLane (f : Nat → Nat → Nat) (n x y : Nat) : Nat × Flags := (f x y % 2 ^ n, 0)

/-- `vadd` (R180). -/
def laneAdd (ty : VType) : Nat → Nat → Nat × Flags := laneBin ty (fun f => fadd f .rne) (wrapInt (· + ·))
/-- `vsub` (R180). -/
def laneSub (ty : VType) : Nat → Nat → Nat × Flags := laneBin ty (fun f => fsub f .rne) (wrapInt (· - ·))
/-- `vmul` (R180). -/
def laneMul (ty : VType) : Nat → Nat → Nat × Flags := laneBin ty (fun f => fmul f .rne) (wrapInt (· * ·))
/-- `vmax`, signed (R180, R182). -/
def laneMax (ty : VType) : Nat → Nat → Nat × Flags := laneBin ty fmax (wrapInt max)
/-- `vmin`, signed (R180, R182). -/
def laneMin (ty : VType) : Nat → Nat → Nat × Flags := laneBin ty fmin (wrapInt min)
/-- Unsigned `vmax` (R180). -/
def laneMaxU (ty : VType) : Nat → Nat → Nat × Flags := natLane max ty.width
/-- Unsigned `vmin` (R180). -/
def laneMinU (ty : VType) : Nat → Nat → Nat × Flags := natLane min ty.width
/-- `vneg` (R180, R181). -/
def laneNeg (ty : VType) (x : Nat) : Nat × Flags :=
  laneBin ty (fun f x _ => fsign f (!·) x) (wrapInt fun x _ => -x) x 0
/-- `vabs` (R180, R181). -/
def laneAbs (ty : VType) (x : Nat) : Nat × Flags :=
  laneBin ty (fun f x _ => fsign f (fun _ => false) x) (wrapInt fun x _ => (x.natAbs : Int)) x 0
/-- `vshl` (R180). -/
def laneShl (ty : VType) : Nat → Nat → Nat × Flags := natLane (fun x y => x * 2 ^ (y % ty.width)) ty.width
/-- `vshr` (R180). -/
def laneShr (ty : VType) : Nat → Nat → Nat × Flags := natLane (fun x y => x / 2 ^ (y % ty.width)) ty.width
/-- `vsar` (R180). -/
def laneSar (ty : VType) (x y : Nat) : Nat × Flags :=
  (ofInt ty.width (sint ty.width x / (2 ^ (y % ty.width) : Nat)), 0)
/-- `vdiv` (R180). -/
def laneDiv (ty : VType) : Nat → Nat → Nat × Flags := fdiv ty.fmt .rne
/-- `vsqrt` (R180). -/
def laneSqrt (ty : VType) : Nat → Nat × Flags := fsqrt ty.fmt .rne
/-- `vconj` (R180, R181): a NaN in either part becomes canonical. -/
def laneConj (x : Nat) : Nat × Flags :=
  let (r, f1) := fsign .f32 id (x % 2 ^ 32)
  let (i, f2) := fsign .f32 (!·) (x / 2 ^ 32)
  (r + 2 ^ 32 * i, f1 ||| f2)
/-- `vadds` (R180). -/
def laneAdds (ty : VType) (x y : Nat) : Nat × Flags := satInt ty.width (sint ty.width x + sint ty.width y)
/-- `vsubs` (R180). -/
def laneSubs (ty : VType) (x y : Nat) : Nat × Flags := satInt ty.width (sint ty.width x - sint ty.width y)
/-- The four fused forms (R185, R186). -/
def laneFma (ty : VType) (rm : Rm) (negProd negAdd : Bool) (x y z : Nat) : Nat × Flags :=
  match ty with
  | .c64 => cmac x y z
  | _ => ffma ty.fmt rm negProd negAdd x y z

/-- Equality of lanes and its flag (R188). -/
def laneEq (ty : VType) (x y : Nat) : Bool × Flags :=
  match ty with
  | .f32 | .bf16 | .f16 => ((ty.fmt.num x).eq (ty.fmt.num y), snanFlag ty.fmt [x, y])
  | .c64 =>
    let f := Fmt.f32
    ((f.num (x % 2 ^ 32)).eq (f.num (y % 2 ^ 32)) && (f.num (x / 2 ^ 32)).eq (f.num (y / 2 ^ 32)),
      snanFlag f [x % 2 ^ 32, y % 2 ^ 32, x / 2 ^ 32, y / 2 ^ 32])
  | .i8 | .i16 | .i32 | .i64 => (decide (x = y), 0)

/-- NV when either operand is any NaN (R188). -/
def nanFlag (f : Fmt) (x y : Nat) : Flags := Flags.when (f.num x == .nan || f.num y == .nan) .nv

/-- Signed or float less-than, or less-or-equal (R188). -/
def laneLt (ty : VType) (orEq : Bool) (x y : Nat) : Bool × Flags :=
  match ty with
  | .i8 | .i16 | .i32 | .i64 =>
    (decide (sint ty.width x < sint ty.width y) || (orEq && decide (x = y)), 0)
  | .f32 | .bf16 | .f16 | .c64 =>
    let a := ty.fmt.num x
    let b := ty.fmt.num y
    (a.lt b || (orEq && a.eq b), nanFlag ty.fmt x y)

/-- Unordered (R188). -/
def laneUn (ty : VType) (x y : Nat) : Bool × Flags :=
  (ty.fmt.num x == .nan || ty.fmt.num y == .nan, snanFlag ty.fmt [x, y])

/-- Conversion of one lane (R191). -/
def laneCvt (src dst : VType) (rm : Rm) (x : Nat) : Nat × Flags :=
  match src.isInt, dst.isInt with
  | false, false => fconv src.fmt dst.fmt rm x
  | false, true => floatToInt src.fmt dst.width rm x
  | true, false => intToFloat dst.fmt src.width rm x
  | true, true =>
    if src.width < dst.width then (ofInt dst.width (sint src.width x), 0) else satInt dst.width (sint src.width x)

end Sys2Proof.Machine
end

