-- ==== Sys2Proof/Machine/Group.lean ====
section
/-! DEFINITION. Groups and agreed branches (R43-R47, R240-R257, R441-R444). -/

namespace Sys2Proof.Machine

/-- A membership of a context. -/
def Thread.mem (t : Thread) (k : Nat) : Memb := tget Memb.none t.memb k

/-- Change a membership. -/
def Thread.setMem (t : Thread) (k : Nat) (m : Memb) : Thread := { t with memb := tset t.memb k m }

/-- TVAL of GROUP (R242). -/
def groupVal (sub slot : Nat) : Word := BitVec.ofNat 64 (sub * 2 ^ 56 + slot)

/-- An instruction of the GROUP major; it carries no predicate. -/
def groupHead (i : Instr) (path : PathRule) (uses defs : List RName) : Head := ⟨i, 0, false, false, path, uses, defs⟩

/-! ## Joining -/

/-- Find a group. -/
def State.group (s : State) (gid : BitVec 48) : Option Group := s.groups.find? fun g => g.gid == gid

/-- Replace or drop a group; with it go its agreements when it is dropped. -/
def State.setGroup (s : State) (gid : BitVec 48) (g : Option Group) : State :=
  match g with
  | some g => { s with groups := s.groups.map fun h => if h.gid = gid then g else h }
  | none => { s with groups := s.groups.filter (fun h => h.gid != gid),
                     agreements := s.agreements.filter (fun a => a.gid != gid) }

/-- The fields of a join descriptor (R241). -/
structure JoinDesc where
  ok     : Bool
  rooted : Bool
  absok  : Bool
  count  : Nat
  index  : Nat
  deriving DecidableEq, Repr

/-- Read a join descriptor. -/
def JoinDesc.of (b : Word) : JoinDesc :=
  let v := b.toNat
  { ok := bits v 63 50 == 0 && bits v 47 24 != 0 && decide (bits v 23 0 < bits v 47 24)
    rooted := bits v 49 49 == 1, absok := bits v 48 48 == 1, count := bits v 47 24, index := bits v 23 0 }

/-- A membership as a completed join leaves it (R241). -/
def JoinDesc.memb (d : JoinDesc) (gid : BitVec 48) (note : Option (BitVec 8)) : Memb :=
  { Memb.none with
      valid := true, absok := d.absok, rooted := d.rooted, count := BitVec.ofNat 24 d.count
      index := BitVec.ofNat 24 d.index, gid := gid, note := note }

/-- Groups for which this module holds combining state: those with members here that are not dissolved (R444). -/
def State.combining (s : State) : Nat :=
  (s.groups.filter fun g => g.placed && !g.dissolved && !g.joins.isEmpty).length

/-- Has a member index joined a group, here or on another module? -/
def Group.holds (g : Group) (index : Nat) : Bool := (g.joins.any fun j => j.index == index) || g.others.any fun o => o.1 == index

/-- Have all members joined? -/
def Group.full (g : Group) : Bool := g.placed && decide (g.joins.length + g.others.length = g.count)

/-- Give a group that has joiners here its place among the combining states, if there is one (R444): the joins set out, and
the group is complete once every member has joined. -/
def State.place (s : State) (gid : BitVec 48) : State :=
  match s.group gid with
  | none => s
  | some g =>
    if g.placed || g.joins.isEmpty || decide (1024 ≤ s.combining) then s
    else
      let s := s.setGroup gid (some { g with placed := true })
      let s := g.joins.foldl (fun s j => s.send (.join gid j.index g.count g.absok g.rooted)) s
      if { g with placed := true }.full then s.owe (.joined gid) else s

/-- Add a joiner of this module to a group, which its first joiner makes. -/
def State.enrol (s : State) (gid : BitVec 48) (d : JoinDesc) (j : Joiner) : State :=
  match s.group gid with
  | none =>
    let g : Group := ⟨gid, d.count, d.absok, d.rooted, [j], [], false, false, false⟩
    { s with groups := s.groups ++ [g] }.place gid
  | some g =>
    let g' := { g with joins := g.joins ++ [j] }
    let s := s.setGroup gid (some g')
    if !g.placed then s.place gid
    else
      let s := s.send (.join gid d.index d.count d.absok d.rooted)
      if g'.full then s.owe (.joined gid) else s

/-- `gjoin` (R43-R46, R241). A join that ended while its wait was abandoned is answered at the reissue (R277). -/
def execGjoin (slot : BitVec 2) (a b : RegNo) (s : State) : Ans :=
  issue s (groupHead (.gjoin slot a b) .stall [.s a.toNat, .s b.toNat] []) fun s =>
    let k := slot.toNat
    let m := s.th.mem k
    let gid := (s.sv a).setWidth 48
    let d := JoinDesc.of (s.sv b)
    let me : Joiner := ⟨d.index, s.cur, k⟩
    if m.note.isSome && m.gid == gid then
      let s' := s.modTh fun t => t.setMem k (if m.valid then { m with note := none } else Memb.none)
      if m.note = some 0 then .retire s' else .trapIn s' 30 (groupVal ((m.note.getD 0).toNat) k)
    else if m.valid then .trap 30 (groupVal 6 k)
    else if gid = 0 ∨ d.ok = false then .trap 30 (groupVal 1 k)
    else match s.group gid with
      | some g =>
        if g.dissolved then .trap 30 (groupVal 3 k)
        else if g.joins.contains me then .wait (s.place gid) (.join k)
        else if g.complete || g.count != d.count || g.absok != d.absok || g.rooted != d.rooted || g.holds d.index then
          .trap 30 (groupVal 1 k)
        else .wait (s.enrol gid d me) (.join k)
      | none => .wait (s.enrol gid d me) (.join k)

/-- End the join of one joiner: with its membership, or with a GROUP trap of subcode `sub`. -/
def State.endJoin (s : State) (gid : BitVec 48) (g : Group) (sub : Nat) (j : Joiner) : State :=
  let d : JoinDesc := ⟨true, g.rooted, g.absok, g.count, j.index⟩
  let waits := (s.ctx j.tid).state == .waiting && (s.ctx j.tid).wait == some (.join j.slot) && !s.swappedOut j.tid
  if sub = 0 then
    if waits then
      (s.modThread j.tid fun t => t.setMem j.slot (d.memb gid none)).retireOther j.tid
    else s.modCtx j.tid fun t => t.setMem j.slot (d.memb gid (some 0))
  else if waits then s.trap j.tid 30 (groupVal sub j.slot) (s.thread j.tid).pc
  else s.modCtx j.tid fun t => t.setMem j.slot { Memb.none with gid := gid, note := some (BitVec.ofNat 8 sub) }

/-- Does a join of another module conflict with a joiner of a group here (R44)? -/
def joinConflicts (r : RemoteJoin) (g : Group) (index : Nat) : Bool :=
  r.count != g.count || r.absok != g.absok || r.rooted != g.rooted || r.index == index

/-- Joiners here that another module's earlier join has shut out take MISMATCH and wait no longer (R44, R241). -/
def State.loseJoins (s : State) (gid : BitVec 48) (others : List RemoteJoin) (lost : List Nat) : State :=
  match s.group gid with
  | none => s
  | some g =>
    let out := fun j : Joiner => !g.complete && lost.contains j.index && others.any fun r => joinConflicts r g j.index
    let joins := g.joins.filter fun j => !out j
    let s := s.setGroup gid (if joins.isEmpty && g.others.isEmpty then none else some { g with joins := joins })
    (g.joins.filter out).foldl (fun s j => s.endJoin gid g 1 j) s

/-- A join of another module reaches the id: it makes the group, joins it, or conflicts and is refused where it came from. -/
def State.joinOther (s : State) (gid : BitVec 48) (r : RemoteJoin) : State :=
  match s.group gid with
  | none =>
    if r.index < r.count then
      let g : Group := ⟨gid, r.count, r.absok, r.rooted, [], [(r.index, r.peer)], false, false, false⟩
      { s with groups := s.groups ++ [g] }
    else s
  | some g =>
    if g.complete || g.dissolved || r.count != g.count || r.absok != g.absok || r.rooted != g.rooted || g.holds r.index ||
        decide (g.count ≤ r.index) then s
    else s.setGroup gid (some { g with others := g.others ++ [(r.index, r.peer)] })

/-- JOIN_COMPLETE (R43, R44): the joins of other modules that have reached the id, and the joiners here that one of them has
shut out; once every member has joined, the join completes in each member here. -/
def execJoinComplete (gid : BitVec 48) (news : JoinNews) (s : State) : Ans :=
  let s := news.others.foldl (fun s r => s.joinOther gid r) (s.loseJoins gid news.others news.lost)
  match s.group gid with
  | none => .next s
  | some g =>
    if g.complete || g.dissolved || !g.full then .next s
    else
      let s := s.setGroup gid (some { g with complete := true })
      .next (g.joins.foldl (fun s j => s.endJoin gid g 0 j) s)

/-- GROUP_TIMEOUT (R45, R444): the join fails in every waiting joiner, one that waits for a place among them, and the id is
free again. -/
def execGroupTimeout (gid : BitVec 48) (s : State) : Ans :=
  match s.group gid with
  | none => .next s
  | some g =>
    if g.complete then .next s
    else .next (g.joins.foldl (fun s j => s.endJoin gid g 2 j) (s.setGroup gid none))

/-! ## Agreements (R246, R441-R443) -/

/-- The ordinal of the agreement a member has contributed to last. -/
def Memb.last (m : Memb) : Nat := m.ordinal - 1

/-- Find an agreement. -/
def State.agreement (s : State) (gid : BitVec 48) (n : Nat) : Option Agreement :=
  s.agreements.find? fun a => a.gid == gid && a.ordinal == n

/-- Change an agreement. -/
def State.modAgreement (s : State) (gid : BitVec 48) (n : Nat) (f : Agreement → Agreement) : State :=
  { s with agreements := s.agreements.map fun a => if a.gid = gid ∧ a.ordinal = n then f a else a }

/-- Begin an agreement that nothing is known of yet. -/
def State.openAgreement (s : State) (gid : BitVec 48) (n : Nat) : State :=
  match s.agreement gid n with
  | some _ => s
  | none =>
    let a : Agreement := ⟨gid, n, [], [], none⟩
    { s with agreements := s.agreements ++ [a] }

/-- Fold a contribution into an agreement, if its member has not contributed yet. -/
def State.fold (s : State) (gid : BitVec 48) (n : Nat) (c : Contrib) : State :=
  (s.openAgreement gid n).modAgreement gid n fun a =>
    if a.contribs.any fun x => x.index == c.index then a else { a with contribs := a.contribs ++ [c] }

/-- The contributions of an agreement. -/
def State.contribs (s : State) (gid : BitVec 48) (n : Nat) : List Contrib :=
  match s.agreement gid n with
  | none => []
  | some a => a.contribs

/-- The combined value of an agreement (R246). -/
def combined (cs : List Contrib) : Bool :=
  if cs.any fun c => c.any then cs.any fun c => c.value else cs.all fun c => c.value

/-- Do the contributions differ in ANY? -/
def mismatched (cs : List Contrib) : Bool := (cs.any fun c => c.any) && (cs.any fun c => !c.any)

/-- Does a group combine at member 0: it is ROOTED, or a module of one of its members lacks CAP bit 5 (R442; that the path
runs over the members' modules is DEDUCED, log entry 22)? -/
def State.atRoot (s : State) (g : Group) : Bool :=
  g.rooted || g.others.any fun o => !(tget 0 s.peers o.2).getLsbD 5

/-- The module of member 0 of a group that combines there; none where member 0 is here, or no member is elsewhere. -/
def State.rootPeer (s : State) (g : Group) : Option Nat :=
  if s.atRoot g then (g.others.find? fun o => o.1 == 0).map fun o => o.2 else none

/-- Does a member elsewhere stand below this module, so that its contribution is combined here on the way up: where the group
combines at member 0, every one of them at member 0's module and none at another; else as the switch tree stands, which the
spec leaves open (R441, R442; DESIGN CHOICE, log entry 22)? -/
def State.below (s : State) (g : Group) (i : Nat) : Bool :=
  g.others.any (fun o => o.1 == i) &&
    if s.atRoot g then (s.rootPeer g).isNone else Config.agreementBelow g.gid i

/-- Does every member elsewhere stand below, so that the outcome is made here? -/
def State.topOf (s : State) (g : Group) : Bool := g.others.all fun o => s.below g o.1

/-- The next agreement counter of a port (R443). -/
def State.nextAgr (s : State) (port : Nat) : Word × State :=
  let c := tget 0 s.portAgr port + 1
  (c, { s with portAgr := tset s.portAgr port c })

/-- Folded contributions, alike in ANY, leave (R441-R443): to member 0's module by its peer entry's port, for a ROOTED group
encrypted and under its peer key; else up the tree, by a port that the spec leaves open (log entry 22). -/
def State.sendFold (s : State) (g : Group) (n : Nat) (any : Bool) (cs : List Contrib) : State :=
  let members := cs.map fun c => c.index
  match s.rootPeer g with
  | some p =>
    let (ctr, s) := s.nextAgr (s.peerPort p)
    s.send (.agreement (some p) (s.peerPort p) ctr (if g.rooted then s.fabKey p else s.agrKey) g.rooted g.gid n members any
      (combined cs))
  | none =>
    let port := (Config.agreementPort g.gid n).toNat
    let (ctr, s) := s.nextAgr port
    s.send (.agreement none port ctr s.agrKey false g.gid n members any (combined cs))

/-- Contributions leave: folded as one, or where they differ in ANY as one of each kind, so that the mismatch reaches the
other modules (R246, R441; DESIGN CHOICE, log entry 29: R441 gives a packet one ALL or ANY field and does not speak of a
mixed fold). -/
def State.sendAgreement (s : State) (g : Group) (n : Nat) (cs : List Contrib) : State :=
  ([false, true].filter fun any => cs.any fun c => c.any == any).foldl
    (fun s any => s.sendFold g n any (cs.filter fun c => c.any == any)) s

/-- The contributions that go on from here, where some member does not stand below: those of members here one by one toward
member 0; else those of members here and below as one fold, once every one of them has been made (R441, R442). -/
def State.passOn (s : State) (g : Group) (n : Nat) : State :=
  match s.agreement g.gid n with
  | none => s
  | some a =>
    let lower := a.contribs.filter fun c => g.joins.any (fun j => j.index == c.index) || s.below g c.index
    let todo := lower.filter fun c => !a.sent.contains c.index
    let expected := g.joins.length + (g.others.filter fun o => s.below g o.1).length
    if s.topOf g || s.agrStale || todo.isEmpty then s
    else
      let mark := fun (s : State) => s.modAgreement g.gid n fun a => { a with sent := a.sent ++ todo.map fun c => c.index }
      if s.atRoot g then mark (todo.foldl (fun s c => s.sendAgreement g n [c]) s)
      else if lower.length = expected then mark (s.sendAgreement g n todo)
      else s

/-- The outcome goes on to the modules of the members below, each once (R441, R442), under the agreement key and not
encrypted. -/
def State.sendOutcome (s : State) (g : Group) (n : Nat) (v : Option Bool) : State :=
  (((g.others.filter fun o => s.below g o.1).map fun o => o.2).eraseDups).foldl (fun s p =>
    let (ctr, s) := s.nextAgr (s.peerPort p)
    s.send (.outcome p (s.peerPort p) ctr s.agrKey g.gid n v)) s

/-- Forget an agreement once no member here still awaits its outcome. -/
def State.forget (s : State) (g : Group) (n : Nat) : State :=
  if g.joins.any fun j =>
      let m := (s.ctx j.tid).mem j.slot
      m.valid && m.contrib && !m.latch && decide (m.last = n) then s
  else { s with agreements := s.agreements.filter fun a => !(a.gid == g.gid && a.ordinal == n) }

/-- The outcome of an agreement is known: it goes on to the modules below and sets out to each member here. -/
def State.resolveAll (s : State) (g : Group) (n : Nat) (v : Option Bool) : State :=
  let s := (s.sendOutcome g n v).modAgreement g.gid n fun a => { a with out := some v }
  (g.joins.foldl (fun s j => s.owe (.resolve j.tid (BitVec.ofNat 2 j.slot))) s).forget g n

/-- When every member has contributed, the outcome is made here, unless member 0's module makes it. While the agreement key
is stale, an agreement that needs another module waits (R443). -/
def State.settleAgreement (s : State) (g : Group) (n : Nat) : State :=
  match s.agreement g.gid n with
  | none => s
  | some a =>
    if a.out.isSome || (s.rootPeer g).isSome || a.contribs.length != g.count || (s.agrStale && !g.others.isEmpty) then s
    else s.resolveAll g n (if mismatched a.contribs then none else some (combined a.contribs))

/-- Absent members of this module contribute the neutral element: 1 for ALL, 0 for ANY (R244). -/
def State.foldAbsent (s : State) (g : Group) (n : Nat) (any : Bool) : State :=
  g.joins.foldl (fun s j =>
    let m := (s.ctx j.tid).mem j.slot
    if m.valid && m.absent && decide (m.ordinal ≤ n) then s.fold g.gid n ⟨j.index, any, !any⟩ else s) s

/-- What follows from the contributions held: absent members', packets to other modules, the outcome. A module whose members are
all absent holds none until the network tells it that the agreement has begun (DESIGN CHOICE, log entry 29). -/
def State.advanceAgreement (s : State) (g : Group) (n : Nat) : State :=
  let any := (s.contribs g.gid n).any fun c => c.any
  ((s.foldAbsent g n any).passOn g n).settleAgreement g n

/-- An agreement packet of another module arrives: accepted, its counter kept, or dropped and logged (R443, R493). -/
def State.takeAgreement (s : State) (key : Option (BitVec 256)) (h : PktHdr) : Bool × State :=
  if pktPasses h key (tget 0 s.lastAgr (streamOf h)) then (true, { s with lastAgr := tset s.lastAgr (streamOf h) h.ctr })
  else (false, s.logDrop h key)

/-- The key of agreement packets, while it may be used. -/
def State.agreementKey (s : State) : Option (BitVec 256) := if s.agrStale then none else s.agrKey

/-- AGREEMENT_CONTRIBUTION (R246, R441-R443): of members here, or folded contributions of members elsewhere in an
authenticated packet: under the sender's peer key for a ROOTED group, under the agreement key for any other, one unknown
here among them. One of no member says that the agreement, of kind `any`, has begun elsewhere: absent members here then
contribute (R244; DESIGN CHOICE, log entry 29: the spec does not say how a module whose members are all absent learns of it). -/
def execAgreementContribution (gid : BitVec 48) (ordinal : Nat) (members : List Nat) (any value : Bool) (hdr : Option PktHdr)
    (s : State) : Ans :=
  let g := s.group gid
  let fold := fun (s : State) (ms : List Nat) => ms.foldl (fun s i => s.fold gid ordinal ⟨i, any, value⟩) s
  match hdr with
  | none =>
    match g with
    | none => .next s
    | some g =>
      let s := fold s (members.filter fun i => g.joins.any fun j => j.index == i)
      .next ((s.foldAbsent g ordinal any).advanceAgreement g ordinal)
  | some h =>
    let key := if g.any fun g => g.rooted then s.fabKey h.peer else s.agreementKey
    let (ok, s) := s.takeAgreement key h
    match g with
    | none => .next s
    | some g =>
      if !ok then .next s
      else .next ((fold s (members.filter fun i => g.others.any fun o => o.1 == i)).advanceAgreement g ordinal)

/-- `gabsent` (R244): the member is neutral in every agreement it has not contributed to. -/
def execGabsent (slot : BitVec 2) (s : State) : Ans :=
  issue s (groupHead (.gabsent slot) .stall [] []) fun s =>
    let k := slot.toNat
    let m := s.th.mem k
    if !m.valid then .trap 30 (groupVal 5 k)
    else if m.diss then .trap 30 (groupVal 3 k)
    else if !m.absok then .trap 30 (groupVal 4 k)
    else
      let s := s.modTh fun t => t.setMem k { m with absent := true }
      match s.group m.gid with
      | none => .retire s
      | some g =>
        .retire (s.agreements.foldl (fun s a => if a.gid = m.gid then s.advanceAgreement g a.ordinal else s) s)

/-! ## Agreed branches (R245-R248) -/

/-- Go on at one arm: a taken transfer to `target`, or the next instruction. -/
def Thread.arm (t : Thread) (taken : Bool) (target : Word) : Thread :=
  { (if taken then t.jumpTo target else t.seqTo (t.pc + 4)) with
      state := .ready, wait := none, instret := t.instret + 1 }

/-- An agreed branch (R247). -/
def agreedBranch (s : State) (i : Instr) (off : BitVec 11) (hint any : Bool) (bit : BitVec 6) (p : PredNo)
    (slot : BitVec 2) : Ans :=
  issue s (groupHead i .own [] []) fun s =>
    let k := slot.toNat
    let m := s.th.mem k
    let target := s.th.pc + off.signExtend 64 <<< 1
    if s.th.spec.isSome then .stall
    else if !m.valid then .trap 30 (groupVal 5 k)
    else if m.diss then .trap 30 (groupVal 3 k)
    else if m.absent then .trap 30 (groupVal 4 k)
    else if 2 ^ 20 ≤ target.toNat then .trap 1 target
    else if m.contrib then
      if m.mismatch then
        .trapIn (s.modTh fun t => t.setMem k { m with contrib := false, latch := false, mismatch := false }) 30 (groupVal 1 k)
      else if m.latch then
        .done (s.modTh fun t => (t.setMem k { m with contrib := false, latch := false }).arm m.outcome target)
      else .wait s (.agreement k)
    else
      let sp : Spec := ⟨slot, hint, s.th.pc, (if hint then s.th.pc + 4 else target), 0, none, false, s.th.checkpoint⟩
      let s := s.modTh fun t =>
        { (t.setMem k { m with contrib := true, ordinal := m.ordinal + 1 }).arm hint target with spec := some sp }
      .done (s.owe (.contribute m.gid m.ordinal m.index.toNat any ((s.pv p).getLsbD bit.toNat)))

/-- `cbr.all` (R245-R247). -/
def execCbrAll (off : BitVec 11) (hint : Bool) (bit : BitVec 6) (p : PredNo) (slot : BitVec 2) (s : State) : Ans :=
  agreedBranch s (.cbrAll off hint bit p slot) off hint false bit p slot

/-- `cbr.any` (R245-R247). -/
def execCbrAny (off : BitVec 11) (hint : Bool) (bit : BitVec 6) (p : PredNo) (slot : BitVec 2) (s : State) : Ans :=
  agreedBranch s (.cbrAny off hint bit p slot) off hint true bit p slot

/-- An item of a path that has been committed. -/
def PenItem.commit : PenItem → PenItem
  | .store _ st => .store false st
  | .cmd _ id => .cmd false id

/-- The continuation records that commands of a thread in the commit buffer have read (R251). -/
def Core.readRecords (c : Core) (tid : Nat) : List Nat :=
  c.cbuf.filterMap fun b => match b.op with
    | .tile _ _ record => if b.tid = tid then record else none
    | .copy _ _ | .commit => none

/-- A thread whose chain of records loses those that `mresume` has read (R380). -/
def Thread.dropRecords (t : Thread) (read : List Nat) : Thread := { t with chain := t.chain.filter fun x => !read.contains x.1 }

/-- A right prediction (R252, R253): held stores and commands are released, a deferred trap is taken. -/
def State.commit (s : State) (tid : Nat) (sp : Spec) : State :=
  let read := (s.core (tid / 16)).readRecords tid
  let s := s.modThread tid fun t =>
    { t.dropRecords read with
        spec := none
        pen := t.pen.map PenItem.commit
        state := if t.wait = some .path then .ready else t.state
        wait := if t.wait = some .path then none else t.wait }
  let s := { s with flights := s.flights.map fun f => if f.tid = tid then { f with path := false } else f }
  let s := if (s.thread tid).pen.isEmpty then s else s.owe (.drain tid)
  match sp.defer with
  | none => s
  | some (c, v) => s.trap tid c v (s.thread tid).pc

/-- A wrong prediction (R252): the path is discarded and the other arm taken. -/
def State.rollBack (s : State) (tid : Nat) (sp : Spec) : State :=
  (s.discard tid).modThread tid fun t => t.arm (!sp.hint) sp.other

/-- The outcome of an agreement reaches a member (R246, R252-R254): its path is committed or rolled back; one that runs no
path on this membership, running ahead on another perhaps, finds it latched. A mismatch is held in the same way until the
branch issues again, with LATCH 1 and the OUTCOME bit 0 (DESIGN CHOICE, log entry 29: R254 speaks of values only). The member
that takes MISMATCH has CONTRIB 0 afterwards (DESIGN CHOICE, log entry 29: R246 clears it with an outcome). -/
def State.outcome (s : State) (tid : Nat) (slot : BitVec 2) : State :=
  let k := slot.toNat
  let t := s.ctx tid
  let m := t.mem k
  match s.group m.gid, s.agreement m.gid m.last with
  | some g, some a =>
    match a.out with
    | none => s
    | some v =>
      if !m.valid || !m.contrib || m.latch then s
      else
        let latch := s.modCtx tid fun t => t.setMem k { t.mem k with latch := true, outcome := v.getD false, mismatch := v.isNone }
        let done := fun s : State => s.modThread tid fun t => t.setMem k { t.mem k with contrib := false }
        let s := match t.spec with
          | none => latch
          | some sp =>
            if sp.slot ≠ slot ∨ s.swappedOut tid = true then latch
            else match v with
              | none =>
                let s := done (s.discard tid)
                s.trap tid 30 (groupVal 1 k) (s.thread tid).pc
              | some v => if v = sp.hint then done (s.commit tid sp) else done (s.rollBack tid sp)
        s.forget g m.last
  | _, _ => s

/-- AGREEMENT_RESOLUTION (R246, R252-R254, R441, R442): the outcome reaches a member; one that comes from member 0's module, or
down the tree, is authenticated under the agreement key and is for agreement `n` of the member's group. -/
def execAgreementResolution (tid : Nat) (out : Resolution) (s : State) : Ans :=
  match out.packet with
  | none => .next (s.outcome tid out.slot)
  | some (h, n, v) =>
    let (ok, s) := s.takeAgreement s.agreementKey h
    match s.group ((s.ctx tid).mem out.slot.toNat).gid with
    | none => .next s
    | some g =>
      let above := if s.atRoot g then s.rootPeer g == some h.peer else !s.topOf g
      if !ok || !above then .next s
      else
        let s := s.openAgreement g.gid n
        let known := (s.agreement g.gid n).any fun a => a.out.isSome
        .next ((if known then s else s.resolveAll g n v).outcome tid out.slot)

/-- SPEC_LIMIT (R255): a thread has waited too long for the outcome of one agreed branch. -/
def execSpecLimit (tid : Nat) (s : State) : Ans :=
  let t := s.thread tid
  match t.spec, t.state, t.wait with
  | some sp, _, _ =>
    let s := s.discard tid
    .next (s.trap tid 50 (sp.slot.setWidth 64) (s.thread tid).pc)
  | none, .waiting, some (.agreement k) => .next (s.trap tid 50 (BitVec.ofNat 64 k) t.pc)
  | _, _, _ => .next s

/-! ## Leaving and dissolving (R46) -/

/-- Is a context in an agreed branch on a membership, running ahead or waiting for the outcome? -/
def Thread.agreeing (t : Thread) (k : Nat) : Bool :=
  (match t.spec with
    | some sp => sp.slot.toNat == k
    | none => false) || (t.state == .waiting && t.wait == some (.agreement k))

/-- Is a swap of the core started, not complete and still able to move (R407)? One that has diverged never moves (R394), and
after the group's dissolution only the units in flight do (R402). -/
def Yard.busy (y : Yard) : Bool :=
  y.div.isNone && match y.moving with
    | some m => !y.dead || decide (0 < m.inflight)
    | none => !y.dead && !y.trig.isEmpty

/-- Change the yard of a core. -/
def State.modYard (s : State) (c : Nat) (f : Yard → Yard) : State := s.modCore c fun k => { k with yard := f k.yard }

/-- The yard of a member whose group dissolves, wherever it stands (R402). -/
def State.killYard (s : State) (gid : BitVec 48) (tid : Nat) : State :=
  s.modCoreCtx (tid / 16) fun k =>
    if k.yard.cfg && k.yard.gid == gid && k.yard.tid == tid then { k with yard := { k.yard with dead := true } } else k

/-- The dissolution reaches one member: DISS, and the trap in place of a wait on the group. -/
def State.dissolveOne (s : State) (gid : BitVec 48) (g : Group) (j : Joiner) : State :=
  if !g.complete then s.endJoin gid g 3 j
  else
    let agreeing := (s.ctx j.tid).agreeing j.slot && !s.swappedOut j.tid
    let s := (s.killYard gid j.tid).modCtx j.tid fun t => t.setMem j.slot { t.mem j.slot with diss := true }
    if agreeing then
      let s := s.discard j.tid
      s.trap j.tid 30 (groupVal 3 j.slot) (s.thread j.tid).pc
    else s

/-- Keep a group while a member holds its register, here or elsewhere; after the last its id is free (R46). -/
def State.keepGroup (s : State) (g : Group) : State :=
  s.setGroup g.gid (if g.joins.isEmpty && g.others.isEmpty then none else some g)

/-- GROUP_DISSOLVED (R46): a `gleave` has dissolved the group, here or by the members `left` on other modules, whose registers
are invalid. A joiner here that still waits takes DISSOLVED and is no member. An outcome that has already set out reaches its
members first (DEDUCED, log entry 28). -/
def execGroupDissolved (gid : BitVec 48) (left : List Nat) (s : State) : Ans :=
  match s.group gid with
  | none => .next s
  | some g =>
    let others := g.others.filter fun o => !left.contains o.1
    if !g.dissolved && others.length == g.others.length then .next s
    else
      let g' := { g with joins := if g.complete then g.joins else [], others := others, dissolved := true }
      let s := s.keepGroup g'
      let s := g.joins.foldl (fun s j => s.outcome j.tid (BitVec.ofNat 2 j.slot)) s
      .next (g.joins.foldl (fun s j => s.dissolveOne gid g j) s)

/-- Has an access to the yard reached a core that has not performed it or sent it on yet (R396)? It is not refused by
R422: the core's yard ends behind it (DEDUCED, log entry 28). -/
def State.yardArrived (s : State) (core : Nat) : Bool :=
  (s.flights.any fun f => f.elems.any fun e => !e.done && !e.sent && match e.place with
    | .yard c _ _ => c == core
    | _ => false) ||
  s.due.any fun d => match d with
    | .locate (.inside _ _ c _ _ _ _) => c == core
    | _ => false

/-- Does the yard of a context's core end with its membership of slot `k` (R407)? -/
def State.endsYard (s : State) (tid k : Nat) : Bool :=
  let m := (s.thread tid).mem k
  let y := (s.core (tid / 16)).yard
  m.valid && y.cfg && y.gid == m.gid && y.tid == tid

/-- May the yard of a core end now: no swap started, no axis command left, no access that has arrived (R407)? -/
def State.yardDone (s : State) (core : Nat) : Bool :=
  !(s.core core).yard.busy && (s.core core).axisQ.isEmpty && !s.yardArrived core

/-- One membership of a context ends, as `gleave` does (R46, R243). With it ends the member's yard: at once, or as soon
as its swaps and axis commands are done (R407). -/
def State.leave (s : State) (tid k : Nat) : State :=
  let m := (s.thread tid).mem k
  if !m.valid then s
  else
    let ends := s.endsYard tid k
    let s := s.modThread tid fun t => t.setMem k Memb.none
    let s :=
      if !ends then s
      else
        let s := s.killYard m.gid tid
        if s.yardDone (tid / 16) then s.modYard (tid / 16) fun y => { y with cfg := false }
        else s.owe (.yardEnd (tid / 16))
    match s.group m.gid with
    | none => s
    | some g =>
      let s := s.send (.leave m.gid m.index.toNat)
      let s := if g.dissolved then s else s.owe (.dissolved m.gid)
      s.keepGroup { g with joins := g.joins.filter (fun j => !(j.tid == tid && j.slot == k)), dissolved := true }

/-- `gleave` (R46, R243). The one that ends its member's yard waits for the accesses that have arrived there. -/
def execGleave (slot : BitVec 2) (s : State) : Ans :=
  issue s (groupHead (.gleave slot) .stall [] []) fun s =>
    let k := s.core s.here
    if s.endsYard s.cur slot.toNat && !k.yard.busy && k.axisQ.isEmpty && s.yardArrived s.here then .wait s .order
    else .retire (s.leave s.cur slot.toNat)

/-- `ginfo` (R243). -/
def execGinfo (slot : BitVec 2) (d : RegNo) (s : State) : Ans :=
  issue s (groupHead (.ginfo slot d) .stall [] [.s d.toNat]) fun s =>
    let m := s.th.mem slot.toNat
    .retire (s.setS d (if m.valid then m.gid.setWidth 64 else 0))

end Sys2Proof.Machine
end

