-- ==== Sys2Proof/Machine/Records.lean ====
section
/-! DEFINITION. Records, blocks and tables that an instruction reads at issue (R150, R151, R497, R498), and the hardware
loops (R168-R171). -/

namespace Sys2Proof.Machine

/-- How a read at issue ends: the words, a trap, or a wait. -/
inductive Rd where
  | ok (ws : List Nat) (s : State)
  | trap (cause : Nat) (value : Word)
  | wait (w : Wait)

/-- Kinds from which records are read. -/
def AKind.record : AKind → Bool
  | .priv | .mesh | .page .so | .page .rc | .page .un => true
  | .bins | .page .yard | .page .mcast | .page .host => false

/-- May the current thread read bytes at an address and its place now, pen first (R205, R250, R322)? -/
def State.readableNow (s : State) (va : Nat) (p : Place) (n : Nat) : Bool :=
  let e : Elem := ⟨0, va, p, n, 0, [], 0, false, false, none, false⟩
  !s.heldRead p n && !(s.th.pen.any PenItem.holds) && !(e.ownAlias && s.privateWait s.here) &&
  !(s.flights.any fun f => f.tid == s.cur && !f.all && (f.acq || f.isSo || sharesBytes f.elems [e])) &&
  !(s.fabops.any fun o => o.tid == s.cur && o.touches e)

/-- Read `w` aligned bytes at issue, pen first (R250, R251). -/
def State.readUnit (s : State) (va w : Nat) : Rd :=
  match s.check .scalar .load va w with
  | (.bad c sub, _) => .trap c (faultVal va sub)
  | (.sealed g, _) => .trap 31 (BitVec.ofNat 64 g)
  | (.poison, _) => .trap 26 poisonRead
  | (.busy, _) => .wait .walk
  | (.ok k p, s) =>
    if !k.record then .trap 5 (faultVal va 0)
    else if !s.readableNow va p w then .wait .locked
    else
      let laid := penBytes s.th.pen ⟨0, va, p, w, 0, [], 0, false, false, none, false⟩
      let (v, poison, s) := s.readPlace p w
      if poison && decide (laid.length < w) then .trap 26 poisonRead else .ok [overlay laid v] s

/-- Read `n` units of `w` bytes at issue, one after the other: poison of an earlier unit goes before a translation fault of a
later one (DESIGN CHOICE, log entry 29: step 4 of R498 gives no order where a read spans pages). -/
def State.readEach (s : State) (va w : Nat) : Nat → Rd
  | 0 => .ok [] s
  | n + 1 =>
    match s.readUnit va w with
    | .trap c v => .trap c v
    | .wait w => .wait w
    | .ok x s =>
      match State.readEach s (va + w) w n with
      | .trap c v => .trap c v
      | .wait w => .wait w
      | .ok xs s => .ok (x ++ xs) s

/-- The first of `n` units that user code may not read, because it lies in local memory below that core's XBOUND (R146). -/
def State.shutOut (s : State) (va w n : Nat) : Option Nat :=
  if !s.user then none
  else ((List.range n).map fun k => va + w * k).find? fun a =>
    !isTranslated a && match (s.translate s.here true .load a).1 with
      | .ok t => s.belowXbound t.place
      | .fault _ _ | .poison | .busy => false

/-- Read `n` units of `w` bytes at issue: XBOUND is checked for all of them before the first is read (R498, steps 3 and 4). -/
def State.readUnits (s : State) (va w n : Nat) : Rd :=
  match s.shutOut va w n with
  | some a => .trap 5 (faultVal a 0)
  | none => s.readEach va w n

/-- Read `n` aligned doublewords at issue. -/
def State.readWords (s : State) (va n : Nat) : Rd := s.readUnits va 8 n

/-- SHAPE with a value. -/
def shapeTrap (v : Nat) : Nat × Word := (25, BitVec.ofNat 64 v)

/-- Does a record of `n` bytes lie wholly in the private alias? -/
def inPrivate (a n : Nat) : Bool := decide (a + n ≤ privTop)

/-- Read a shape record's six words by R151. -/
def Shape.of (ws : List Nat) : Option Shape :=
  let w0 := ws.getD 0 0
  let rank := bits w0 55 52
  let elog := bits w0 51 48
  let base := bits w0 47 0
  let dims := (List.range 4).map fun i => ws.getD (i + 1) 0
  let st := dims.map fun d => sint 32 (bits d 63 32)
  if bits w0 63 56 ≠ 0 ∨ ws.getD 5 0 ≠ 0 ∨ rank = 0 ∨ 4 < rank ∨ 8 < elog ∨ base % 2 ^ elog ≠ 0 then none
  else if (st.take rank).any fun x => x % (2 ^ elog : Nat) != 0 then none
  else if (dims.drop rank).any fun d => d != 0 then none
  else some ⟨rank, elog, base, dims.map fun d => bits d 31 0, st⟩

/-- How the read of a shape record ends. -/
inductive ShapeRd where
  | ok (r : Shape) (s : State)
  | trap (cause : Nat) (value : Word)
  | wait (w : Wait)

/-- Read and check one shape record in the private alias, in the order of R498. -/
def State.readShape (s : State) (a : Nat) : ShapeRd :=
  if a % 8 ≠ 0 ∨ inPrivate a 48 = false then .trap 25 (BitVec.ofNat 64 a)
  else match s.readWords a 6 with
    | .trap c v => .trap c v
    | .wait w => .wait w
    | .ok ws s => match Shape.of ws with
      | none => .trap 25 (BitVec.ofNat 64 a)
      | some r => .ok r s

/-! ## Hardware loops -/

/-- The innermost of `n` loop-stack entries pushed in the current mode. -/
def Thread.innermost (t : Thread) : Nat → Option LoopEntry
  | 0 => none
  | n + 1 => if (t.loop n).sup = t.ts.sup then some (t.loop n) else Thread.innermost t n

/-- Bits 19:1 of a word: a halfword address. -/
def halfword (v : Word) : Word := v &&& 0xFFFFE

/-- Start a loop of `c` passes over `len` halfwords; `dest` receives the count (R170). LBEG and LEND hold bits 19:1 of an
address (R140), so an end at 2^20 wraps to zero (DESIGN CHOICE, log entry 29). -/
def loopAct (s : State) (i : Instr) (len : BitVec 10) (c : Nat) (dest : Option RegNo) : Act :=
  let t := s.th
  let first := t.pc + 4
  let last := first + len.setWidth 64 <<< 1
  let outside := match t.innermost t.ldep with
    | none => false
    | some e => decide (e.lend < last)
  if outside then .trap 2 (bitsVal i)
  else if 0 < c ∧ 4 ≤ t.ldep then .trap 2 (bitsVal i)
  else
    let s := match dest with
      | none => s
      | some d => s.setS d (BitVec.ofNat 64 c)
    if c = 0 then .skip s last
    else .skip (s.modTh fun t =>
      { t with loops := tset t.loops t.ldep ⟨halfword first, halfword last, BitVec.ofNat 32 c, t.ts.sup⟩, ldep := t.ldep + 1 }) first

/-- `loopi` (R168, R170). -/
def execLoopi (len : BitVec 10) (count : BitVec 15) (s : State) : Ans :=
  issue s ⟨.loopi len count, 0, false, false, .issue, [], []⟩ fun s => loopAct s (.loopi len count) len count.toNat none

/-- `loops` (R169, R170). On a run-ahead path it stalls, as a load does, while the thread holds a buffered command that may write
memory (R249; DESIGN CHOICE, log entry 29: R156 and the first row of R249 let loop instructions issue, the row for loads
stalls every read). -/
def execLoops (len : BitVec 10) (dim : BitVec 2) (d a : RegNo) (s : State) : Ans :=
  issue s ⟨.loops len dim d a, 0, false, false, .own, [.s a.toNat], [.s d.toNat]⟩ fun s =>
    if s.th.spec.isSome && s.bufferWrites s.cur then .stall
    else match s.readShape (s.sv a).toNat with
      | .trap c v => .trap c v
      | .wait w => .wait s w
      | .ok r s' =>
        if r.rank ≤ dim.toNat then .trap 25 (s.sv a)
        else loopAct s' (.loops len dim d a) len (r.n.getD dim.toNat 0) (some d)

end Sys2Proof.Machine
end

