-- ==== Sys2Proof/Machine/Yard.lean ====
section
/-! DEFINITION. The yard and the shunter (R382-R411): the bit map, swaps and their order, the exchange behind the
frontier, the location of an element, and the yard instructions. -/

namespace Sys2Proof.Machine

/-! ## The bit map (R86, R388-R391) -/

/-- Exchange positions r and l in a map (R408). -/
def swapAt (m : List Nat) (r l : Nat) : List Nat := m.map fun x => if x = r then l else if x = l then r else x

/-! ## Accesses to the yard (R396, R397) -/

/-- A thread's element leaves for another module, or is refused where that is out of reach (R203, R401). -/
def State.yardAway (s : State) (f : Flight) (e : Elem) (core i sub : Nat) : State :=
  if !s.inOrder f e.part then s.owe (.locate (.own f.id e.part))
  else if !s.reaches (peerOf core) then s.afterPerform (f.setPart e.part fun e => e.answered (.refused 3))
  else
    let store := match f.kind with
      | .store => some (BitVec.ofNat 64 e.data, false)
      | _ => none
    (s.setFlight (f.setPart e.part fun e => { e with sent := true, place := .yard core i sub })).sendTo (peerOf core)
      (.yardAccess s.ident.toNat (requestId f.id e.part) (core % 2048) i sub e.w store)

/-- One hop of a thread's access. -/
def State.forwardOwn (s : State) (id k : Nat) : State :=
  match s.flight id with
  | none => s
  | some f =>
    match f.elems.find? fun e => e.part == k && !e.done && !e.sent with
    | none => s
    | some e =>
      let again := s.owe (.locate (.own id k))
      match e.place with
      | .yard c i sub =>
        if 2048 ≤ c then s.yardAway f e c i sub
        else match s.hop c i with
          | .wait => again
          | .denied =>
            if !s.inOrder f k then again else s.afterPerform (f.setPart k fun e => e.answered (.refused 2))
          | .to c' =>
            if 2048 ≤ c' then s.yardAway f e c' i sub
            else (s.setFlight (f.setPart k fun e => { e with place := .yard c' i sub })).owe (.locate (.own id k))
          | .here pa =>
            if !s.inOrder f k || s.elemHeld f.kind { e with place := .line c pa 0 } then again
            else
              let (e', s) := s.perform f.kind { e with place := .line c (pa + sub) 0 }
              s.afterPerform (f.setPart k fun _ => { e' with place := e.place })
      | _ => s

/-- Is an access that another module has sent here held at its place? One that a copy of this module itself has sent out and that
has come back waits for older owners only, as the copy does (R323, R336). -/
def State.reqHeld (s : State) (origin reqId : Nat) (p : Place) (w : Nat) (write : Bool) : Bool :=
  if origin = s.ident.toNat ∧ (s.askedOf (reqId / 64)).isSome then
    s.heldBy (fun a => decide (a < reqId / 64)) write p w || (write && s.noWay p (reqId / 64))
  else s.heldBy (fun _ => true) write p w

/-- The answer to a yard access sets out for the module that made it; the poison code travels with an element (R12). -/
def State.answerYard (s : State) (origin reqId : Nat) (r : FabResp) : State :=
  if origin = s.ident.toNat then s.takeAnswer reqId r else s.sendTo origin (.yardReply reqId r)

/-- One hop of an access that another module has sent. -/
def State.forwardIn (s : State) (origin reqId core i sub w : Nat) (store : Option (Word × Bool)) : State :=
  let at_ := fun c => s.owe (.locate (.inside origin reqId c i sub w store))
  match s.hop core i with
  | .wait => at_ core
  | .denied => s.answerYard origin reqId (.refused 2)
  | .to c =>
    if c < 2048 then at_ c
    else if s.reaches (peerOf c) then s.sendTo (peerOf c) (.yardAccess origin reqId (c % 2048) i sub w store)
    else s.answerYard origin reqId (.refused 3)
  | .here pa =>
    let p : Place := .line core (pa + sub) 0
    if s.reqHeld origin reqId p w store.isSome then at_ core
    else match store with
      | some (v, poison) =>
        (if poison then s.markPlace p true else s.writePlace p w v.toNat).answerYard origin reqId (.ok [])
      | none =>
        let (v, poison, s) := s.readPlace p w
        s.answerYard origin reqId (.ok [(BitVec.ofNat 64 v, poison)])

/-- YARD_ACCESS_FORWARD (R396, R397): an access that has reached a core is located there, and performed or sent on. One in
a packet of another module is authenticated first (R428). -/
def execYardAccessForward (req : YardReq) (s : State) : Ans :=
  match req with
  | .own id k => .next (s.forwardOwn id k)
  | .incoming h origin reqId core i sub w store =>
    let (ok, s) := s.takeFrom h.peer 1 [h]
    .next (if ok then s.forwardIn origin reqId core i sub w store else s)
  | .inside origin reqId core i sub w store => .next (s.forwardIn origin reqId core i sub w store)

/-! ## Swaps (R389-R395) -/

/-- The digest of a member's record and table (R394). -/
def Yard.digest (y : Yard) : Nat := Config.digest (y.recWords.map (·.toNat) ++ y.members.map (·.toNat))

/-- Let the oldest triggered swap of a core begin to move, if none is moving and every earlier axis command is done
(R392, R412). -/
def State.advance (s : State) (c : Nat) : State :=
  let y := (s.core c).yard
  match y.moving, y.trig with
  | none, sw :: rest =>
    if y.dead || (s.core c).axisQ.any fun a => decide (a.ser < sw.ser) then s
    else
      let s := s.modYard c fun y =>
        { y with moving := some ⟨sw, false, 0, 0, 0, 0⟩, place := swapAt y.place sw.r sw.l, trig := rest }
      let p := s.memberCore y (y.partner sw.r)
      let s := if p < 2048 then s
        else s.sendTo (peerOf p) (.handshake (p % 2048) sw.gen sw.r sw.l y.digest)
      s.owe (.handshake c)
  | _, _ => s

/-- Record a swap of positions r and l (R390); it stamps l (R393). -/
def Yard.record (y : Yard) (r l : Nat) : Yard :=
  { y with map := swapAt y.map r l, gen := y.gen + 1, stamps := tset y.stamps l y.count }

/-- Trigger every pending swap (R392); `ser` is a serial number of the core's stream. -/
def Yard.startAll (y : Yard) (ser : Nat) : Yard :=
  { y with trig := y.trig ++ y.pend.map fun w => { w with ser := ser }, pend := [] }

/-- The victim for a remote bit when an instruction names the bits `named` (R393). -/
def Yard.victim (y : Yard) (named : List Nat) : Option Nat :=
  let free := (List.range y.l).filter fun l => decide (y.unitBit ≤ l) && !(named.any fun b => y.map.getD b 0 == l)
  free.foldl (fun best l => match best with
    | none => some l
    | some m => if tget 0 y.stamps l ≤ tget 0 y.stamps m then some l else some m) none

/-- Record one swap for each named bit whose position is remote, in order (R392, R393); none where no victim is found. -/
def Yard.bring (y : Yard) (named : List Nat) (ser : Nat) : List Nat → Option Yard
  | [] => some y
  | b :: bs =>
    let r := y.map.getD b 0
    if r < y.l then Yard.bring y named ser bs
    else match y.victim named with
      | none => none
      | some l =>
        let y' := y.record r l
        Yard.bring { y' with trig := y'.trig ++ [⟨r, l, y'.gen, ser⟩] } named ser bs

/-- The map without the pending swaps. -/
def Yard.settled (y : Yard) : List Nat := y.trig.foldl (fun m w => swapAt m w.r w.l) y.place

/-- Does naming a bit start movement: its newest position is remote or rests on a pending swap (R392)? -/
def Yard.triggers (y : Yard) (b : Nat) : Bool :=
  decide (y.l ≤ y.map.getD b 0) || y.map.getD b 0 != y.settled.getD b 0

/-- What an instruction that names bits does to the yard (R392, R393): with `always`, or where a bit triggers, every
pending swap starts and each remote bit gets a swap; then the positions of the named bits are stamped. -/
def Yard.name (y : Yard) (always : Bool) (named : List Nat) (ser : Nat) : Option Yard :=
  let y := { y with count := y.count + 1 }
  let moved := if always || named.any y.triggers then (y.startAll ser).bring named ser named else some y
  moved.map fun y => { y with stamps := named.foldl (fun st b => tset st (y.map.getD b 0) y.count) y.stamps }

/-- MAP_DIVERGE strikes a member (R394): TVAL holds the partner's generation over its own; the axis commands behind the
swap are discarded (R419). -/
def State.diverge (s : State) (c : Nat) (theirs own : BitVec 48) : State :=
  let v := BitVec.ofNat 64 (theirs.toNat % 2 ^ 32 * 2 ^ 32 + own.toNat % 2 ^ 32)
  let tid := (s.core c).yard.tid
  let s := s.modCore c fun k => { k with axisQ := [], yard := { k.yard with div := some v } }
  s.modThread tid fun t => { t with diverge := some v }

/-- Change the moving swap of a core. -/
def State.modMoving (s : State) (c : Nat) (f : Moving → Moving) : State :=
  s.modYard c fun y => { y with moving := y.moving.map f }

/-- A partner on this module is asked for its generation, swap and digest; one that still moves an earlier swap with a third
member is waited for (DEDUCED, log entry 28). -/
def State.shakeHere (s : State) (core : Nat) (y : Yard) (m : Moving) (c : Nat) : State :=
  let shake := fun (s : State) (k : Nat) => s.modMoving k fun m => { m with shook := true }
  let z := (s.core c).yard
  match z.moving with
  | none => s.owe (.handshake core)
  | some n =>
    if !z.cfg || z.gid != y.gid || n.shook || z.div.isSome || (n.sw.r != m.sw.r && n.sw.gen != m.sw.gen) then
      s.owe (.handshake core)
    else if m.sw.gen = n.sw.gen ∧ m.sw.r = n.sw.r ∧ m.sw.l = n.sw.l ∧ y.digest = z.digest then
      (shake (shake s core) c).owe (.unitStart core)
    else (s.diverge core n.sw.gen m.sw.gen).diverge c m.sw.gen n.sw.gen

/-- SWAP_HANDSHAKE (R394): partners compare the generation, the swap and the digests. A partner on another module sends its own
in a packet, which waits here, once it has passed the checks of R428, until the swap has started. -/
def execSwapHandshake (core : Nat) (partner : Option (PktHdr × BitVec 48 × Nat × Nat × Nat)) (s : State) : Ans :=
  let y := (s.core core).yard
  let pass := match partner with
    | none => (true, s)
    | some (h, _) => s.takeHeld h.peer 1 [h]
  let wait := match partner with
    | none => s
    | some (h, _) => pass.2.holdBack [h]
  if !pass.1 then .next pass.2
  else match y.moving with
    | none => .next wait
    | some m =>
      let c := s.memberCore y (y.partner m.sw.r)
      if m.shook then .next wait
      else if y.div.isSome || y.dead then .next pass.2
      else match partner with
        | none => .next (if c < 2048 then s.shakeHere core y m c else s)
        | some (h, gen, r, l, digest) =>
          if c < 2048 ∨ h.peer ≠ peerOf c then .next pass.2
          else if m.sw.gen = gen ∧ m.sw.r = r ∧ m.sw.l = l ∧ y.digest = digest then
            .next ((pass.2.modMoving core fun m => { m with shook := true }).owe (.unitStart core))
          else .next (pass.2.diverge core gen m.sw.gen)

/-! ## Units (R395, R399, R402) -/

/-- Read `n` doublewords of a stripe line by line, with their poison. -/
def State.readRun (s : State) (c a : Nat) : Nat → List (Word × Bool) × State
  | 0 => ([], s)
  | n + 1 =>
    let (xs, s) := State.readRun s c a n
    let (v, poison, s) := s.readPlace (.line c (a + 8 * n) 0) 8
    (xs ++ [(BitVec.ofNat 64 v, poison)], s)

/-- Write doublewords of a stripe, poison codes among them. -/
def State.writeRun (s : State) (c a : Nat) : List (Word × Bool) → State
  | [] => s
  | x :: xs =>
    let p : Place := .line c a 0
    State.writeRun (if x.2 then s.markPlace p true else s.writePlace p 8 x.1.toNat) c (a + 8) xs

/-- The doublewords of unit `w` in a member's stripe. -/
def State.readUnitOf (s : State) (c : Nat) (y : Yard) (sw : SwapRec) (w : Nat) : List (Word × Bool) × State :=
  s.readRun c (y.unitAddr sw w) (2 ^ y.u / 8)

/-- Must the shunter wait before it takes unit `w` of the stripe of member core `c`: for an older owner of its lines, or for a
way (R291, R321, R322)? -/
def State.unitOwned (s : State) (c : Nat) (y : Yard) (sw : SwapRec) (w : Nat) : Bool :=
  let a := y.unitAddr sw w / 256 * 256
  let n := (y.unitAddr sw w + 2 ^ y.u - 1) / 256 - a / 256 + 1
  (List.range n).any fun k =>
    let pa := a + 256 * k
    s.heldFor (.hbm c pa 0) 256 sw.ser || s.noWay (.line c pa 0) sw.ser

/-- May the shunter of a core start a unit: it runs, and its group stands (R399, R402)? -/
def State.shunts (s : State) (c : Nat) : Bool := !(s.coreOut c || (s.core c).preempted || (s.core c).yard.dead)

/-- EXCHANGE_UNIT_START (R395, R399, R402): the next unit of a swap takes flight, at most sixteen at a time; toward a partner
whose module is out of reach it waits at the frontier. -/
def execExchangeUnitStart (core : Nat) (s : State) : Ans :=
  let y := (s.coreCtx core).yard
  match y.moving with
  | none => .next s
  | some m =>
    let c := s.memberCore y (y.partner m.sw.r)
    let w := m.f + m.inflight
    if !m.shook || decide (y.units ≤ w) || y.dead || (decide (c < 2048) && (s.coreCtx c).yard.dead) then .next s
    else if 16 ≤ m.inflight ∨ s.shunts core = false ∨ (c < 2048 ∧ s.shunts c = false) ∨
        (2048 ≤ c ∧ s.reaches (peerOf c) = false) ∨
        s.unitOwned core y m.sw w = true ∨ (c < 2048 ∧ s.unitOwned c (s.coreCtx c).yard m.sw w = true) then
      .next (s.owe (.unitStart core))
    else
      let up := fun m : Moving => { m with inflight := m.inflight + 1 }
      let s' := s.modMoving core up
      if c < 2048 then .next (((s'.modMoving c up).owe (.unitDone core)).owe (.unitStart core))
      else
        let (xs, s') := s'.readUnitOf core y m.sw w
        let s' := (packetParts (y.unitAddr m.sw w) xs).foldl
          (fun s x => s.sendTo (peerOf c) (.unit (c % 2048) w x.1 x.2)) s'
        .next (s'.owe (.unitStart core))

/-- The frontier of a member passes a unit; a swap whose last unit this was is over. -/
def State.passUnit (s : State) (c : Nat) : State :=
  let y := (s.core c).yard
  match y.moving with
  | none => s
  | some m =>
    if m.f + 1 = y.units then (s.modYard c fun y => { y with moving := none }).advance c
    else s.modMoving c fun m => { m with f := m.f + 1, inflight := m.inflight - 1 }

/-- Bytes as doublewords, of which those of the numbers `bad` hold the poison code. -/
def asWords (data : List Byte) (bad : List Nat) : List (Word × Bool) :=
  (List.range (data.length / 8)).map fun i =>
    (BitVec.ofNat 64 (((data.drop (8 * i)).take 8).foldr (fun b v => b.toNat + 256 * v) 0), bad.contains i)

/-- The frontier of a member whose partner is on another module passes every unit that has been written here and that the partner
has acknowledged (R395); at most `n` of them. -/
def State.passBoth (s : State) (c : Nat) : Nat → State
  | 0 => s
  | n + 1 =>
    match (s.core c).yard.moving with
    | some m =>
      if 0 < m.got ∧ 0 < m.acked then
        State.passBoth ((s.modMoving c fun m => { m with got := m.got - 1, acked := m.acked - 1 }).passUnit c) c n
      else s
    | none => s

/-- Unit F of a swap of partners on this module is written at both, and both frontiers advance (R395). -/
def State.exchangeUnit (s : State) (core : Nat) (y : Yard) (m : Moving) (c : Nat) : State :=
  let z := (s.core c).yard
  let (xs, s) := s.readUnitOf core y m.sw m.f
  let (ys, s) := s.readUnitOf c z m.sw m.f
  (((s.writeRun core (y.unitAddr m.sw m.f) ys).writeRun c (z.unitAddr m.sw m.f) xs).passUnit core).passUnit c

/-- The next unit of a partner on another module is written here and acknowledged (R395). -/
def State.takeUnit (s : State) (core : Nat) (y : Yard) (m : Moving) (c : Nat) (xs : List Dword) : State :=
  let w := m.f + m.got
  let s := (s.writeRun core (y.unitAddr m.sw w) xs).modMoving core fun m => { m with got := m.got + 1 }
  (s.sendTo (peerOf c) (.unitAck (c % 2048) w)).passBoth core 16

/-- EXCHANGE_UNIT_COMPLETE (R395): of partners on this module unit F is written at both, both frontiers advance, and the lines
are released. A partner on another module sends its units in order, in packets that wait here, once they have passed the
checks of R428, until the unit is in flight; each is written and acknowledged, and the frontier passes a unit, whose
lines are released then, once the partner has acknowledged it too. -/
def execExchangeUnitComplete (core : Nat) (step : UnitStep) (s : State) : Ans :=
  let y := (s.core core).yard
  let whole := packets 0 (2 ^ y.u / 8)
  let from_ := match step with
    | .own => none
    | .data hs _ _ => senderOf hs
    | .ack h => some h.peer
  let pass := match step with
    | .own => (true, s)
    | .data hs _ _ => s.takeHeld (from_.getD 0) whole hs
    | .ack h => s.takeFrom h.peer 1 [h]
  let wait := match step with
    | .own | .ack _ => pass.2
    | .data hs _ _ => pass.2.holdBack hs
  if !pass.1 then .next pass.2
  else match y.moving with
    | none => .next wait
    | some m =>
      let c := s.memberCore y (y.partner m.sw.r)
      let near := decide (c < 2048)
      if m.inflight = 0 then .next wait
      else match step with
        | .own => .next (if near then State.freed s (s.exchangeUnit core y m c) else s)
        | .data _ bytes bad =>
          if near || from_ != some (peerOf c) || bytes.length != 2 ^ y.u then .next pass.2
          else if m.inflight ≤ m.got then .next wait
          else .next (State.freed s (pass.2.takeUnit core y m c (asWords bytes bad)))
        | .ack _ =>
          if near || from_ != some (peerOf c) || decide (m.inflight ≤ m.acked) then .next pass.2
          else .next (State.freed s ((pass.2.modMoving core fun m => { m with acked := m.acked + 1 }).passBoth core 16))

/-- Does a thread hold a membership of a group, and in which slot? -/
def Thread.memberOf (t : Thread) (gid : BitVec 48) : Option Nat :=
  (List.range 4).find? fun k => (t.mem k).valid && (t.mem k).gid == gid

/-- YARD_END (R407): the member's membership is gone, and its swaps and commands are done. A new membership of the same id
keeps no yard of the old one. -/
def execYardEnd (core : Nat) (s : State) : Ans :=
  let k := s.core core
  if !k.yard.cfg || !k.yard.dead then .next s
  else if !s.yardDone core then .next (s.owe (.yardEnd core))
  else .next (s.modYard core fun y => { y with cfg := false })

/-! ## The yard instructions (R403-R411) -/

/-- An instruction of the YARD major. -/
def yardHead (i : Instr) (uses defs : List RName) : Head := ⟨i, 0, false, false, .stall, uses, defs⟩

/-- The checks of a yard instruction other than `ycfg` (R404, orders 2 to 4). -/
def yardAct (s : State) (f : Yard → Act) : Act :=
  let y := (s.core s.here).yard
  match s.th.memberOf y.gid with
  | none => .trap 30 (groupVal 5 0)
  | some k =>
    if !y.cfg then .trap 30 (groupVal 5 0)
    else if (s.th.mem k).diss || y.dead then .trap 30 (groupVal 3 k)
    else match y.div with
      | some v => .trap 29 v
      | none => f y

/-- The fields of a yard record (R383). -/
structure YardRec where
  ty    : YType
  u     : Nat
  l     : Nat
  n     : Nat
  gid   : Nat
  wbase : Nat
  mtab  : Nat
  deriving DecidableEq, Repr

/-- Read a yard record's words; none where a reserved field, TYPE or U is refused (R384). -/
def YardRec.of (ws : List Nat) : Option YardRec :=
  let w0 := ws.getD 0 0
  let ty : Option YType := match bits w0 33 32 with
    | 0 => some .c64
    | 1 => some .f32
    | 2 => some .bf16
    | _ => none
  let high := fun k => bits (ws.getD k 0) 63 48 != 0
  match ty with
  | none => none
  | some ty =>
    if bits w0 63 34 ≠ 0 ∨ bits w0 31 29 ≠ 0 ∨ bits w0 23 22 ≠ 0 ∨ bits w0 15 14 ≠ 0 ∨ bits w0 7 0 ≠ 0 ∨
        bits w0 28 24 < 3 ∨ 16 < bits w0 28 24 then none
    else if high 1 || high 2 || high 3 || (ws.drop 4).any (· != 0) then none
    else some
      { ty := ty, u := bits w0 28 24, l := bits w0 21 16, n := bits w0 13 8, gid := ws.getD 1 0
        wbase := ws.getD 2 0, mtab := ws.getD 3 0 }

/-- Does a range of addresses lie in translated space (R278)? -/
def translatedRange (lo n : Nat) : Bool :=
  (decide (privTop ≤ lo) && decide (lo + n ≤ meshBase)) || (decide (reservedTop ≤ lo) && decide (lo + n ≤ 2 ^ 48))

/-- The conditions of R384 on the record alone; `memb` is the issuing thread's membership of GROUP. -/
def YardRec.ok (r : YardRec) (memb : Option Memb) : Bool :=
  let zl := r.ty.log
  decide (1 ≤ r.n) && decide (r.n ≤ 46) && decide (r.l ≤ r.n) && decide (r.n - r.l ≤ 20) && decide (r.l + zl ≤ 36) &&
  decide (zl ≤ r.u) && (decide (r.u - zl + 1 ≤ r.l) || decide (r.l = r.n)) &&
  (match memb with
    | none => false
    | some m => m.count.toNat == 2 ^ (r.n - r.l)) &&
  decide (r.wbase % 2 ^ 16 = 0) && translatedRange r.wbase (2 ^ r.n * 2 ^ zl) && decide (r.mtab % 8 = 0)

/-- A stripe base that R385 allows, for a stripe of `size` bytes (R281). -/
def stripeOk (base size : Nat) : Bool :=
  decide (base % 2 ^ 16 = 0) && decide (base % 2 ^ 37 + size ≤ 0x140000 * 2 ^ 16)

/-- The conditions of R384 on the member table. -/
def tableOk (r : YardRec) (ident core me : Nat) (ws : List Nat) : Bool :=
  ws.all (fun w => stripeOk (bits w 40 0) (2 ^ r.l * 2 ^ r.ty.log)) &&
  decide (ws.getD me 0 / 2 ^ 52 = ident) &&
  decide (coreAt (bits (ws.getD me 0) 51 46) (bits (ws.getD me 0) 45 41) = core) &&
  decide (ws.map (fun w => bits w 63 41)).Nodup

/-- The read of the member table that a record's words name, before the conditions on the words (R384, R498); none where
they give the table no extent or no aligned place (DEDUCED, log entry 28). -/
def readTable (s : State) (ws : List Nat) : Option Rd :=
  let l := bits (ws.getD 0 0) 21 16
  let n := bits (ws.getD 0 0) 13 8
  let mtab := bits (ws.getD 3 0) 47 0
  if n < l ∨ 20 < n - l ∨ mtab % 8 ≠ 0 then none else some (s.readWords mtab (2 ^ (n - l)))

/-- `ycfg` (R407). -/
def execYcfg (a : RegNo) (s : State) : Ans :=
  issue s (yardHead (.ycfg a) [.s a.toNat] []) fun s =>
    let k := s.core s.here
    let va := (s.sv a).toNat
    if k.yard.busy || !k.axisQ.isEmpty then .wait s .yard
    else if va % 64 ≠ 0 then .trap 25 (s.sv a)
    else match s.readWords va 8 with
      | .trap c v => .trap c v
      | .wait w => .wait s w
      | .ok ws s1 =>
        match readTable s1 ws with
        | none => .trap 25 (s.sv a)
        | some (.trap c v) => .trap c v
        | some (.wait w) => .wait s w
        | some (.ok tab s2) =>
          match YardRec.of ws with
          | none => .trap 25 (s.sv a)
          | some r =>
            let gid := BitVec.ofNat 48 r.gid
            let memb := (s.th.memberOf gid).map s.th.mem
            if !r.ok memb then .trap 25 (s.sv a)
            else
              let me := match memb with
                | none => 0
                | some m => m.index.toNat
              if !tableOk r s.ident.toNat s.here me tab then .trap 25 (s.sv a)
              else .retire (s2.modYard s.here fun y =>
                { y with
                    cfg := true, ty := r.ty, n := r.n, l := r.l, u := r.u, gid := gid, wbase := r.wbase
                    members := tab.map (BitVec.ofNat 64 ·), recWords := ws.map (BitVec.ofNat 64 ·), me := me
                    map := List.range r.n, place := List.range r.n, gen := 0, pend := [], trig := [], moving := none
                    stamps := [], count := 0, tid := s.cur, div := none, dead := false })

/-- `yswap` (R408): the swap is recorded and moves nothing, unless sixteen swaps are pending already. -/
def execYswap (r l : BitVec 6) (s : State) : Ans :=
  issue s (yardHead (.yswap r l) [] []) fun s =>
    yardAct s fun y =>
      let r' := r.toNat
      let l' := l.toNat
      if r' < y.l ∨ y.n ≤ r' ∨ l' < y.unitBit ∨ y.l ≤ l' then .trap 25 (bitsVal (.yswap r l))
      else
        let (ser, s) := s.fresh
        let top := match y.pend.getLast? with
          | none => false
          | some w => w.r == r' && w.l == l'
        if top then .retire (s.modYard s.here fun y => { y.record r' l' with pend := y.pend.dropLast })
        else
          let y1 := match y.pend with
            | [] => y
            | w :: ws => if y.pend.length = 16 then { y with trig := y.trig ++ [{ w with ser := ser }], pend := ws } else y
          let y2 := y1.record r' l'
          .retire ((s.modYard s.here fun _ => { y2 with pend := y2.pend ++ [⟨r', l', y2.gen, 0⟩] }).advance s.here)

/-- `ywant` (R409): every pending swap starts, and each named remote bit gets a swap. -/
def execYwant (two : Bool) (b0 b1 : BitVec 6) (s : State) : Ans :=
  let i := Instr.ywant two b0 b1
  issue s (yardHead i [] []) fun s =>
    yardAct s fun y =>
      let named := if two then [b0.toNat, b1.toNat] else [b0.toNat]
      if named.any (fun b => decide (y.n ≤ b)) || (two && b0 == b1) then .trap 25 (bitsVal i)
      else
        let (ser, s) := s.fresh
        match y.name true named ser with
        | none => .trap 25 (bitsVal i)
        | some y' => .retire ((s.modYard s.here fun _ => y').advance s.here)

/-- `ysync` (R410). -/
def execYsync (s : State) : Ans :=
  issue s (yardHead .ysync [] []) fun s =>
    yardAct s fun _ =>
      let s := if s.th.wait = some .yard then s
        else
          let (ser, s) := s.fresh
          (s.modYard s.here fun y => y.startAll ser).advance s.here
      let k := s.core s.here
      if k.yard.busy || !k.axisQ.isEmpty then .wait s .yard else .retire s

/-- `ygen` (R411). -/
def execYgen (d : RegNo) (s : State) : Ans :=
  issue s (yardHead (.ygen d) [] [.s d.toNat]) fun s =>
    yardAct s fun y => .retire (s.setS d (y.gen.setWidth 64))

end Sys2Proof.Machine
end

