-- ==== Sys2Proof/Machine/Axis.lean ====
section
/-! DEFINITION. The axis instructions and the axis engine (R405, R406, R412-R419). -/

namespace Sys2Proof.Machine

/-! ## Operands (R405) -/

/-- The entries of a packed bit list. -/
def packedBits (v : Nat) : List Nat := (List.range (bits v 63 60)).map fun j => bits v (6 * j + 5) (6 * j)

/-- Are the unused entries and the reserved field zero, the entries in use distinct and below `n`? -/
def packedOk (v n : Nat) : Bool :=
  let cnt := bits v 63 60
  decide (cnt ≤ 8) && decide (bits v 51 48 = 0) && decide (bits v 47 (6 * cnt) = 0 ∨ cnt = 8) &&
  decide (packedBits v).Nodup && (packedBits v).all fun b => decide (b < n)

/-- A bit list that an instruction takes: 1 to `most` bits. -/
def bitList (v n most : Nat) : Option (List Nat) :=
  if packedOk v n && decide (1 ≤ bits v 63 60) && decide (bits v 63 60 ≤ most) && decide (bits v 59 52 = 0) then
    some (packedBits v)
  else none

/-- A control word: its bits and the values they must have. -/
def controlWord (v n : Nat) (list : List Nat) : Option (List Nat × Nat) :=
  if packedOk v n && decide (bits v 59 52 < 2 ^ bits v 63 60) && (packedBits v).all (fun b => !list.contains b) then
    some (packedBits v, bits v 59 52)
  else none

/-- Bytes of a matrix, table or scale entry (R413). -/
def entryBytes : YType → Nat
  | .c64 => 8
  | .f32 | .bf16 => 4

/-- Type code check (R404, order 5), then the instruction's own limits. -/
def axisAct (s : State) (i : Instr) (ty : YType) (f : Yard → Act) : Act :=
  yardAct s fun y => if ty ≠ y.ty then .trap 2 (bitsVal i) else f y

/-- Read an area of `n` entries at `a`, which must be aligned to `al` and lie in the private alias. -/
def axisArea (s : State) (a : Word) (ty : YType) (al n : Nat) (f : List Nat → State → Act) : Act :=
  if a.toNat % al ≠ 0 ∨ inPrivate a.toNat (n * entryBytes ty) = false then .trap 25 a
  else match s.readUnits a.toNat (entryBytes ty) n with
    | .trap c v => .trap c v
    | .wait w => .wait s w
    | .ok ws s => f ws s

/-- Enter the axis queue, once the thread's earlier accesses are performed (R322, R323) and the queue has room; the yard
takes the form `y` first. -/
def axisQueue (s0 s : State) (y : Yard) (ser : Nat) (op : AxisOp) : Act :=
  if !s0.settled s0.cur || !s0.th.pen.isEmpty then .wait s0 .order
  else if 4 ≤ (s.core s.here).axisQ.length then .wait s0 .queue
  else
    let c : AxisCmd := ⟨ser + 1, s.cur, op, 0⟩
    let s := { s with nextId := s.nextId + 2 }
    let s := (s.modYard s.here fun _ => y).modCore s.here fun k => { k with axisQ := k.axisQ ++ [c] }
    .retire ((s.advance s.here).owe (.axisDone s.here))

/-- `axa` (R413): a matrix along the named bits. -/
def execAxa (ty : YType) (d a b : RegNo) (s : State) : Ans :=
  let i := Instr.axa ty d a b
  issue s (yardHead i [.s a.toNat, .s b.toNat, .s d.toNat] []) fun s =>
    axisAct s i ty fun y =>
      match bitList (s.sv b).toNat y.n 5 with
      | none => .trap 25 (s.sv b)
      | some list =>
        match controlWord (s.sv d).toNat y.n list with
        | none => .trap 25 (s.sv d)
        | some (ctl, val) =>
          axisArea s (s.sv a) ty 64 (4 ^ list.length) fun mat s' =>
            match y.name false list s.nextId with
            | none => .trap 25 (s.sv b)
            | some y' => axisQueue s s' y' s.nextId (.axa list ctl val mat)

/-- `axd` (R414): a diagonal table. -/
def execAxd (ty : YType) (a b : RegNo) (s : State) : Ans :=
  let i := Instr.axd ty a b
  issue s (yardHead i [.s a.toNat, .s b.toNat] []) fun s =>
    axisAct s i ty fun y =>
      match bitList (s.sv b).toNat y.n 8 with
      | none => .trap 25 (s.sv b)
      | some list =>
        axisArea s (s.sv a) ty 64 (2 ^ list.length) fun tab s' =>
          axisQueue s s' { y with count := y.count + 1 } s.nextId (.axd list tab)

/-- Kinds from which the source of an axpy may be read (R415). -/
def AKind.axpy : AKind → Bool
  | .priv | .mesh | .page .so | .page .rc | .page .un => true
  | .bins | .page .yard | .page .mcast | .page .host => false

/-- How the read of an axpy source ends. -/
inductive Src where
  | ok (xs : List (Nat × Bool)) (s : State)
  | trap (cause : Nat) (value : Word)
  | wait (w : Wait)

/-- Read `n` elements of `z` bytes at `va` as of the issue point (R415); a poisoned element is no trap (R417). -/
def State.readSource (s : State) (va z : Nat) : Nat → Src
  | 0 => .ok [] s
  | n + 1 =>
    match s.check .scalar .load va z with
    | (.bad c sub, _) => .trap c (faultVal va sub)
    | (.sealed _, _) => .trap 5 (faultVal va 0)
    | (.poison, _) => .trap 26 poisonRead
    | (.busy, _) => .wait .walk
    | (.ok k p, s) =>
      if !k.axpy then .trap 5 (faultVal va 0)
      else if !s.readableNow va p z then .wait .locked
      else
        let (v, poison, s) := s.readPlace p z
        match State.readSource s (va + z) z n with
        | .ok xs s => .ok ((v, poison) :: xs) s
        | r => r

/-- `axs` (R415): the scale form, or with `axpy` the form that adds a scaled source. -/
def execAxs (ty : YType) (axpy : Bool) (a b : RegNo) (s : State) : Ans :=
  let i := Instr.axs ty axpy a b
  issue s (yardHead i (if axpy then [.s a.toNat, .s b.toNat] else [.s a.toNat]) []) fun s =>
    axisAct s i ty fun y =>
      axisArea s (s.sv a) ty (entryBytes ty) 1 fun alpha s' =>
        let y' := { y with count := y.count + 1 }
        if !axpy then axisQueue s s' y' s.nextId (.axsScale (alpha.getD 0 0))
        else if (s.sv b).toNat % 64 ≠ 0 then .trap 25 (s.sv b)
        else match s'.readSource (s.sv b).toNat (2 ^ ty.log) (2 ^ y.l) with
          | .trap c v => .trap c v
          | .wait w => .wait s w
          | .ok xs s'' => axisQueue s s'' y' s.nextId (.axsAxpy (alpha.getD 0 0) xs)

/-! ## The arithmetic of the engine (R83, R84, R412) -/

/-- A stripe or source element widened to FP32, or as it stands for c64. -/
def axisWiden : YType → Nat → Nat
  | .c64, x | .f32, x => x
  | .bf16, x => widen .bf16 x

/-- One multiply-add. -/
def axisMac (ty : YType) (u x acc : Nat) : Nat :=
  match ty with
  | .c64 => (cmac u x acc).1
  | .f32 | .bf16 => (fma32 .rne u x acc).1

/-- An accumulator as an element of the stripe. -/
def axisRound : YType → Nat → Nat
  | .c64, x | .f32, x => x
  | .bf16, x => (fconv .f32 .bf16 .rne x).1

/-- The place of one element of a member's stripe. -/
def Yard.stripe (y : Yard) (c j : Nat) : Place := .line c (y.base + j * 2 ^ y.ty.log) 0

/-- Read one element of a member's stripe. -/
def State.getStripe (s : State) (c : Nat) (y : Yard) (j : Nat) : (Nat × Bool) × State :=
  let (v, poison, s) := s.readPlace (y.stripe c j) (2 ^ y.ty.log)
  ((v, poison), s)

/-- Write one element of a member's stripe, with the poison code where it is poisoned. -/
def State.putStripe (s : State) (c : Nat) (y : Yard) (j : Nat) (x : Nat × Bool) : State :=
  if x.2 then s.markPlace (y.stripe c j) true else s.writePlace (y.stripe c j) (2 ^ y.ty.log) x.1

/-- Logical bit `b` of the element at local index `j` (R406). -/
def Yard.logicalBit (y : Yard) (j b : Nat) : Nat :=
  let p := y.me * 2 ^ y.l + j
  bits p (y.place.getD b 0) (y.place.getD b 0)

/-- The number that some logical bits of an element form, bit 0 first. -/
def Yard.logicalIndex (y : Yard) (j : Nat) (bs : List Nat) : Nat :=
  bs.foldr (fun b v => y.logicalBit j b + 2 * v) 0

/-- Local index of entry `i` of the tuple at base `x`. -/
def tupleIndex (x i : Nat) : List Nat → Nat
  | [] => x
  | q :: qs => tupleIndex (x + i % 2 * 2 ^ q) (i / 2) qs

/-- Read elements of the stripe. -/
def State.getTuple (s : State) (c : Nat) (y : Yard) : List Nat → List (Nat × Bool) × State
  | [] => ([], s)
  | j :: js =>
    let (x, s) := s.getStripe c y j
    let (xs, s) := State.getTuple s c y js
    (x :: xs, s)

/-- One row of a matrix against a tuple. -/
def matRow (ty : YType) : List Nat → List (Nat × Bool) → Nat → Nat
  | u :: us, t :: ts, acc => matRow ty us ts (axisMac ty u (axisWiden ty t.1) acc)
  | _, _, acc => acc

/-- Write elements of the stripe. -/
def State.putTuple (s : State) (c : Nat) (y : Yard) : List Nat → List (Nat × Bool) → State
  | j :: js, x :: xs => State.putTuple (s.putStripe c y j x) c y js xs
  | _, _ => s

/-- `axa` on one tuple. -/
def State.axaTuple (s : State) (c : Nat) (y : Yard) (js : List Nat) (mat : List Nat) : State :=
  let n := js.length
  let (ts, s) := s.getTuple c y js
  let bad := ts.any fun t => t.2
  let rows := (List.range n).map fun r => (axisRound y.ty (matRow y.ty ((mat.drop (r * n)).take n) ts 0), bad)
  s.putTuple c y js rows

/-- One element of `axd` or `axs`: the product or the sum with the old element. -/
def State.axisOne (s : State) (c : Nat) (y : Yard) (j : Nat) (f : Nat → Nat × Bool) : State :=
  let (x, s) := s.getStripe c y j
  let r := f x.1
  s.putStripe c y j (axisRound y.ty r.1, x.2 || r.2)

/-! ## The engine at work (R398, R412-R418) -/

/-- The local indices of the tuple at base `x`, or of the one element there (R412, R413). -/
def AxisOp.tuple (op : AxisOp) (y : Yard) (x : Nat) : List Nat :=
  match op with
  | .axa list _ _ _ =>
    let qs := list.map fun b => y.place.getD b 0
    (List.range (2 ^ qs.length)).map fun i => tupleIndex x i qs
  | .axd _ _ | .axsScale _ | .axsAxpy _ _ => [x]

/-- Is `x` a base that a command works at: of `axa`, one with the tuple's bits zero and the control bits as asked (R413)? -/
def AxisOp.base (op : AxisOp) (y : Yard) (x : Nat) : Bool :=
  match op with
  | .axa list ctl val _ => list.all (fun b => !x.testBit (y.place.getD b 0)) && y.logicalIndex x ctl == val
  | .axd _ _ | .axsScale _ | .axsAxpy _ _ => true

/-- The next base from `x` on, among `n` local indices. -/
def AxisOp.next (op : AxisOp) (y : Yard) (x : Nat) : Nat → Option Nat
  | 0 => none
  | n + 1 => if op.base y x then some x else AxisOp.next op y (x + 1) n

/-- What a command does at one base of a core's stripe (R413-R415, R417). -/
def State.axisStep (s : State) (c : Nat) (op : AxisOp) (x : Nat) : State :=
  let y := (s.core c).yard
  match op with
  | .axa _ _ _ mat => s.axaTuple c y (op.tuple y x) mat
  | .axd list tab => s.axisOne c y x fun v => (axisMac y.ty (tab.getD (y.logicalIndex x list) 0) (axisWiden y.ty v) 0, false)
  | .axsScale alpha => s.axisOne c y x fun v => (axisMac y.ty alpha (axisWiden y.ty v) 0, false)
  | .axsAxpy alpha xs => s.axisOne c y x fun v =>
      let e := xs.getD x (0, false)
      (axisMac y.ty alpha (axisWiden y.ty e.1) (axisWiden y.ty v), e.2)

/-- Has a swap triggered before a command still to begin (R398)? -/
def Yard.toBegin (y : Yard) (ser : Nat) : Bool := y.trig.any fun w => decide (w.ser < ser)

/-- Is a local index behind the frontier of every swap triggered before `ser` (R397, R398)? -/
def Yard.behind (y : Yard) (ser j : Nat) : Bool :=
  !y.toBegin ser && match y.moving with
    | none => true
    | some m => decide (ser ≤ m.sw.ser) || decide (y.unitOf m.sw j < m.f)

/-- Does a command issued before `ser` hold a local element of a stripe (R321, R322)? -/
def State.stripeHeld (s : State) (y : Yard) (ser j : Nat) : Bool :=
  s.heldFor (.hbm 0 (y.base + j * 2 ^ y.ty.log) 0) (2 ^ y.ty.log) ser

/-- Is there no way for the line of an element that the axis engine of core `c` is to write (R291)? -/
def State.stripeNoWay (s : State) (c : Nat) (y : Yard) (ser j : Nat) : Bool := s.noWay (y.stripe c j) ser

/-- AXIS_COMMAND_COMPLETE (R322, R398, R412, R413, R418): the oldest command processes its next tuple, once every swap triggered
before it has begun, the tuple is behind the frontier and no older command holds it, and not from PREEMPT to RESUME. After
the last one it is over; so it is at a frontier that stands for good, where its group has dissolved (DESIGN CHOICE, log
entry 29). -/
def execAxisCommandComplete (core : Nat) (s : State) : Ans :=
  let k := s.core core
  let y := k.yard
  match k.axisQ with
  | [] => .next s
  | c :: rest =>
    let done := .next ((State.freed s (s.modCore core fun k => { k with axisQ := rest })).advance core)
    let again := .next (s.owe (.axisDone core))
    if k.preempted then again
    else if y.toBegin c.ser then if y.dead && !y.busy then done else again
    else match c.op.next y c.pos (2 ^ y.l - c.pos) with
    | none => done
    | some x =>
      let js := c.op.tuple y x
      if js.any fun j => !y.behind c.ser j then if y.dead && !y.busy then done else again
      else if js.any fun j => s.stripeHeld y c.ser j || s.stripeNoWay core y c.ser j then again
      else
        let s' := (s.axisStep core c.op x).modCore core fun k => { k with axisQ := { c with pos := x + 1 } :: rest }
        .next ((State.freed s s').owe (.axisDone core))

/-! ## The norm (R416) -/

/-- The square of one element (R416). -/
def axisSquare (ty : YType) (x : Nat) : Nat :=
  match ty with
  | .c64 =>
    let re := x % 2 ^ 32
    let im := x / 2 ^ 32
    (fma32 .rne re re (fma32 .rne im im 0).1).1
  | .f32 | .bf16 => (fma32 .rne (axisWiden ty x) (axisWiden ty x) 0).1

/-- The running pair, and whether a poisoned element has been met. -/
def State.axisNorm (s : State) (c : Nat) (y : Yard) : Nat → (Nat × Nat × Bool) × State
  | 0 => ((0, 0, false), s)
  | n + 1 =>
    let ((a, e, bad), s) := State.axisNorm s c y n
    let (x, s) := s.getStripe c y n
    let (a', e', _) := pairAdd a e (axisSquare y.ty x.1)
    ((a', e', bad || x.2), s)

/-- `axn` (R416, R417). -/
def execAxn (ty : YType) (d : RegNo) (s : State) : Ans :=
  let i := Instr.axn ty d
  issue s (yardHead i [] [.s d.toNat, .s (d.toNat + 1)]) fun s =>
    axisAct s i ty fun y =>
      if y.busy || !(s.core s.here).axisQ.isEmpty || (List.range (2 ^ y.l)).any (s.stripeHeld y s.nextId) then .wait s .yard
      else if !s.settled s.cur || !s.th.pen.isEmpty then .wait s .order
      else
        let ((a, e, bad), s) := s.axisNorm s.here y (2 ^ y.l)
        let s := s.modYard s.here fun y => { y with count := y.count + 1 }
        .retire (if bad then s.modTh fun t => (t.poisonS d.toNat 0).poisonS (d.toNat + 1) 0
          else (s.setS d (BitVec.ofNat 64 a)).setS (d + 1) (BitVec.ofNat 64 e))

end Sys2Proof.Machine
end

