-- ==== Sys2Proof/Machine/Control.lean ====
section
/-! DEFINITION. Conditional branches and jumps (R165-R167). -/

namespace Sys2Proof.Machine

/-- A target at or above 2^20 takes cause 1; below it the transfer is taken (R144, R166). -/
def transfer (s : State) (target : Word) : Act :=
  if 2 ^ 20 ≤ target.toNat then .trap 1 target else .goto s target

/-- A branch on `c` (R166). -/
def branch (s : State) (i : Instr) (uses : List RegNo) (off : BitVec 12) (c : State → Bool) : Ans :=
  issue s ⟨i, 0, false, false, .issue, uses.map fun r => .s r.toNat, []⟩ fun s =>
    if c s then transfer s (s.th.pc + off.signExtend 64 <<< 1) else .retire s

/-- `beq` (R165, R166). -/
def execBeq (a b : RegNo) (off : BitVec 12) (s : State) : Ans :=
  branch s (.beq a b off) [a, b] off fun s => s.sv a == s.sv b

/-- `bne` (R165, R166). -/
def execBne (a b : RegNo) (off : BitVec 12) (s : State) : Ans :=
  branch s (.bne a b off) [a, b] off fun s => s.sv a != s.sv b

/-- `blt` (R165, R166). -/
def execBlt (a b : RegNo) (off : BitVec 12) (s : State) : Ans :=
  branch s (.blt a b off) [a, b] off fun s => (s.sv a).slt (s.sv b)

/-- `bge` (R165, R166). -/
def execBge (a b : RegNo) (off : BitVec 12) (s : State) : Ans :=
  branch s (.bge a b off) [a, b] off fun s => !(s.sv a).slt (s.sv b)

/-- `bltu` (R165, R166). -/
def execBltu (a b : RegNo) (off : BitVec 12) (s : State) : Ans :=
  branch s (.bltu a b off) [a, b] off fun s => (s.sv a).ult (s.sv b)

/-- `bgeu` (R165, R166). -/
def execBgeu (a b : RegNo) (off : BitVec 12) (s : State) : Ans :=
  branch s (.bgeu a b off) [a, b] off fun s => !(s.sv a).ult (s.sv b)

/-- `bbs` (R165, R166). -/
def execBbs (a b : RegNo) (off : BitVec 12) (s : State) : Ans :=
  branch s (.bbs a b off) [a, b] off fun s => (s.sv a).getLsbD ((s.sv b).toNat % 64)

/-- `bbc` (R165, R166). -/
def execBbc (a b : RegNo) (off : BitVec 12) (s : State) : Ans :=
  branch s (.bbc a b off) [a, b] off fun s => !(s.sv a).getLsbD ((s.sv b).toNat % 64)

/-- `bany` (R165, R166). -/
def execBany (a : PredNo) (off : BitVec 12) (s : State) : Ans :=
  branch s (.bany a off) [] off fun s => s.pv a != 0

/-- `ball` (R165, R166). -/
def execBall (a : PredNo) (off : BitVec 12) (s : State) : Ans :=
  branch s (.ball a off) [] off fun s => s.pv a == BitVec.allOnes 64

/-- `bnone` (R165, R166). -/
def execBnone (a : PredNo) (off : BitVec 12) (s : State) : Ans :=
  branch s (.bnone a off) [] off fun s => s.pv a == 0

/-- `jal` (R167). -/
def execJal (d : RegNo) (imm : BitVec 21) (s : State) : Ans :=
  issue s ⟨.jal d imm, 0, false, false, .issue, [], [.s d.toNat]⟩ fun s =>
    transfer (s.setS d (s.th.pc + 4)) (s.th.pc + sext21 imm <<< 1)

/-- `jalr`: a is read before d is written (R167). -/
def execJalr (d a : RegNo) (imm : BitVec 16) (s : State) : Ans :=
  issue s ⟨.jalr d a imm, 0, false, false, .issue, [.s a.toNat], [.s d.toNat]⟩ fun s =>
    let t := s.sv a + sext16 imm
    if t.getLsbD 0 then .trap 0 t else transfer (s.setS d (s.th.pc + 4)) t

end Sys2Proof.Machine
end

