-- ==== Sys2Proof/Machine/Copy.lean ====
section
/-! DEFINITION. Range locks, the commit buffer's entry, and the movement engine (R321-R324, R330-R346). -/

namespace Sys2Proof.Machine

/-! ## Range locks (R321, R340, R354) -/

/-- The parts of the bytes `lo` to `hi - 1` that lie in local memories, through either alias, as seen from a core (R340). -/
def localParts (core : Nat) (lo hi : Int) : List (Nat × Nat × Nat) :=
  let cut := fun (c : Nat) (base : Int) =>
    let a := max lo base
    let b := min hi (base + 2 ^ 20)
    if a < b then [(c, (a - base).toNat, (b - base).toNat)] else []
  let a := (max lo meshBase - meshBase).toNat / 2 ^ 20
  let b := (min hi binBase - meshBase + (2 ^ 20 - 1)).toNat / 2 ^ 20
  cut core 0 ++ (List.range (b - a)).flatMap fun k => cut (a + k) ((meshBase : Int) + ((a + k) * 2 ^ 20 : Nat))

/-- The locks that a command takes for a span. -/
def spanLocks (core ser : Nat) (src : Bool) (lo hi : Int) : List (Nat × Lock) :=
  (localParts core lo hi).map fun p => (p.1, ⟨ser, src, p.2.1, p.2.2⟩)

/-- Has every core's table room for these locks (16 entries, R15)? -/
def State.lockRoom (s : State) (ls : List (Nat × Lock)) : Bool :=
  ls.all fun l => decide ((s.core l.1).locks.length + (ls.filter fun m => m.1 == l.1).length ≤ 16)

/-- Take locks. -/
def State.lock (s : State) (ls : List (Nat × Lock)) : State :=
  ls.foldl (fun s l => s.modCore l.1 fun c => { c with locks := c.locks ++ [l.2] }) s

/-- Release the locks and the lines of a command: all of them, or with `srcOnly` those of its source. Watch tests that waited
for them are made (R291). -/
def State.unlock (s : State) (ser : Nat) (srcOnly : Bool) : State :=
  State.freed s { s with
    cores := s.cores.map fun c =>
      (c.1, { c.2 with locks := c.2.locks.filter fun l => !(l.ser == ser && (l.src || !srcOnly)) })
    owns := s.owns.filter fun o => !(o.ser == ser && (o.src || !srcOnly)) }

/-! ## Owned lines (R291, R321; log entry 17) -/

/-- What an engine's access at `va` reaches that can be owned: a line of HBM or of a home slice, or a yard element. -/
def State.ownKey (s : State) (core : Nat) (user : Bool) (acc : Acc) (va : Nat) : Option OwnKey :=
  match (s.walkFree.translate core user acc va).1 with
  | .ok t => match t.place with
    | .line h pa _ => some (.line h (pa / 256))
    | .hbm _ pa _ => some (.so (pa / 256))
    | .yard _ i _ => (s.yardOf core).map fun y => .elem y.gid i
    | .loc _ _ | .rd _ _ _ | .host _ | .mcast _ _ | .bin _ _ => none
  | .fault _ _ | .poison | .busy => none

/-- What the accesses of a command at these addresses own, each line and element once (R291, R321). The ways that the lines need
are found as the engine reaches them (`State.noWay`). -/
def State.ownList (s : State) (core : Nat) (user : Bool) (acc : Acc) (ser : Nat) (vas : List Nat) : List Own :=
  ((vas.filterMap (s.ownKey core user acc)).eraseDups).map fun k => ⟨ser, acc == .load, k⟩

/-- Take lines. -/
def State.own (s : State) (ls : List Own) : State := { s with owns := s.owns ++ ls }

/-! ## The commit buffer (R249, R251) -/

/-- A command on a run-ahead path enters the commit buffer, or stalls while it is full. -/
def State.buffer (s : State) (op : BufOp) : Act :=
  if 8 ≤ (s.core s.here).cbuf.length then .stall
  else
    let (id, s) := s.fresh
    let s := s.modCore s.here fun c => { c with cbuf := c.cbuf ++ [⟨id, s.cur, op⟩] }
    .retire (s.modTh fun t => { t with pen := t.pen ++ [.cmd true id] })

/-! ## Shapes (R150, R333, R335) -/

/-- Number of elements. -/
def Shape.count (r : Shape) : Nat := (r.n.take r.rank).foldl (· * ·) 1

/-- Address of element `k` from base `a`, dimension 0 running fastest. -/
def elemAddr (a : Int) (k : Nat) : List Nat → List Int → Int
  | n :: ns, t :: ts => elemAddr (a + (k % n : Nat) * t) (k / n) ns ts
  | _, _ => a

/-- Address of element `k`, modulo 2^64. -/
def Shape.addr (r : Shape) (k : Nat) : Nat :=
  ((elemAddr r.base k (r.n.take r.rank) r.st).emod (2 ^ 64)).toNat

/-- Least and greatest offset of an element's first byte. -/
def spread : List Nat → List Int → Int × Int
  | n :: ns, t :: ts =>
    let (lo, hi) := spread ns ts
    let d := ((n : Int) - 1) * t
    (lo + min 0 d, hi + max 0 d)
  | _, _ => (0, 0)

/-- The virtual byte span of a record with at least one element: first byte, and one past the last. -/
def Shape.span (r : Shape) : Int × Int :=
  let (lo, hi) := spread (r.n.take r.rank) r.st
  (r.base + lo, r.base + hi + 2 ^ r.elog)

/-- The conditions of R333 on a pair whose records have passed R151: none, or the TVAL of SHAPE. -/
def pairCheck (base : Word) (x y : Shape) : Option Word :=
  if x.elog ≠ y.elog ∨ x.count ≠ y.count then some (base + 48)
  else if 2 ^ 40 ≤ x.count then some base
  else if x.count ≠ 0 ∧ x.span.1 < y.span.2 ∧ y.span.1 < x.span.2 then some (base + 48)
  else none

/-! ## Issue (R330-R334) -/

/-- The token's thread and register of a copy. -/
def CopyCmd.tokenReg (c : CopyCmd) : Option (Nat × Nat) := c.token.map fun t => (c.tid / 16 * 16 + t.1, t.2)

/-- What a copy owns from its issue (R291, R321-R323): its destination, so that its writes act as of the issue point, and until
SRC its source (R346, row 1). The way of a destination line is taken as the engine reaches it (R340; DEDUCED, log entry 17). -/
def State.copyLines (s : State) (c : CopyCmd) : List Own :=
  let at_ := fun (acc : Acc) (r : Shape) => s.ownList (c.tid / 16) c.user acc c.ser ((List.range c.count).map r.addr)
  at_ .load c.src ++ at_ .store c.dst

/-- The issue of a copy whose checks are done: it waits, or it is enqueued with its locks and lines taken and its token
marked. -/
def State.copyIssue (s : State) (c : CopyCmd) : Except Wait State :=
  let core := c.tid / 16
  let c := { c with ser := s.nextId }
  let lines := s.copyLines c
  let (ser, s) := s.fresh
  let locks := if c.count = 0 then [] else
    spanLocks core ser true c.src.span.1 c.src.span.2 ++ spanLocks core ser false c.dst.span.1 c.dst.span.2
  let pending := match c.tokenReg with
    | none => false
    | some (t, r) => ((s.thread t).sreg r).pend
  if !s.settled c.tid then .error .order
  else if 4 ≤ (s.core core).copyQ.length then .error .queue
  else if pending then .error .register
  else if !s.lockRoom locks then .error .queue
  else
    let s := match c.tokenReg with
      | none => s
      | some (t, r) => s.modThread t fun t => t.late fun t => (t.setS r 0).pendS r
    let s := ((s.lock locks).own lines).modCore core fun k => { k with copyQ := k.copyQ ++ [c] }
    .ok (s.owe (.copyStart core))

/-- `cpy` or, with `bar`, `cpy.bar`. -/
def copy (s : State) (i : Instr) (p : PredNo) (ctl base scope : RegNo) (barrier : Bool) : Ans :=
  issue s ⟨i, p, false, true, .own, [.s base.toNat, .s scope.toNat, .s ctl.toNat], []⟩ fun s =>
    let a := s.sv base
    let w := (s.sv ctl).toNat
    if s.th.spec.isSome && s.bufferWrites s.cur then .stall
    else if scope ≠ 0 ∧ (Scope.of (s.sv scope)).isNone then .trap 2 (s.sv scope)
    else if a.toNat % 8 ≠ 0 ∨ inPrivate a.toNat 96 = false then .trap 25 a
    else match s.readWords a.toNat 12 with
      | .trap c v => .trap c v
      | .wait x => .wait s x
      | .ok ws s' =>
        match Shape.of (ws.take 6), Shape.of (ws.drop 6) with
        | none, _ => .trap 25 a
        | some _, none => .trap 25 (a + 48)
        | some x, some y =>
          match pairCheck a x y with
          | some v => .trap 25 v
          | none =>
            let bc := coreAt (bits w 23 16) (bits w 31 24)
            let off := bits w 51 32
            let reg := bits w 8 4
            let slot := bits w 3 0
            let outside := decide (63 < bits w 23 16) || decide (31 < bits w 31 24) || !s.samePaddock s.here bc
            if barrier && outside then .trap 28 (nakVal 2 w)
            else if barrier && decide (off % 8 ≠ 0) then .trap 6 (BitVec.ofNat 64 (meshBase + bc * 2 ^ 20 + off))
            else if barrier && s.user && decide (off < (s.core bc).xbound.toNat) then
              .trap 7 (faultVal (meshBase + bc * 2 ^ 20 + off) 0)
            else if !barrier && decide (reg ≠ 0) && (s.thread (s.here * 16 + slot)).state == .idle then
              .trap 28 (nakVal 4 w)
            else
              let c : CopyCmd :=
                { ser := 0, tid := s.cur, src := x, dst := y, scope := if scope = 0 then none else some (s.sv scope)
                  user := s.user, token := if barrier || reg == 0 then none else some (slot, reg)
                  bar := if barrier then some (bc, off) else none
                  count := x.count, started := false, srcDone := false, visDone := false, buf := []
                  asked := none, fail := none }
              if s.th.spec.isSome then s'.buffer (.copy c (s.sv ctl))
              else if !s.th.pen.isEmpty then .wait s .order
              else match s'.copyIssue c with
                | .error w => .wait s w
                | .ok s => .retire s

/-- `cpy` (R331-R334). -/
def execCpy (p : PredNo) (ctl base scope : RegNo) (s : State) : Ans :=
  copy s (.cpy p ctl base scope) p ctl base scope false

/-- `cpy.bar` (R331-R334, R341). -/
def execCpyBar (p : PredNo) (ctl base scope : RegNo) (s : State) : Ans :=
  copy s (.cpyBar p ctl base scope) p ctl base scope true

/-! ## The elements (R335-R337, R343, R344) -/

/-- Where the engine finds an element: a place here, another module, a frontier or a walk for which it waits, or a refusal. -/
inductive CopyAt where
  | place (p : Place)
  | away (core i sub : Nat)
  | wait
  | bad (code sub : Nat)
  deriving DecidableEq, Repr

/-- Locate an element of `w` bytes for the copy engine of a core, as a thread's access of the copy's mode would be. -/
def State.copyAt (s : State) (core : Nat) (user : Bool) (acc : Acc) (va w : Nat) : CopyAt × State :=
  let (r, s) := s.translate core user acc va
  let bad := CopyAt.bad acc.fault 0
  match r with
  | .fault c sub => (.bad c sub, s)
  | .poison => (.bad 26 0, s)
  | .busy => (.wait, s)
  | .ok t =>
    match t.kind, t.place with
    | .priv, p | .mesh, p => (.place p, s)
    | .page .so, p | .page .rc, p | .page .un, p | .page .host, p => (.place p, s)
    | .page .yard, .yard c i sub =>
      match s.yardOf core with
      | none => (bad, s)
      | some y =>
        if 2 ^ y.ty.log < w ∨ va % 2 ^ y.ty.log ≠ 0 then (bad, s)
        else
          let far := fun m : Nat => if s.reaches (peerOf m) then CopyAt.away m i sub else .bad 28 3
          if 2048 ≤ c then (far c, s)
          else match s.follow c i 64 with
            | (.here pa, k) => (.place (.line k (pa + sub) 0), s)
            | (.to m, _) => (far m, s)
            | (.wait, _) => (.wait, s)
            | (.denied, _) => (.bad 28 2, s)
    | _, _ => (bad, s)

/-- Bytes of an element. -/
def CopyCmd.size (c : CopyCmd) : Nat := 2 ^ c.src.elog

/-- Does an address lie on a translated page whose leaf has X = 1, whatever else that page refuses, its KEY among it (R284, R297,
R337)? -/
def State.codePage (s : State) (core va : Nat) : Bool :=
  isTranslated va && match (s.walkFree.lookup core va).1 with
    | .leaf _ e | .noKey e => (Leaf.of e).any fun l => l.x
    | .invalid | .poison | .busy => false

/-- Does every source element lie on such a page (R337)? -/
def State.codeSource (s : State) (c : CopyCmd) : Bool :=
  (List.range c.count).all fun k => s.codePage (c.tid / 16) (c.src.addr k)

/-- Locate source element `k`, with the refusal of R337. -/
def State.srcAt (s : State) (c : CopyCmd) (k : Nat) : CopyAt × State :=
  match s.copyAt (c.tid / 16) c.user .load (c.src.addr k) c.size with
  | (.place p, s) => (if c.user && s.belowXbound p then .bad 5 0 else .place p, s)
  | r => r

/-- Locate destination element `k`, with the refusal of R337. -/
def State.dstAt (s : State) (c : CopyCmd) (k : Nat) : CopyAt × State :=
  match s.copyAt (c.tid / 16) c.user .store (c.dst.addr k) c.size with
  | (.place p, s) => (if c.user && s.belowXbound p && !s.codeSource c then .bad 7 0 else .place p, s)
  | r => r

/-- Must the engine wait at a place it reads, in any of its words? -/
def State.srcHeld (s : State) (c : CopyCmd) (p : Place) : Bool := s.heldBy (fun a => decide (a < c.ser)) false p c.size

/-- Must the engine wait at a place it writes: for an older owner, or for a way of its own (R291)? -/
def State.dstHeld (s : State) (c : CopyCmd) (p : Place) : Bool := s.heldFor p c.size c.ser || s.noWay p c.ser

/-- Words of an element: their size, and their number. -/
def CopyCmd.words (c : CopyCmd) : Nat × Nat := if c.size ≤ 8 then (c.size, 1) else (8, c.size / 8)

/-- Read `n` words of `w` bytes: the value, and the words that hold the poison code. -/
def State.readElem (s : State) (p : Place) (w : Nat) : Nat → (Nat × List Nat) × State
  | 0 => ((0, []), s)
  | n + 1 =>
    let ((v, bad), s) := State.readElem s p w n
    let (x, poison, s) := s.readPlace (p.add (w * n)) w
    ((v + x * 256 ^ (w * n), if poison then bad ++ [n] else bad), s)

/-- Write `n` words of `w` bytes, poison codes among them (R344). -/
def State.writeElem (s : State) (p : Place) (w v : Nat) (bad : List Nat) : Nat → State
  | 0 => s
  | n + 1 =>
    let s := State.writeElem s p w v bad n
    let q := p.add (w * n)
    if bad.contains n then s.markPlace q true else s.writePlace q w (v / 256 ^ (w * n) % 256 ^ w)

/-- Why element `k` of a copy fails before it is read or written, if it does (R343): code and subcode, those of its source where
both sides fail (DESIGN CHOICE, log entry 29: the spec names no order). -/
def State.elemFails (s : State) (c : CopyCmd) (k : Nat) : Option (Nat × Nat) :=
  match (s.srcAt c k).1, (s.dstAt c k).1 with
  | .bad code sub, _ => some (code, sub)
  | _, .bad code sub => some (code, sub)
  | _, _ => none

/-- Does a place lie on the host port? -/
def Place.isHost : Place → Bool
  | .host _ => true
  | _ => false

/-- Ask for element `k` at another module or at the host port. -/
def CopyCmd.ask (c : CopyCmd) (k whom : Nat) : CopyCmd := { c with asked := some (k, whom) }

/-- Has the host been asked, so that the access may be made now unless it has refused? -/
def CopyCmd.hostAsked (c : CopyCmd) : Bool :=
  match c.asked with
  | some (_, p) => p == hostPort
  | none => false

/-- Send one element's access to another module. -/
def State.sendElem (s : State) (c : CopyCmd) (core i sub : Nat) (store : Option (Word × Bool)) : State :=
  s.sendTo (peerOf core) (.yardAccess s.ident.toNat (requestId c.ser 0) (core % 2048) i sub c.size store)

/-- Read source elements from `k` on, at most `n`, up to one that is waited for, is asked for elsewhere, or fails (R335,
R343). `go` says that the host has been asked for the first. -/
def State.readOn (s : State) (c : CopyCmd) (go : Bool) (k : Nat) : Nat → CopyCmd × State
  | 0 => (c, s)
  | n + 1 =>
    match s.elemFails c k with
    | some f => ({ c with fail := some (k, f) }, s)
    | none =>
      match s.srcAt c k with
      | (.place p, s) =>
        if s.srcHeld c p then (c, s)
        else if p.isHost && !go then (c.ask k hostPort, s)
        else
          let (x, s) := s.readElem p c.words.1 c.words.2
          State.readOn s { c with buf := c.buf ++ [(k, x)] } false (k + 1) n
      | (.away m i sub, s) => (c.ask k (peerOf m), s.sendElem c m i sub none)
      | (.wait, s) | (.bad _ _, s) => (c, s)

/-- What destination element `k` of a copy owns. -/
def State.dstKey (s : State) (c : CopyCmd) (k : Nat) : Option OwnKey := s.ownKey (c.tid / 16) c.user .store (c.dst.addr k)

/-- Element `k` of a copy has been written, and the elements `rest` are still to be: a line or yard element with which the copy is
done is released (R291). -/
def State.doneWith (s : State) (c : CopyCmd) (k : Nat) (rest : List Nat) : State :=
  match s.dstKey c k with
  | none => s
  | some key =>
    if rest.any fun j => s.dstKey c j == some key then s
    else State.freed s { s with owns := s.owns.filter fun o => !(o.ser == c.ser && !o.src && o.key == key) }

/-- Write destination elements in ascending order, up to one that is waited for, is asked for elsewhere, or fails; those
from the failing one on are dropped (R335, R343). -/
def State.writeOn (s : State) (c : CopyCmd) (go : Bool) : List (Nat × Nat × List Nat) → CopyCmd × State
  | [] => ({ c with buf := [] }, s)
  | b :: bs =>
    let c := { c with buf := b :: bs }
    let fails := fun f : Nat × Nat => { c with buf := [], fail := some (b.1, f) }
    if c.fail.any fun f => decide (f.1 ≤ b.1) then ({ c with buf := [] }, s)
    else match s.dstAt c b.1 with
      | (.bad code sub, s) => (fails (code, sub), s)
      | (.wait, s) => (c, s)
      | (.away m i sub, s) => (c.ask b.1 (peerOf m), s.sendElem c m i sub (some (BitVec.ofNat 64 b.2.1, !b.2.2.isEmpty)))
      | (.place p, s) =>
        if s.dstHeld c p then (c, s)
        else if p.isHost && !b.2.2.isEmpty then (fails (26, 0), s)
        else if p.isHost && !go then (c.ask b.1 hostPort, s)
        else
          let s := (s.giveWay p c.ser).writeElem p c.words.1 b.2.1 b.2.2 c.words.2
          State.writeOn (s.doneWith c b.1 (bs.map fun x => x.1)) c false bs

/-- The engine goes on with a copy, unless it awaits another module's answer: reading, then writing. -/
def State.copyOn (s : State) (c : CopyCmd) : CopyCmd × State :=
  if c.asked.isSome && !c.hostAsked then (c, s)
  else
    let go := c.hostAsked
    let c := { c with asked := none }
    if c.writing then s.writeOn c go c.buf else s.readOn c go c.buf.length (c.count - c.buf.length)

/-- Does destination element `k` lie inside the copy's scope (R313, R339)? -/
def State.inScope (s : State) (c : CopyCmd) (k : Nat) : Bool :=
  let scope := match c.scope with
    | none => s.paddockScope (c.tid / 16)
    | some v => (Scope.of v).getD (s.paddockScope (c.tid / 16))
  match (s.dstAt c k).1 with
  | .place p => s.inside scope p
  | .away m i sub => s.inside scope (.yard m i sub)
  | .wait => true
  | .bad _ _ => false

/-! ## The events of the engine (R330, R339-R343) -/

/-- Replace or drop a copy of a core's queue. -/
def State.setCopy (s : State) (core ser : Nat) (c : Option CopyCmd) : State :=
  s.modCore core fun k => { k with copyQ := k.copyQ.filterMap fun d => if d.ser = ser then c else some d }

/-- Write the token register of a copy; `pend` keeps it pending. -/
def State.token (s : State) (c : CopyCmd) (v : Word) (pend : Bool) : State :=
  match c.tokenReg with
  | none => s
  | some (t, r) => s.modThread t fun t => t.late fun t => if pend then (t.setS r v).pendS r else t.setS r v

/-- The arrival of a copy on its barrier (R221, R341). A word that holds the poison code stays as it is, and no ERRST is set
(DESIGN CHOICE, log entry 29: R496 speaks of `bar.arr` only). -/
def State.arrive (s : State) (c : CopyCmd) : State :=
  match c.bar with
  | none => s
  | some (b, off) => (s.perform .barArr ⟨0, 0, .loc b off, 8, 0, [], 0, false, false, none, false⟩).2

/-- Is the barrier's word under an older lock? -/
def State.barHeld (s : State) (c : CopyCmd) : Bool :=
  match c.bar with
  | none => false
  | some (b, off) => s.lockedFor b off 8 c.ser

/-- COPY_START (R330): the next command starts once every command before it has reached SRC. -/
def execCopyStart (core : Nat) (s : State) : Ans :=
  match (s.core core).copyQ.find? fun c => !c.srcDone with
  | none => .next s
  | some c =>
    if c.started then .next s
    else .next ((s.setCopy core c.ser (some { c with started := true })).owe (.copySrc core))

/-- COPY_SRC (R335, R339): source elements are read; with the last one the source is released. -/
def execCopySrc (core : Nat) (s : State) : Ans :=
  match (s.core core).copyQ.find? fun c => !c.srcDone with
  | none => .next s
  | some c =>
    if !c.started then .next s
    else if c.fail.isSome then .next (s.owe (.copyFault core c.ser))
    else
      let (c, s) := s.copyOn c
      let s := s.setCopy core c.ser (some c)
      if c.fail.isSome then .next (s.owe (.copyFault core c.ser))
      else if c.asked.isSome || decide (c.buf.length < c.count) then .next (s.owe (.copySrc core))
      else
        let s := (s.setCopy core c.ser (some { c with srcDone := true })).unlock c.ser true
        .next ((((s.token c 1 true).owe (.copyVis core c.ser)).owe (.copyRelease core c.ser)).owe (.copyStart core))

/-- COPY_VIS (R339, R341): destination elements are written; with the last one inside the scope the copy is visible. -/
def execCopyVis (core id : Nat) (s : State) : Ans :=
  match (s.core core).copyQ.find? fun c => c.ser == id && c.srcDone && !c.visDone with
  | none => .next s
  | some c =>
    let (c, s) := s.copyOn c
    let s := s.setCopy core id (some c)
    if c.fail.isSome then .next (s.owe (.copyFault core id))
    else if (c.buf.any fun b => s.inScope c b.1) || s.barHeld c then .next (s.owe (.copyVis core id))
    else
      let s := s.setCopy core id (some { c with visDone := true })
      .next ((s.token c (BitVec.ofNat 64 (c.count * 2 ^ 8 + 3)) false).arrive c)

/-- COPY_DESTINATION_RELEASE (R339): after VIS the other destination elements are written; with the last one the command is
over. -/
def execCopyDestinationRelease (core id : Nat) (s : State) : Ans :=
  match (s.core core).copyQ.find? fun c => c.ser == id && c.srcDone with
  | none => .next s
  | some c =>
    if !c.visDone then .next (s.owe (.copyRelease core id))
    else
      let (c, s) := s.copyOn c
      let s := s.setCopy core id (some c)
      if c.fail.isSome then .next (s.owe (.copyFault core id))
      else if !c.buf.isEmpty then .next (s.owe (.copyRelease core id))
      else .next ((s.setCopy core id none).unlock id false)

/-- COPY_FAULT (R343): the first element that fails ends the copy, once every element below it is written. After VIS the
token has been given, and the fault is told as for a copy without one (DEDUCED, log entry 28). -/
def execCopyFault (core id : Nat) (s : State) : Ans :=
  match (s.core core).copyQ.find? fun c => c.ser == id && c.fail.isSome with
  | none => .next s
  | some c =>
    let (c, s) := s.copyOn c
    match c.fail with
    | none => .next s
    | some (k, code, sub) =>
      if !c.buf.isEmpty || c.asked.isSome || s.barHeld c then
        .next ((s.setCopy core id (some c)).owe (.copyFault core id))
      else
        let s := (s.setCopy core id none).unlock id false
        let told := c.token.isSome && !c.visDone
        let v := BitVec.ofNat 64 (code * 2 ^ 56 + sub * 2 ^ 48 + k * 2 ^ 8 + 7)
        let s := if told then s.token c v false
          else
            let s := if c.visDone then s else s.arrive c
            s.modThread (core * 16 + 15) fun t => { t with errSt := true }
        .next (s.owe (.copyStart core))

end Sys2Proof.Machine
end

