-- ==== Sys2Proof/Machine/Fabric.lean ====
section
/-! DEFINITION. The fabric: one-sided operations, refusal records, multicast and capabilities (R423-R440). -/

namespace Sys2Proof.Machine

/-! ## Operands and checks (R424, R429-R432) -/

/-- A capability bit of a peer's entry (R424). -/
def State.cap (s : State) (peer k : Nat) : Bool := (tget 0 s.peers peer).getLsbD k

/-- Does a kind take fabric data (R427, R432)? -/
def AKind.fabric : AKind → Bool
  | .priv | .mesh | .page .so | .page .rc | .page .un => true
  | .bins | .page .yard | .page .mcast | .page .host => false

/-- Check `n` doublewords of the issuing thread's side: their places, or the first trap (R432, order 8), or a wait for a walk. -/
def State.checkLocal (s : State) (acc : Acc) (va : Nat) : Nat → Except NoPlace (List Place) × State
  | 0 => (.ok [], s)
  | n + 1 =>
    match s.check .scalar acc va 8 with
    | (.bad c sub, s) => (.error (.trap c (faultVal va sub)), s)
    | (.sealed _, s) => (.error (.trap acc.fault (faultVal va 0)), s)
    | (.poison, s) => (.error (.trap 26 poisonRead), s)
    | (.busy, s) => (.error .busy, s)
    | (.ok k p, s) =>
      if !k.fabric then (.error (.trap acc.fault (faultVal va 0)), s)
      else match State.checkLocal s acc (va + 8) n with
        | (.ok ps, s) => (.ok (p :: ps), s)
        | r => r

/-- Read doublewords; one that holds the poison code travels on with it, as zero (R12). -/
def State.readDwords (s : State) : List Place → List Dword × State
  | [] => ([], s)
  | p :: ps =>
    let (v, poison, s) := s.readPlace p 8
    let (xs, s) := State.readDwords s ps
    ((if poison then 0 else BitVec.ofNat 64 v, poison) :: xs, s)

/-- Write a doubleword, or the poison code that travels with it (R12). -/
def State.writeDword (s : State) (p : Place) (x : Dword) : State :=
  if x.2 then s.markPlace p true else s.writePlace p 8 x.1.toNat

/-- Write doublewords at places, in order: line after line in ascending order as R317 says, and on an unordered page, where it
leaves the order free, too, all in one step (DESIGN CHOICE, log entry 29). -/
def State.writeDwords (s : State) : List Place → List Dword → State
  | p :: ps, x :: xs => State.writeDwords (s.writeDword p x) ps xs
  | _, _ => s

/-- An instruction of the FAB major. -/
def fabHead (i : Instr) (p : PredNo) (uses defs : List RName) : Head := ⟨i, p, false, false, .stall, uses, defs⟩

/-- The peer of a remote operand. -/
def remotePeer (v : Word) : Nat := bits v.toNat 59 48
/-- The address of a remote or local operand. -/
def operandAddr (v : Word) : Nat := bits v.toNat 47 0

/-- Checks 2 to 6 of R432 for an operation with capability bit `cap`; `sig` is the signal operand of `puts`. -/
def State.fabCheck (s : State) (remote : Word) (sig : Option Word) (align : Nat) (cap : Option Nat) : Bad :=
  let peer := remotePeer remote
  let nak := fun sub => some (28, nakVal sub remote.toNat)
  let entry := tget 0 s.peers peer
  let sigBad := sig.any fun v => decide (bits v.toNat 55 48 ≠ 0) || decide (bits v.toNat 63 56 = 0)
  let sigOff := sig.any fun v => decide (operandAddr v % 8 ≠ 0)
  if bits remote.toNat 63 60 ≠ 0 then some (25, remote)
  else if sigBad then some (25, sig.getD 0)
  else if operandAddr remote % 8 ≠ 0 then some (align, remote)
  else if sigOff then some (align, sig.getD 0)
  else if !entry.getLsbD 63 then nak 2
  else if !entry.getLsbD 62 then nak 3
  else match cap with
    | none => none
    | some k => if s.cap peer k then none else nak 1

/-- The duty by which an operation is served, or tried again: FABRIC_PUT_ARRIVAL and its like. -/
def FabKind.again (k : FabKind) (src : FabSrc) : Duty :=
  match k with
  | .put => .fabricPut src
  | .puts => .fabricPuts src
  | .get => .fabricGet src
  | .radd | .mstore | .mload => .fabricRadd src

/-- The duty by which an operation toward this module itself is served. -/
def FabOp.serve (o : FabOp) : Duty := o.kind.again (.own o.id)

/-- The job tag of a core's paddock. -/
def State.jobOf (s : State) (core : Nat) : BitVec 16 :=
  match (s.core core).paddock with
  | none => 0
  | some p => match tfind s.paddocks p with
    | none => 0
    | some d => d.job

/-! ## The target (R426, R427) -/

/-- What a range is used for. -/
inductive Use where | rd | wr | add
  deriving DecidableEq, Repr

/-- The permission bit of an export entry (R426). -/
def Use.bit : Use → Nat
  | .rd => 61
  | .wr => 60
  | .add => 59

/-- The paddock that carries a job tag: its number and its parts. -/
def State.jobPaddock (s : State) (job : BitVec 16) : Option (Nat × Paddock) := s.paddocks.find? fun p => p.2.job == job

/-- Does an export entry touch a range? -/
def exportTouches (e : Word × Word) (a n : Nat) : Bool :=
  let base := bits e.1.toNat 47 0
  e.1.getLsbD 63 && decide (base < a + n) && decide (a < base + bits e.2.toNat 47 0)

/-- Does an export entry hold a whole range with a permission? -/
def exportHolds (e : Word × Word) (u : Use) (a n : Nat) : Bool :=
  let base := bits e.1.toNat 47 0
  e.1.getLsbD 63 && !e.1.getLsbD 62 && e.1.getLsbD u.bit && decide (base ≤ a) && decide (a + n ≤ base + bits e.2.toNat 47 0)

/-- The places of `n` doublewords of a paddock's space, translated as a supervisor access of its first core; none where
the last row of R427 refuses them. -/
def State.targetPlaces (s : State) (core : Nat) (acc : Acc) (va : Nat) : Nat → Option (List Place)
  | 0 => some []
  | n + 1 =>
    match (s.walkFree.translate core false acc va).1 with
    | .ok t => match t.kind, State.targetPlaces s core acc (va + 8) n with
      | .mesh, some ps | .page .so, some ps | .page .rc, some ps | .page .un, some ps => some (t.place :: ps)
      | _, _ => none
    | _ => none

/-- How the checks of R427 end: the places of each range, a refusal, or a wait for a paddock that is swapped out. -/
inductive Served where
  | ok (places : List (List Place))
  | refused (sub : BitVec 8)
  | wait

/-- The checks of R427 on the ranges an operation names: use, address, bytes. -/
def State.serveCheck (s : State) (job : BitVec 16) (cap : Nat) (ranges : List (Use × Nat × Nat)) : Served :=
  match s.jobPaddock job with
  | none => .refused 2
  | some (_, d) =>
    let es := d.exports.map fun x => x.2
    if ranges.any fun r => es.any fun e => e.1.getLsbD 62 && exportTouches e r.2.1 r.2.2 then .refused 5
    else if ranges.any fun r => !(es.any fun e => exportHolds e r.1 r.2.1 r.2.2) then .refused 2
    else if !s.ownCap cap then .refused 1
    else if d.out then .wait
    else
      let core := coreAt d.xlo d.ylo
      let ps := ranges.map fun r => s.targetPlaces core (if r.1 = .rd then .load else .store) r.2.1 (r.2.2 / 8)
      if ps.any (·.isNone) then .refused 2 else .ok (ps.map fun p => p.getD [])

/-- Capability bit of an operation (R424). -/
def FabKind.cap : FabKind → Nat
  | .put | .get => 0
  | .puts => 1
  | .radd => 2
  | .mstore => 3
  | .mload => 4

/-- The ranges an operation names at its target. -/
def FabKind.ranges (k : FabKind) (addr nw sig : Nat) : List (Use × Nat × Nat) :=
  match k with
  | .put => [(.wr, addr, 8 * nw)]
  | .puts => [(.wr, addr, 8 * nw), (.add, sig, 8)]
  | .get => [(.rd, addr, 8 * nw)]
  | .radd => [(.add, addr, 8)]
  | .mstore | .mload => []

/-! ## Departure (R428, R432, R433) -/

/-- The places at which an operation toward this module itself will act, as far as R427 lets it (R316). -/
def State.ownTarget (s : State) (o : FabOp) : List Place :=
  match s.serveCheck (s.jobOf (o.tid / 16)) o.kind.cap (o.kind.ranges (operandAddr o.oper) o.nw o.sig.toNat) with
  | .ok ps => ps.flatten
  | .refused _ | .wait => []

/-- The packets of an operation: the payload split at 256-byte boundaries of the target, behind the last part the signal; the
length of a `get`; the addend of a `radd`. -/
def FabOp.bodies (o : FabOp) (job : BitVec 16) : List Body :=
  let a := operandAddr o.oper
  let one := fun tail : List Word => [Body.request o.kind o.id o.tid job a [] tail]
  match o.kind with
  | .put | .puts =>
    let parts := packetParts a o.data
    parts.map fun x =>
      let last := o.kind == .puts && decide (x.1 + x.2.length = o.data.length)
      .request o.kind o.id o.tid job (a + 8 * x.1) x.2 (if last then [BitVec.ofNat 64 (o.sig.toNat + o.inc.toNat * 2 ^ 56)] else [])
  | .get => one [BitVec.ofNat 64 o.nw]
  | .radd => one [o.opnd]
  | .mstore | .mload => []

/-- An operation sets out: to this module itself, or by its peer's port. -/
def State.depart (s : State) (o : FabOp) : State :=
  let own := decide (o.peer = s.ident.toNat)
  let o := { o with target := if own then s.ownTarget o else [] }
  let s := { s with fabops := s.fabops ++ [o] }.modThread o.tid fun t => { t with fabCnt := t.fabCnt + 1 }
  if own then s.owe o.serve else (o.bodies (s.jobOf (o.tid / 16))).foldl (fun s b => s.sendTo o.peer b) s

/-- Does an earlier operation of a thread toward this module itself act on a byte of these places (R205, R316)? -/
def State.ownBefore (s : State) (tid id : Nat) (ps : List Place) : Bool :=
  s.fabops.any fun o => o.tid == tid && decide (o.id < id) && o.target.any fun q => ps.any fun p => overlaps p 8 q 8

/-! ## Issue (R429-R433) -/

/-- `put` and `puts`: the local source is read as of the issue point. -/
def putAct (s : State) (kind : FabKind) (locl remote : Word) (sig : Option Word) (cap : Nat) : Act :=
  let n := bits locl.toNat 63 48 + 1
  match s.fabCheck remote sig 6 (some cap) with
  | some (c, v) => .trap c v
  | none =>
    if operandAddr locl % 8 ≠ 0 then .trap 4 (faultVal (operandAddr locl) 0)
    else match s.checkLocal .load (operandAddr locl) n with
      | (.error e, _) => e.act s
      | (.ok ps, s1) =>
        if 64 ≤ s.th.fabCnt then .wait s .count
        else if !s.flown s.cur || !s.th.pen.isEmpty || s.ownBefore s.cur s.nextId ps || ps.any fun p => s.heldRead p 8 then .wait s .order
        else
          let (data, s2) := s1.readDwords ps
          let (id, s2) := s2.fresh
          let v := sig.getD 0
          .retire (s2.depart
            { id := id, tid := s.cur, kind := kind, peer := remotePeer remote, oper := remote, places := ps, target := []
              nw := n, lva := operandAddr locl, data := data, sig := v.setWidth 48, inc := (v >>> 56).setWidth 8, opnd := 0, dest := .none, group := 0
              mcount := 1, resp := none })

/-- `put` (R432, R433). -/
def execPut (p : PredNo) (d a : RegNo) (s : State) : Ans :=
  issue s (fabHead (.put p d a) p [.s a.toNat, .s d.toNat] []) fun s =>
    putAct s .put (s.sv d) (s.sv a) none 0

/-- `puts` (R432, R433). -/
def execPuts (p : PredNo) (d a b : RegNo) (s : State) : Ans :=
  issue s (fabHead (.puts p d a b) p [.s a.toNat, .s b.toNat, .s d.toNat] []) fun s =>
    putAct s .puts (s.sv d) (s.sv a) (some (s.sv b)) 1

/-- `get` (R432, R433): the local destination is locked until its lines are written. -/
def execGet (p : PredNo) (d a : RegNo) (s : State) : Ans :=
  issue s (fabHead (.get p d a) p [.s a.toNat, .s d.toNat] []) fun s =>
    let locl := s.sv d
    let n := bits locl.toNat 63 48 + 1
    let va := operandAddr locl
    match s.fabCheck (s.sv a) none 4 (some 0) with
    | some (c, v) => .trap c v
    | none =>
      if va % 8 ≠ 0 then .trap 6 (faultVal va 0)
      else match s.checkLocal .store va n with
        | (.error e, _) => e.act s
        | (.ok ps, s1) =>
          let (id, s1) := s1.fresh
          let locks := spanLocks s.here id false va (va + 8 * n)
          if 64 ≤ s.th.fabCnt then .wait s .count
          else if !s.flown s.cur || !s.th.pen.isEmpty then .wait s .order
          else if !s1.lockRoom locks then .wait s .queue
          else
            let lines := s1.ownList s.here s.user .store id ((List.range n).map fun k => va + 8 * k)
            .retire (((s1.lock locks).own lines).depart
              { id := id, tid := s.cur, kind := .get, peer := remotePeer (s.sv a), oper := s.sv a, places := ps
                target := [], nw := n, lva := va, data := [], sig := 0, inc := 0, opnd := 0, dest := .none, group := 0, mcount := 1, resp := none })

/-- `radd` (R432, R433): posted where d is s0. -/
def execRadd (p : PredNo) (d a b : RegNo) (s : State) : Ans :=
  issue s (fabHead (.radd p d a b) p [.s a.toNat, .s b.toNat] [.s d.toNat]) fun s =>
    match s.fabCheck (s.sv a) none 6 (if d = 0 then none else some 2) with
    | some (c, v) => .trap c v
    | none =>
      if 64 ≤ s.th.fabCnt then .wait s .count
      else if !s.flown s.cur || !s.th.pen.isEmpty then .wait s .order
      else
        let (id, s1) := s.fresh
        .retire ((s1.modTh fun t => t.pendS d.toNat).depart
          { id := id, tid := s.cur, kind := .radd, peer := remotePeer (s.sv a), oper := s.sv a, places := [], target := []
            nw := 1, lva := 0, data := [], sig := 0, inc := 0, opnd := s.sv b, dest := .scalar d.toNat 8 false, group := 0, mcount := 1
            resp := none })

/-! ## Service at the target (R317-R319, R427) -/

/-- One indivisible add at a place: the old value; a word that holds the poison code keeps it (R213, R496). -/
def State.addAt (s : State) (p : Place) (x : Word) : Dword × State :=
  let (old, poison, s) := s.readPlace p 8
  if poison then ((0, true), s)
  else ((BitVec.ofNat 64 old, false), s.writePlace p 8 ((BitVec.ofNat 64 old + x).toNat))

/-- What the target does once R427 has passed: the response. -/
def State.serveDo (s : State) (kind : FabKind) (data : List Dword) (inc opnd : Word) (ps : List (List Place)) : FabResp × State :=
  let first := ps.headD []
  match kind with
  | .put => (.ok [], s.writeDwords first data)
  | .puts =>
    let s := s.writeDwords first data
    (.ok [], ((ps.getD 1 []).foldl (fun s p => (s.addAt p inc).2) s))
  | .get =>
    let (xs, s) := s.readDwords first
    (.ok xs, s)
  | .radd =>
    match first with
    | p :: _ =>
      let (v, s) := s.addAt p opnd
      (.ok [v], s)
    | [] => (.ok [], s)
  | .mstore | .mload => (.ok [], s)

/-- Serve an operation: the response, or none while a lock or an owner holds one of its places. -/
def State.serve (s : State) (kind : FabKind) (job : BitVec 16) (addr nw : Nat) (data : List Dword) (sig : Nat)
    (inc opnd : Word) : Option (FabResp × State) :=
  match s.serveCheck job kind.cap (kind.ranges addr nw sig) with
  | .refused sub => some (.refused sub, s)
  | .wait => none
  | .ok ps =>
    if ps.any (fun l => l.any fun p => if kind == .get then s.heldRead p 8 else s.heldAt p 8) then none else some (s.serveDo kind data inc opnd ps)

/-- Does an operation come before the signal of a later `puts` of its thread to the same module (R318)? -/
def FabKind.signals : FabKind → Bool
  | .put | .puts | .radd => true
  | .get | .mstore | .mload => false

/-- Must an operation of this module toward itself wait for an earlier one: of the same bytes, or before its signal (R205,
R318)? -/
def State.ownWaits (s : State) (o : FabOp) : Bool :=
  s.ownBefore o.tid o.id o.target || o.kind == .puts && s.fabops.any fun p =>
    p.tid == o.tid && p.peer == o.peer && decide (p.id < o.id) && p.resp.isNone && p.kind.signals

/-- Must a `puts` of another module wait here for an earlier operation of its thread (R318)? -/
def State.peerWaits (s : State) (x : Incoming) (kind : FabKind) (q : FabReq) : Bool :=
  kind == .puts && s.incoming.any fun y => y.peer == x.peer && decide (y.id < x.id) && match y.what with
    | .op k r => r.tid == q.tid && k.signals
    | .replica _ | .collect _ => false

/-- Hold what another module's packets have brought, under a number of its own. -/
def State.receive (s : State) (peer : Nat) (what : Arrived) : Nat × State :=
  let (id, s) := s.fresh
  (id, { s with incoming := s.incoming ++ [⟨id, peer, what⟩] })

/-- Strike off an operation that has been served. -/
def State.strikeOff (s : State) (id : Nat) : State := { s with incoming := s.incoming.filter fun x => x.id != id }

/-- The response to an operation of another module, its data in packets of at most 256 bytes. -/
def State.respondTo (s : State) (peer : Nat) (q : FabReq) (r : FabResp) : State :=
  match r with
  | .ok (x :: xs) => (packetParts q.addr.toNat (x :: xs)).foldl (fun s p => s.sendTo peer (.response q.reqId (.ok p.2))) s
  | .ok [] | .refused _ => s.sendTo peer (.response q.reqId r)

/-- Serve an accepted operation of another module, or keep it waiting. -/
def State.serveHeld (s : State) (id : Nat) : State :=
  match s.incoming.find? fun x => x.id == id with
  | none => s
  | some x =>
    match x.what with
    | .replica _ | .collect _ => s
    | .op kind q =>
      let again := s.owe (kind.again (.held id))
      let nw := match kind with
        | .put | .puts => q.data.length
        | .get | .radd | .mstore | .mload => q.nw
      if s.peerWaits x kind q then again
      else match s.serve kind q.job q.addr.toNat nw q.data q.sig.toNat (q.inc.setWidth 64) q.opnd with
        | none => again
        | some (r, s) => (s.strikeOff id).respondTo x.peer q r

/-- The packets in which an operation arrives. -/
def reqPackets (q : FabReq) : Nat := packets q.addr.toNat q.data.length

/-- An operation arrives: one of this module's own, one in packets of another module, dropped where R428 says so, or one that
has waited here. -/
def State.fabArrival (s : State) (kind : FabKind) (src : FabSrc) : State :=
  match src with
  | .own id =>
    match s.fabops.find? fun o => o.id == id && o.kind == kind && o.peer == s.ident.toNat && o.resp.isNone with
    | none => s
    | some o =>
      if s.ownWaits o then s.owe o.serve
      else match s.serve kind (s.jobOf (o.tid / 16)) (operandAddr o.oper) o.nw o.data o.sig.toNat (o.inc.setWidth 64) o.opnd with
        | none => s.owe o.serve
        | some (r, s) =>
          let ops := s.fabops.map fun p : FabOp => if p.id = id then { p with resp := some r } else p
          { s with fabops := ops }.owe (.respond id r)
  | .peer hs q =>
    let peer := (senderOf hs).getD 0
    let (ok, s) := s.takeFrom peer (reqPackets q) hs
    if !ok then s
    else
      let (id, s) := s.receive peer (.op kind q)
      s.serveHeld id
  | .held id => s.serveHeld id

/-- FABRIC_PUT_ARRIVAL (R427, R433). -/
def execFabricPutArrival (src : FabSrc) (s : State) : Ans := .next (s.fabArrival .put src)

/-- FABRIC_PUTS_ARRIVAL (R318, R427, R433). -/
def execFabricPutsArrival (src : FabSrc) (s : State) : Ans := .next (s.fabArrival .puts src)

/-- FABRIC_GET_ARRIVAL (R319, R427, R433). -/
def execFabricGetArrival (src : FabSrc) (s : State) : Ans := .next (s.fabArrival .get src)

/-- FABRIC_RADD_ARRIVAL (R319, R427, R433). -/
def execFabricRaddArrival (src : FabSrc) (s : State) : Ans := .next (s.fabArrival .radd src)

/-! ## Responses and refusals (R433-R435) -/

/-- KIND of a refusal record. -/
def FabKind.code : FabKind → Nat
  | .put => 1
  | .puts => 2
  | .get => 3
  | .radd => 4
  | .mstore | .mload => 5

/-- The refusal record of a slot in its core's local memory (R435). -/
def recordAddr (tid : Nat) : Nat := 0xF5000 + 128 * (tid % 16)

/-- Is a slot's refusal record under a lock, so that its write waits (R322)? -/
def State.recordHeld (s : State) (tid : Nat) : Bool := !s.swappedOut tid && s.lockedBy (fun _ => true) (tid / 16) (recordAddr tid) 128

/-- Write the refusal record of a thread's slot (R435): members that did not answer, negative and positive responses,
members expected, and (subcode, peer) of the first negative responders. -/
def State.refusalRecord (s : State) (o : FabOp) (miss neg pos mcount : Nat) (naks : List (Nat × Nat)) : State :=
  let s := s.modCtx o.tid fun t => { t with refSeq := t.refSeq + 1 }
  let nak := fun k : Nat => match naks[k]? with
    | some (sub, peer) => sub * 2 ^ 24 + peer
    | none => 0
  let words := [(s.ctx o.tid).refSeq.toNat * 2 ^ 48 + o.kind.code, o.oper.toNat,
    miss * 2 ^ 48 + neg * 2 ^ 32 + pos * 2 ^ 16 + mcount] ++
    (List.range 8).map (fun k => nak (2 * k) + 2 ^ 32 * nak (2 * k + 1)) ++ List.replicate 5 0
  let at_ := recordAddr o.tid
  if s.swappedOut o.tid then
    { s with mem := s.mem.storeWords (Region.shadowLocal (o.tid / 16) + at_) (fun k => words.getD k 0) 16 }
  else s.putWords (o.tid / 16) at_ words

/-- Drop an operation: it counts no longer, its lock is released. -/
def State.dropFab (s : State) (o : FabOp) : State :=
  let s := { s with fabops := s.fabops.filter fun p => p.id != o.id }
  match o.kind with
  | .mstore | .mload => s
  | _ => (s.unlock o.id false).modCtx o.tid fun t => { t with fabCnt := t.fabCnt - 1 }

/-- End an operation that the target refused or that timed out (R434): the record first, then the sticky bit or the
poison. -/
def State.refuseFab (s : State) (o : FabOp) (sub : BitVec 8) (answered : Bool) : State :=
  let s := if answered then s.refusalRecord o 0 1 0 1 [(sub.toNat, o.peer)] else s.refusalRecord o 1 0 0 1 []
  let s := s.dropFab o
  match o.dest with
  | .scalar 0 _ _ | .none | .vector _ _ | .pair _ => s.modCtx o.tid fun t => { t with errFab := true }
  | .scalar r _ _ => s.modCtx o.tid fun t => t.late fun t => t.poisonS r sub

/-- What the response to an operation does, or none while the places that it writes are held. -/
def State.respond (s : State) (o : FabOp) (r : FabResp) : Option State :=
  match r with
  | .refused sub => if s.recordHeld o.tid then none else some (s.refuseFab o sub true)
  | .ok data =>
    match o.kind with
    | .get =>
      if s.ownBefore o.tid o.id o.places || o.places.any fun p => s.heldFor p 8 o.id || s.noWay p o.id then none
      else some ((s.writeDwords o.places data).dropFab o)
    | .radd =>
      let s := s.dropFab o
      some (match o.dest, data with
        | .scalar 0 _ _, (_, true) :: _ => s.modCtx o.tid fun t => { t with errFab := true }
        | .scalar d _ _, (v, poison) :: _ => s.modCtx o.tid fun t => t.late fun t => if poison then t.poisonS d 0 else t.setS d v
        | _, _ => s)
    | .put | .puts | .mstore | .mload => some (s.dropFab o)

/-- The packets in which a response comes: the data of a `get` at the 256-byte boundaries of its target, else one. -/
def FabOp.answers (o : FabOp) (r : FabResp) : Nat :=
  match o.kind, r with
  | .get, .ok _ => packets (operandAddr o.oper) o.nw
  | _, _ => 1

/-- A response takes effect, or is kept while it must wait for the places it writes. -/
def State.answerFab (s : State) (o : FabOp) (r : FabResp) : State :=
  match s.respond o r with
  | some s => s
  | none =>
    { s with fabops := s.fabops.map fun p : FabOp => if p.id = o.id then { p with resp := some r } else p }.owe (.respond o.id r)

/-- FABRIC_RESPONSE (R428, R433, R434): a response to an operation of this module toward itself, or one that has waited here; else
one in packets of another module, which are authenticated first, and taken for an operation that awaits it from there: a late
one is discarded. -/
def execFabricResponse (id : Nat) (r : FabAnswer) (s : State) : Ans :=
  let op := s.fabops.find? fun o => o.id == id && o.kind != .mstore && o.kind != .mload
  match op.filter fun o => r.hs.isEmpty && o.resp == some r.resp with
  | some o => .next (s.answerFab o r.resp)
  | none =>
    if r.hs.isEmpty then .next s
    else
      let peer := (senderOf r.hs).getD 0
      let n := match op with
        | none => r.hs.length
        | some o => o.answers r.resp
      let (ok, s) := s.takeFrom peer n r.hs
      match op with
      | none => .next s
      | some o =>
        .next (if ok && peer == o.peer && peer != s.ident.toNat && o.resp.isNone then s.answerFab o r.resp else s)

/-! ## Reductions (R436, R440, R459) -/

/-- The value from which a reduction starts (R440). -/
def foldStart : TkOp → TkFmt → Nat
  | .sum, _ => 0
  | .min, .f32 | .min, .bf16 | .min, .f32p => Fmt.f32.infBits
  | .max, .f32 | .max, .bf16 | .max, .f32p => Fmt.f32.signBit + Fmt.f32.infBits
  | .min, .i32 => 2 ^ 31 - 1
  | .min, .i64 => 2 ^ 63 - 1
  | .max, .i32 => 2 ^ 31
  | .max, .i64 => 2 ^ 63
  | .and, .i64 => 2 ^ 64 - 1
  | .and, _ => 2 ^ 32 - 1
  | .or, _ => 0

/-- A float step. -/
def foldFloat (op : TkOp) (a x : Nat) : Nat :=
  match op with
  | .min => (fmin .f32 a x).1
  | .max => (fmax .f32 a x).1
  | .sum | .and | .or => (fadd .f32 .rne a x).1

/-- An integer step on n bits. -/
def foldInt (op : TkOp) (n a x : Nat) : Nat :=
  match op with
  | .sum => (a + x) % 2 ^ n
  | .min => if sint n x < sint n a then x else a
  | .max => if sint n a < sint n x then x else a
  | .and => a &&& x
  | .or => a ||| x

/-- A step on FP32 pairs, s low: min and max choose by s alone and keep the pair whole; where either s is NaN no pair is
chosen and the result is (canonical NaN, +0.0). -/
def foldPair (op : TkOp) (a x : Nat) : Nat :=
  let (s, c) := (a % 2 ^ 32, a / 2 ^ 32)
  let (xs, xc) := (x % 2 ^ 32, x / 2 ^ 32)
  match op with
  | .sum | .and | .or =>
    let (s1, c1, _) := pairAdd s c xs
    let (s2, c2, _) := pairAdd s1 c1 xc
    s2 + 2 ^ 32 * c2
  | .min | .max =>
    let r := foldFloat op s xs
    if Fmt.f32.num r == .nan then r
    else if Fmt.f32.num s == Fmt.f32.num xs then a
    else if r = s then a else x

/-- One step of a reduction with a member's value. For BF16 the accumulator is FP32 (R440). -/
def foldStep (op : TkOp) (fmt : TkFmt) (a x : Nat) : Nat :=
  match fmt with
  | .f32 => foldFloat op a x
  | .bf16 => foldFloat op a (widen .bf16 x)
  | .f32p => foldPair op a x
  | .i32 => foldInt op 32 a x
  | .i64 => foldInt op 64 a x

/-- What is delivered of an accumulator. -/
def foldEnd (fmt : TkFmt) (a : Nat) : Nat :=
  match fmt with
  | .bf16 => (fconv .f32 .bf16 .rne a).1
  | .f32 | .f32p | .i32 | .i64 => a

/-- The whole reduction of the members' values, in ascending member index (R440). -/
def foldMembers (op : TkOp) (fmt : TkFmt) (xs : List Nat) : Nat := foldEnd fmt (xs.foldl (foldStep op fmt) (foldStart op fmt))

/-! ## Multicast (R436-R440) -/

/-- The place in the receiving paddock of an offset into a group, if the last row of R427 allows it. -/
def State.memberPlace (s : State) (e : Word × Word) (acc : Acc) (off : Nat) : Option Place :=
  match s.jobPaddock (BitVec.ofNat 16 (bits e.1.toNat 15 0)) with
  | none => none
  | some (_, d) =>
    match (s.walkFree.translate (coreAt d.xlo d.ylo) false acc (bits e.2.toNat 47 0 + off)).1 with
    | .ok t => match t.kind with
      | .mesh | .page .so | .page .rc | .page .un => some t.place
      | .priv | .bins | .page .yard | .page .mcast | .page .host => none
    | _ => none

/-- The refusal of `member_receive` (R438), if there is one; a member without the capability answers UNSUPPORTED (R437). -/
def State.memberRefuses (s : State) (e : Word × Word) (acc : Acc) (cap : Nat) (offs : List Nat) : Option (BitVec 8) :=
  if !mcastValid e || !e.1.getLsbD 61 then some 2
  else if e.1.getLsbD 60 then some 5
  else if offs.any fun o => decide (2 ^ bits e.2.toNat 63 56 ≤ o) then some 2
  else if !s.ownCap cap then some 1
  else if offs.any fun o => (s.memberPlace e acc o).isNone then some 2
  else none

/-- Write bytes at offsets into a group's region in one step: whole aligned doublewords, and other bytes one by one. -/
def State.writeMember (s : State) (e : Word × Word) (data : List (Nat × Byte)) : State :=
  let words := (data.map fun b => b.1 / 8).eraseDups
  s.writeTogether (words.flatMap fun w =>
    let byte := fun k => (data.find? fun b => b.1 == 8 * w + k).map fun b => b.2.toNat
    match s.memberPlace e .store (8 * w) with
    | none => []
    | some p =>
      if (List.range 8).all fun k => (byte k).isSome then
        [(p, 8, (List.range 8).foldr (fun k v => (byte k).getD 0 + 256 * v) 0)]
      else (List.range 8).filterMap fun k => (byte k).map fun v => (p.add k, 1, v))

/-- Is the receiving paddock of a group swapped out, or one of the places held? -/
def State.memberHeld (s : State) (e : Word × Word) (acc : Acc) (offs : List Nat) : Bool :=
  (match s.jobPaddock (BitVec.ofNat 16 (bits e.1.toNat 15 0)) with
    | none => false
    | some (_, d) => d.out) ||
  offs.any fun o => match s.memberPlace e acc o with
    | none => false
    | some p => if acc == .load then s.heldRead p 1 else s.heldAt p 1

/-- What a member does with a replica, and its response; none while it must wait (R438). -/
def State.replicate (s : State) (q : McastReq) : Option (FabResp × State) :=
  let e := tget (0, 0) s.mcast q.group
  let offs := q.off :: q.data.map fun b => b.1
  match s.memberRefuses e .store 3 offs with
  | some sub => some (.refused sub, s)
  | none => if s.memberHeld e .store offs then none else some (.ok [], s.writeMember e q.data)

/-- The value that a member returns to a multicast load, the poison code with it; none while it must wait (R440). -/
def State.collect (s : State) (q : McastReq) : Option (FabResp × State) :=
  let e := tget (0, 0) s.mcast q.group
  match s.memberRefuses e .load 4 [q.off] with
  | some sub => some (.refused sub, s)
  | none =>
    if s.memberHeld e .load [q.off] then none
    else match s.memberPlace e .load q.off, mcastOp e.2 with
      | some p, some (_, fmt) =>
        let (v, poison, s) := s.readPlace p (fmtBytes fmt)
        some (.ok [(if poison then 0 else BitVec.ofNat 64 v, poison)], s)
      | _, _ => some (.refused 2, s)

/-- A multicast operation of this module as it reaches the module itself. -/
def State.ownMcast (s : State) (id : Nat) (kind : FabKind) : Option (FabOp × McastReq) :=
  match s.fabops.find? fun o => o.id == id && o.kind == kind && o.resp.isNone, s.flight id with
  | some o, some f =>
    let off := match f.elems with
      | [] => 0
      | x :: _ => match x.place with
        | .mcast _ p => p - x.lane * x.w
        | _ => 0
    some (o, ⟨o.group, off, id, if kind == .mstore then mcastBytes f.elems else []⟩)
  | _, _ => none

/-- Must a replica wait for an earlier one of the same thread or sender to the same group (R320)? -/
def State.replicaWaits (s : State) (src : McastSrc) (q : McastReq) : Bool :=
  match src with
  | .own => s.fabops.any fun o => o.kind == .mstore && o.group == q.group && decide (o.id < q.reqId) && o.resp.isNone &&
      (s.fabops.any fun p => p.id == q.reqId && p.tid == o.tid)
  | .held id => (s.incoming.find? fun x => x.id == id).any fun x =>
      s.incoming.any fun y => y.peer == x.peer && decide (y.id < id) && match y.what with
        | .replica r => r.group == q.group
        | .op _ _ | .collect _ => false
  | .peer _ => false

/-- A multicast operation reaches this member once, and its response sets out for the switches: one of this module, one in an
authenticated packet, dropped where R428 says so, or one that has waited here. -/
def State.member (s : State) (load : Bool) (src : McastSrc) (q : McastReq) : State :=
  let what : Arrived := if load then .collect q else .replica q
  let act := fun (s : State) (src : McastSrc) (done : State → FabResp → State) =>
    match if !load && s.replicaWaits src q then none else if load then s.collect q else s.replicate q with
    | none => s.owe (if load then .collect src q else .replica src q)
    | some (r, s) => (done s r).sendTree q.group (.response q.reqId r)
  let held := fun (s : State) (id : Nat) =>
    if s.incoming.any fun x => x.id == id && x.what == what then act s (.held id) fun s _ => s.strikeOff id else s
  match src with
  | .own =>
    if (s.ownMcast q.reqId (if load then .mload else .mstore)).any fun x => x.2 == q then
      act s .own fun s r =>
        { s with fabops := s.fabops.map fun p : FabOp => if p.id = q.reqId then { p with resp := some r } else p }
    else s
  | .peer h =>
    let (ok, s) := s.takeHdr (s.groupKey q.group) h
    if !ok then s
    else
      let (id, s) := s.receive h.peer what
      held s id
  | .held id => held s id

/-- MULTICAST_REPLICA (R320, R438): a replica reaches this member, which performs or refuses it. -/
def execMulticastReplica (group off : Nat) (src : McastSrc) (reqId : Nat) (data : List (Nat × Byte)) (s : State) : Ans :=
  .next (s.member false src ⟨group, off, reqId, data⟩)

/-- MULTICAST_LOAD_COLLECT (R440): this member returns the value at its place. -/
def execMulticastLoadCollect (group off : Nat) (src : McastSrc) (reqId : Nat) (s : State) : Ans :=
  .next (s.member true src ⟨group, off, reqId, []⟩)

/-- End the flight of a multicast access: refused with a subcode, poisoned, or with a value. -/
def State.endMcast (s : State) (o : FabOp) (sub : Option (BitVec 8)) (poison : Bool) (v : Nat) : State :=
  let s := { s with fabops := s.fabops.filter fun p => p.id != o.id }
  match s.flight o.id with
  | none => s
  | some f =>
    s.endFlight { f with elems := f.elems.map fun e =>
      { e with data := if f.kind == .load then overlay e.laid v else e.data, done := true, refused := sub, poison := poison } }

/-- Is an earlier multicast store of the same thread to the same group still without its acknowledgement (R472)? -/
def State.mstoreBefore (s : State) (o : FabOp) : Bool :=
  s.fabops.any fun p => p.kind == .mstore && p.tid == o.tid && p.group == o.group && decide (p.id < o.id)

/-- The multicast operation of a group that awaits what the switches bring back. -/
def State.mcastOpOf (s : State) (id group : Nat) (kind : FabKind) : Option FabOp :=
  s.fabops.find? fun o => o.id == id && o.kind == kind && o.group == group

/-- MULTICAST_ACK (R428, R439, R472, R473): the aggregated acknowledgement in an authenticated packet, taken in the order in
which a thread's stores to a group issued, and once a refusal record may be written. -/
def execMulticastAck (id : Nat) (n : AckCounts) (naks : List (Nat × BitVec 8)) (hdr : PktHdr) (s : State) : Ans :=
  let (ok, s) := s.takeOne (s.groupKey n.group) hdr
  if !ok then .next s
  else match s.mcastOpOf id n.group .mstore with
    | none => .next s
    | some o =>
      let miss := o.mcount - n.pos - n.neg
      let good := decide (n.neg = 0) && decide (miss = 0)
      if s.mstoreBefore o || !good && s.recordHeld o.tid then .next (s.holdBack [hdr])
      else if good then .next (s.endMcast o none false 0)
      else
        let s := s.refusalRecord o miss n.neg n.pos o.mcount ((naks.take 16).map fun x => (x.2.toNat, x.1))
        let sub := match naks with
          | [] => 6
          | x :: _ => x.2
        .next (s.endMcast o (some sub) false 0)

/-- MULTICAST_LOAD_RESULT (R428, R440): the fold of the members' values, none for a poisoned one, or the first refusal, in an
authenticated packet. -/
def execMulticastLoadResult (id : Nat) (r : McastFold) (hdr : PktHdr) (s : State) : Ans :=
  let (ok, s) := s.takeOne (s.groupKey r.group) hdr
  if !ok then .next s
  else match s.mcastOpOf id r.group .mload with
    | none => .next s
    | some o =>
      match r.nak, mcastOp (tget (0, 0) s.mcast o.group).2 with
      | some sub, _ => .next (s.endMcast o (some sub) false 0)
      | none, none => .next s
      | none, some (op, fmt) =>
        if r.vals.length ≠ o.mcount then .next s
        else
          let xs := r.vals.map fun v => match v with
            | none => 0
            | some v => v.toNat % 256 ^ fmtBytes fmt
          .next (s.endMcast o none (r.vals.any (·.isNone)) (foldMembers op fmt xs))

/-- An access or a copy that awaits another module's answer is refused with TIMEOUT (R203, R261, R343, R396). -/
def State.timeOut (s : State) (id : Nat) : State :=
  match s.flight id with
  | some f => s.settleFlight { f with elems := f.elems.map fun e => if e.awaits none then e.answered (.refused 6) else e }
  | none => match s.askedOf id with
    | none => s
    | some p => s.answerCopy id (some p) (.refused 6)

/-- FABRIC_TIMEOUT (R261, R343, R434, R439, R440, R472): an operation, an access or a copy without a response ends with TIMEOUT,
where it writes a refusal record once that may be written. -/
def execFabricTimeout (id : Nat) (s : State) : Ans :=
  match s.fabops.find? fun o => o.id == id with
  | none => .next (s.timeOut id)
  | some o =>
    match o.kind with
    | .mstore =>
      .next (if s.mstoreBefore o || s.recordHeld o.tid then s
        else (s.refusalRecord o o.mcount 0 0 o.mcount []).endMcast o (some 6) false 0)
    | .mload => .next (s.endMcast o (some 6) false 0)
    | .put | .puts | .get | .radd => .next (if o.resp.isSome || s.recordHeld o.tid then s else s.refuseFab o 6 false)

/-- Every reachable peer, and each that is to join, is sent the module's REV and CAP words when the group changes (R424). -/
def State.exchangeCaps (s : State) : State :=
  (s.peers.filter fun p => p.1 != s.ident.toNat && p.2.getLsbD 63 && (p.2.getLsbD 62 || s.joining.contains p.1)).foldl
    (fun s p => s.sendTo p.1 (.capability 1 0x3F)) s

/-- CAPABILITY_EXCHANGE (R424, R425, R443): the REV and CAP words of `peer` in its own authenticated packet. They are kept for
a peer that is reachable or is to join; one that is to join is reachable from then on, unless the agreement key is stale: then
its packet is not taken yet. -/
def execCapabilityExchange (peer : Nat) (rev cap : BitVec 8) (hdr : PktHdr) (s : State) : Ans :=
  let p := hdr.peer
  let e := tget 0 s.peers p
  let joins := s.joining.contains p
  let (ok, s) := s.takeOne (s.fabKey p) hdr
  if !ok then .next s
  else if joins && s.agrStale then .next (s.holdBack [hdr])
  else if p != peer || !e.getLsbD 63 || !(joins || e.getLsbD 62) then .next s
  else
    let v := (e &&& ~~~(0xFFFF : Word)) ||| (rev.setWidth 64 <<< 8) ||| cap.setWidth 64 ||| (1 <<< 62)
    .next { s with peers := tset s.peers p v, joining := s.joining.filter fun q => q != p }

end Sys2Proof.Machine
end

