-- ==== Sys2Proof/Machine/Tile.lean ====
section
/-! DEFINITION. The tile engine and the stack-side engine (R352-R378). -/

namespace Sys2Proof

/-- Bytes of a block of one row (R359). -/
def MmaFmt.blockBytes : MmaFmt → Nat
  | .mx f => f.blockBytes
  | .bf16 => 64

end Sys2Proof

namespace Sys2Proof.Machine

/-! ## Groups of commands (R366) -/

/-- The sealed groups of a thread that are not complete: GRP (R356). -/
def Thread.sealedGroups (t : Thread) : Nat :=
  ((t.tgroups ++ t.tstopped).filter fun g => decide (g < t.commits)).eraseDups.length

/-- What `mwait` waits for: those groups and, once a path is kept, the buffered commands that have still to issue (R252, R367). -/
def Thread.openGroups (t : Thread) : Nat := t.sealedGroups + (t.pen.filter fun i => i.cmdId.isSome).length

/-- Commands of the open group not complete, stopped ones among them; UNC counts to 16 (R356; DEDUCED, log entry 28). -/
def Thread.uncommitted (t : Thread) : Nat := min 16 ((t.tgroups ++ t.tstopped).filter fun g => g == t.commits).length

/-! ## Operand checks (R360, R362, R365, R374-R376) -/

/-- Does the private range `lo` to `lo + n - 1` lie in local memory, and is user code kept from it? -/
def State.area (s : State) (lo n cause : Nat) (shape : Word) : Bad :=
  if inPrivate lo n = false then some (25, shape)
  else if s.user && decide (lo < (s.core s.here).xbound.toNat) then some (cause, faultVal lo 0)
  else none

/-- A row matrix of `mma`: its base and row stride; `shape` is TVAL of SHAPE. -/
def State.rows (s : State) (base stride : Nat) (shape : Word) : Bad :=
  if base % 16 ≠ 0 ∨ stride % 16 ≠ 0 ∨ stride < 192 then some (25, shape)
  else s.area base (63 * stride + 192) 5 shape

/-- Blocks named by a scale descriptor. -/
def scaleBlocks (v : Word) : Nat := bits v.toNat 35 32
/-- Does a scale descriptor name no area? -/
def scaleUnit (v : Word) : Bool := v.getLsbD 40
/-- Address of a scale area. -/
def scaleAddr (v : Word) : Nat := bits v.toNat 19 0
/-- Bytes of a scale area (R363). -/
def scaleSize (vec : Bool) (nb : Nat) : Nat := if vec then 512 + 4096 * nb else 128 * nb

/-- The scale descriptor of `msacc` (R362). -/
def State.scale (s : State) (vec : Bool) (pb : Nat) (v : Word) : Bad :=
  let nb := scaleBlocks v
  if bits v.toNat 63 41 ≠ 0 ∨ bits v.toNat 39 36 ≠ 0 ∨ bits v.toNat 31 20 ≠ 0 ∨ nb = 0 ∨ 12 < nb ∨ 12 < pb + nb then
    some (25, v)
  else if scaleUnit v then none
  else if scaleAddr v % 64 ≠ 0 then some (25, v)
  else s.area (scaleAddr v) (scaleSize vec nb) 5 v

/-- The address of `mldz` and `mstz`, with `w` bytes for each element (R365). -/
def State.region (s : State) (a : Word) (w cause : Nat) : Bad :=
  if a.toNat % 64 ≠ 0 then some (25, a) else s.area a.toNat (4096 * w) cause a

/-- Blocks of an `mvs` descriptor (R374). -/
def mvsBlocks (v : Word) : Nat := bits v.toNat 19 16 + 1
/-- Rows of an `mvs` descriptor. -/
def mvsRows (v : Word) : Nat := bits v.toNat 11 0 + 1
/-- B's virtual address. -/
def mvsAddr (v : Word) : Nat := bits v.toNat 47 21 * 2 ^ 21

/-- The descriptor and the A area of `mvs` (R374, R375). -/
def State.mvsArea (s : State) (pb : Nat) (a v : Word) : Bad :=
  if bits v.toNat 63 48 ≠ 0 ∨ v.getLsbD 20 = true ∨ bits v.toNat 15 12 ≠ 0 ∨ 12 < mvsBlocks v ∨ 12 < pb + mvsBlocks v then
    some (25, v)
  else if a.toNat % 64 ≠ 0 then some (25, a)
  else s.area a.toNat (512 + 4096 * mvsBlocks v) 5 a

/-- The translation of B (R376): its physical address and key, or a trap, or a wait for a walk. -/
def State.mvsBase (s : State) (v : Word) : Except NoPlace (Nat × Nat) × State :=
  let va := mvsAddr v
  if !isTranslated va then (.error (.trap 13 (faultVal va 0)), s)
  else
    let (w, s) := s.lookup s.here va
    match w with
    | .invalid => (.error (.trap 13 (faultVal va 0)), s)
    | .noKey _ => (.error (.trap 5 (faultVal va 0)), s)
    | .poison => (.error (.trap 26 poisonRead), s)
    | .busy => (.error .busy, s)
    | .leaf size e =>
      match Leaf.of e with
      | none => (.error (.trap 13 (faultVal va 0)), s)
      | some l =>
        if (s.user && !l.u) || !l.r then (.error (.trap 13 (faultVal va 0)), s)
        else if size < 21 then (.error (.trap 25 v), s)
        else match l.kind with
          | .so | .rc | .un => (.ok (l.frame * 2 ^ 16 + va % 2 ^ size, l.key), s)
          | .yard | .mcast | .host => (.error (.trap 5 (faultVal va 0)), s)

/-- Blocks of a command. -/
def TileCmd.blocks (c : TileCmd) : Nat :=
  match c.op with
  | .mma f _ => f.blocks
  | .msacc _ _ _ => scaleBlocks c.opa
  | .mzero _ | .mldz _ | .mstz _ _ _ | .mvs _ _ => 1

/-- Check the operands of a command; SHAPE for a record of `mma` holds `ra` or `rb`. For `mvs`, B is translated. -/
def State.tileCheck (s : State) (c : TileCmd) (ra rb : Word) : Except NoPlace TileCmd × State :=
  let plain := fun (b : Bad) => match b with
    | some x => (Except.error (NoPlace.trap x.1 x.2), s)
    | none => (Except.ok c, s)
  match c.op with
  | .mma _ _ => plain ((s.rows c.opa.toNat c.sta.toNat ra).orElse fun _ => s.rows c.opb.toNat c.stb.toNat rb)
  | .msacc vec _ pb => plain (s.scale vec pb c.opa)
  | .mzero _ => plain none
  | .mldz _ => plain (s.region c.opa 4 5)
  | .mstz bf _ _ => plain (s.region c.opa (if bf then 2 else 4) 7)
  | .mvs _ pb =>
    match s.mvsArea pb c.opa c.opb with
    | some x => (.error (.trap x.1 x.2), s)
    | none =>
      match s.mvsBase c.opb with
      | (.error x, s) => (.error x, s)
      | (.ok (pa, key), s) => (.ok { c with bpa := pa, bkey := key }, s)

/-- The spans of a command in local memory: source or not, first byte, one past the last (R354). -/
def TileCmd.spans (c : TileCmd) : List (Bool × Nat × Nat) :=
  let a := c.opa.toNat
  match c.op with
  | .mma _ _ =>
    [(true, a, a + 63 * c.sta.toNat + 192), (true, c.opb.toNat, c.opb.toNat + 63 * c.stb.toNat + 192)]
  | .msacc vec _ _ =>
    if scaleUnit c.opa then [] else [(true, scaleAddr c.opa, scaleAddr c.opa + scaleSize vec (scaleBlocks c.opa))]
  | .mzero _ => []
  | .mldz _ => [(true, a, a + 16384)]
  | .mstz bf _ _ => [(false, a, a + if bf then 8192 else 16384)]
  | .mvs _ _ => [(true, a, a + 512), (false, a + 512, a + 512 + 4096 * mvsBlocks c.opb)]

/-! ## Issue (R353, R354) -/

/-- The lowest free queue entry. -/
def freeEntry (q : List TileCmd) : Option Nat := (List.range 16).find? fun e => !(q.any fun c => c.entry == e)

/-- The home slices write back every dirty line of the region of B that an `mvs` reads (R377). -/
def State.flushB (s : State) (c : TileCmd) : State :=
  match c.op with
  | .mvs f _ => s.cleanRange c.bpa ((f.blockBytes + 1) * 4096 * mvsBlocks c.opb)
  | .mma _ _ | .msacc _ _ _ | .mzero _ | .mldz _ | .mstz _ _ _ => s

/-- The issue of a command whose checks are done; a command that is not revived joins the thread's open group. One that enters
the queue between PREEMPT and RESUME is to stop at once (R368). -/
def State.tileIssue (s : State) (c : TileCmd) (record : Option Nat) : Except Wait State :=
  let core := c.tid / 16
  let (ser, s) := s.fresh
  let locks := c.spans.map fun x => (core, (⟨ser, x.1, x.2.1, x.2.2⟩ : Lock))
  if !s.settled c.tid then .error .order
  else match freeEntry (s.core core).tileQ with
    | none => .error .queue
    | some e =>
      if !s.lockRoom locks then .error .queue
      else
        let t := s.thread c.tid
        let g := if record.isSome then c.group else t.commits
        let out := (s.core core).preempted
        let c := { c with ser := ser, entry := e, group := g, stop := if out then some (c.next, true) else none }
        let s := ((s.flushB c).lock locks).modCore core fun k => { k with tileQ := k.tileQ ++ [c] }
        let s := s.modThread c.tid fun t =>
          { t with
              tgroups := t.tgroups ++ [g], tstopped := if record.isSome then t.tstopped.erase g else t.tstopped }
        .ok (s.owe (if out then .tileStop core e c.next else .tileStart core e))

/-- An instruction of the TILE major. -/
def tileHead (i : Instr) (p : PredNo) (uses : List RName) : Head := ⟨i, p, false, false, .own, uses, []⟩

/-- Check, then issue a command or put it into the commit buffer; `record` is the continuation record that `mresume` revives, and
that is from then on, or from the resolution of the path, no record of the thread's chain (R380). -/
def tileAct (s : State) (c : TileCmd) (ra rb : Word) (record : Option Nat) : Act :=
  match s.tileCheck c ra rb with
  | (.error e, _) => e.act s
  | (.ok c, s') =>
    if s.th.spec.isSome then s'.buffer (.tile c [] record)
    else if !s.th.pen.isEmpty then .wait s .order
    else match s'.tileIssue c record with
      | .error w => .wait s w
      | .ok s => .retire (s.modTh fun t => t.dropRecords record.toList)

/-- A command as the current thread issues it. -/
def State.newTile (s : State) (i : Instr) (op : TileOp) (opa opb sta stb : Word) : TileCmd :=
  { entry := 0, ser := 0, tid := s.cur, op := op, insn := encode i, group := 0, next := 0, opa := opa, opb := opb
    sta := sta, stb := stb, bpa := 0, bkey := 0, started := false, srcDone := false, stop := none, narrow := false, flags := 0 }

/-- The fixed fields of a record of `mma` (R360). -/
def Shape.matrix (r : Shape) : Bool :=
  r.rank == 2 && r.elog == 0 && r.n.getD 0 0 == 192 && r.st.getD 0 0 == 1 && r.n.getD 1 0 == 64 &&
    decide (0 ≤ r.st.getD 1 0)

/-- Read and check one record of `mma`: its base and row stride. -/
def matrixAct (s : State) (a : Word) (f : State → Word → Word → Act) : Act :=
  match s.readShape a.toNat with
  | .trap c v => .trap c v
  | .wait w => .wait s w
  | .ok r s =>
    if !r.matrix then .trap 25 a
    else match s.rows r.base (r.st.getD 1 0).toNat a with
      | some (c, v) => .trap c v
      | none => f s (BitVec.ofNat 64 r.base) (BitVec.ofInt 64 (r.st.getD 1 0))

/-- `mma` (R359-R361). -/
def execMma (p : PredNo) (fmt : MmaFmt) (pb : BitVec 4) (a b : RegNo) (s : State) : Ans :=
  let i := Instr.mma p fmt pb a b
  issue s (tileHead i p [.s a.toNat, .s b.toNat]) fun s =>
    if s.th.spec.isSome && s.bufferWrites s.cur then .stall
    else matrixAct s (s.sv a) fun s1 ba sa => matrixAct s1 (s.sv b) fun s2 bb sb =>
      tileAct s2 (s.newTile i (.mma fmt pb.toNat) ba bb sa sb) (s.sv a) (s.sv b) none

/-- `msacc` (R362-R364). -/
def execMsacc (p : PredNo) (z : BitVec 3) (pb : BitVec 4) (b : RegNo) (s : State) : Ans :=
  let i := Instr.msacc p z pb b
  issue s (tileHead i p [.s b.toNat]) fun s =>
    tileAct s (s.newTile i (.msacc false z.toNat pb.toNat) (s.sv b) 0 0 0) 0 0 none

/-- `msacc.v` (R362-R364). -/
def execMsaccV (p : PredNo) (z : BitVec 3) (pb : BitVec 4) (b : RegNo) (s : State) : Ans :=
  let i := Instr.msaccV p z pb b
  issue s (tileHead i p [.s b.toNat]) fun s =>
    tileAct s (s.newTile i (.msacc true z.toNat pb.toNat) (s.sv b) 0 0 0) 0 0 none

/-- `mzero` (R365). -/
def execMzero (p : PredNo) (z : BitVec 3) (s : State) : Ans :=
  let i := Instr.mzero p z
  issue s (tileHead i p []) fun s => tileAct s (s.newTile i (.mzero z.toNat) 0 0 0 0) 0 0 none

/-- `mldz` (R365). -/
def execMldz (p : PredNo) (z : BitVec 3) (a : RegNo) (s : State) : Ans :=
  let i := Instr.mldz p z a
  issue s (tileHead i p [.s a.toNat]) fun s => tileAct s (s.newTile i (.mldz z.toNat) (s.sv a) 0 0 0) 0 0 none

/-- `mstz` (R365): the mode that DYN names is read at issue, and a reserved one traps before the operand (DEDUCED, log entry 28). -/
def execMstz (p : PredNo) (bf : Bool) (rm : Rm) (z : BitVec 3) (a : RegNo) (s : State) : Ans :=
  let i := Instr.mstz p bf rm z a
  issue s (tileHead i p (if (s.th.rounding rm).isSome then [.s a.toNat] else [])) fun s =>
    match s.th.rounding rm with
    | none => .trap 2 (bitsVal i)
    | some r => tileAct s (s.newTile (.mstz p bf r z a) (.mstz bf r z.toNat) (s.sv a) 0 0 0) 0 0 none

/-- `mvs` (R374-R377). -/
def execMvs (p : PredNo) (fmt : MxFmt) (pb : BitVec 4) (a b : RegNo) (s : State) : Ans :=
  let i := Instr.mvs p fmt pb a b
  issue s (tileHead i p [.s a.toNat, .s b.toNat]) fun s =>
    tileAct s (s.newTile i (.mvs fmt pb.toNat) (s.sv a) (s.sv b) 0 0) 0 0 none

/-- `mcommit` (R366). -/
def execMcommit (p : PredNo) (s : State) : Ans :=
  issue s (tileHead (.mcommit p) p []) fun s =>
    if s.th.spec.isSome then s.buffer .commit
    else if !s.th.pen.isEmpty then .wait s .order
    else if 32 ≤ s.th.sealedGroups then .wait s .tile
    else .retire (s.modTh fun t => { t with commits := t.commits + 1 })

/-- `mwait` (R367). -/
def execMwait (p : PredNo) (n : BitVec 5) (s : State) : Ans :=
  issue s ⟨.mwait p n, p, false, false, .stall, [], []⟩ fun s =>
    if s.th.openGroups ≤ n.toNat then .retire s else .wait s .tile

/-- The command that a continuation record's INSN names (R372). -/
def resumedOp (insn : BitVec 32) : Option TileOp :=
  match decode32 insn with
  | .ok (.mma _ f pb _ _) => some (.mma f pb.toNat)
  | .ok (.msacc _ z pb _) => some (.msacc false z.toNat pb.toNat)
  | .ok (.msaccV _ z pb _) => some (.msacc true z.toNat pb.toNat)
  | .ok (.mzero _ z) => some (.mzero z.toNat)
  | .ok (.mldz _ z _) => some (.mldz z.toNat)
  | .ok (.mstz _ bf rm z _) => some (.mstz bf rm z.toNat)
  | .ok (.mvs _ f pb _ _) => some (.mvs f pb.toNat)
  | _ => none

/-- The command of a continuation record's words; none where R372 refuses it. -/
def State.resumed (s : State) (ws : List Nat) : Option TileCmd :=
  let w := fun k => ws.getD k 0
  let t := s.th
  match resumedOp (BitVec.ofNat 32 (w 0)) with
  | none => none
  | some op =>
    let c : TileCmd :=
      { entry := 0, ser := 0, tid := s.cur, op := op, insn := BitVec.ofNat 32 (w 0), group := 0
        next := bits (w 0) 39 36, opa := BitVec.ofNat 64 (w 3), opb := BitVec.ofNat 64 (w 4)
        sta := BitVec.ofNat 64 (w 5), stb := BitVec.ofNat 64 (w 6), bpa := 0, bkey := 0
        started := false, srcDone := false, stop := none, narrow := false, flags := 0 }
    if bits (w 0) 63 52 ≠ 0 ∨ bits (w 0) 46 46 ≠ 0 ∨ bits (w 0) 35 32 ≠ 0 ∨ bits (w 1) 63 32 ≠ 0 ∨
        (ws.drop 7).any (· != 0) = true then none
    else if bits (w 0) 51 48 ≠ s.cur % 16 ∨ c.blocks ≤ c.next then none
    else match (t.commits :: t.tgroups ++ t.tstopped).find? fun g => g % 2 ^ 32 == w 1 with
      | none => none
      | some g => some { c with group := g }

/-- The instruction bits of a command with the mode that its DYN names (R370). -/
def withMode (insn : BitVec 32) (r : Rm) : BitVec 32 :=
  match decode32 insn with
  | .ok (.mstz p bf _ z a) => encode (.mstz p bf r z a)
  | _ => insn

/-- `mresume` (R372). -/
def execMresume (p : PredNo) (a : RegNo) (s : State) : Ans :=
  let i := Instr.mresume p a
  issue s (tileHead i p [.s a.toNat]) fun s =>
    let v := s.sv a
    if s.th.spec.isSome && s.bufferWrites s.cur then .stall
    else if v.toNat % 128 ≠ 0 ∨ inPrivate v.toNat 128 = false then .trap 25 v
    else match s.readWords v.toNat 16 with
      | .trap c v => .trap c v
      | .wait w => .wait s w
      | .ok ws s' =>
        match s.resumed ws with
        | none => .trap 25 v
        | some c =>
          match c.op with
          | .mstz bf rm z =>
            match s.th.rounding rm with
            | none => .trap 2 (bitsVal i)
            | some r => tileAct s' { c with op := .mstz bf r z, insn := withMode c.insn r } v v (some v.toNat)
          | _ => tileAct s' c v v (some v.toNat)

/-! ## Tile memory (R352) -/

/-- The three units that serve the queue (R353). -/
inductive TileUnit where | mult | acc | stack
  deriving DecidableEq, Repr

/-- The unit of a command. -/
def TileOp.unit : TileOp → TileUnit
  | .mma _ _ => .mult
  | .msacc _ _ _ | .mzero _ | .mldz _ | .mstz _ _ _ => .acc
  | .mvs _ _ => .stack

/-- What a command reads and writes in tile memory: tiles as 16 + z, slots by number. -/
def TileCmd.touches (c : TileCmd) : List Nat × List Nat :=
  match c.op with
  | .mma f pb => ([], (List.range f.blocks).map (pb + ·))
  | .msacc _ z pb => ((List.range (scaleBlocks c.opa)).map (pb + ·), [16 + z])
  | .mzero z | .mldz z => ([], [16 + z])
  | .mstz _ _ z => ([16 + z], [])
  | .mvs _ pb => ([], (List.range (mvsBlocks c.opb)).map (pb + ·))

/-- Do two commands conflict in tile memory (R353)? -/
def TileCmd.conflicts (c d : TileCmd) : Bool :=
  c.touches.2.any (fun x => d.touches.1.contains x || d.touches.2.contains x) ||
  d.touches.2.any fun x => c.touches.1.contains x

/-- Value `e` of a partial-bank slot. -/
def State.slotVal (s : State) (core pb e : Nat) : Nat := s.mem.read (Region.pbank core pb + 4 * e) 4
/-- Write a whole partial-bank slot. -/
def State.putSlot (s : State) (core pb : Nat) (f : Nat → Nat) : State :=
  { s with mem := s.mem.storeWords (Region.pbank core pb) (fun k => f (2 * k) + 2 ^ 32 * f (2 * k + 1)) 2048 }
/-- Pair `e` of an accumulator tile, s low. -/
def State.pair (s : State) (core z e : Nat) : Nat × Nat :=
  let v := s.mem.read (Region.tile core z + 8 * e) 8
  (v % 2 ^ 32, v / 2 ^ 32)
/-- Write a whole accumulator tile. -/
def State.putTile (s : State) (core z : Nat) (f : Nat → Nat × Nat) : State :=
  { s with mem := s.mem.storeWords (Region.tile core z) (fun e => (f e).1 + 2 ^ 32 * (f e).2) 4096 }

/-! ## Arithmetic (R361, R364, R365, R377) -/

/-- Element `t` of a packed block. -/
def blockElem (f : MmaFmt) (stream t : Nat) : Num :=
  match f with
  | .mx m => mxDecode m (mxElem m stream t) 0x7F
  | .bf16 => Fmt.bf16.num (stream / 2 ^ (16 * t) % 2 ^ 16)

/-- Does a block of BF16 values hold a signalling NaN? -/
def blockSnan (f : MmaFmt) (stream : Nat) : Bool :=
  match f with
  | .mx _ => false
  | .bf16 => (List.range 32).any fun t => Fmt.bf16.isSnan (stream / 2 ^ (16 * t) % 2 ^ 16)

/-- The exact sum of products of two packed blocks. -/
def blockSum (f : MmaFmt) (x y : Nat) : Nat × Flags :=
  exactBlockSum ((List.range 32).map fun t => (blockElem f x t, blockElem f y t)) (blockSnan f x || blockSnan f y)

/-- The flags of a table of results. -/
def allFlags (n : Nat) (f : Nat → Nat × Flags) : Flags := (List.range n).foldl (fun a e => a ||| (f e).2) 0

/-- Bytes `off` to `off + n - 1` of a core's local memory as a number. -/
def State.localNum (s : State) (core off n : Nat) : Nat := s.mem.read (Region.local core + off) n

/-- Block `k` of `mma`. -/
def State.mmaBlock (s : State) (core : Nat) (c : TileCmd) (f : MmaFmt) (pb k : Nat) : Flags × State :=
  let row := fun (base st i : Nat) => s.localNum core (base + i * st + f.blockBytes * k) f.blockBytes
  let r := fun e => blockSum f (row c.opa.toNat c.sta.toNat (e / 64)) (row c.opb.toNat c.stb.toNat (e % 64))
  (allFlags 4096 r, s.putSlot core (pb + k) fun e => (r e).1)

/-- The scaled partial of R364. -/
def scaledPartial (p ea eb : Nat) : Nat × Flags :=
  if ea = 0xFF ∨ eb = 0xFF then (Fmt.f32.nanBits, 0)
  else roundFmt .f32 .rne ((Fmt.f32.num p).scale ((ea : Int) + eb - 254))

/-- Block `k` of `msacc` and `msacc.v`. -/
def State.msaccBlock (s : State) (core : Nat) (c : TileCmd) (vec : Bool) (z pb k : Nat) : Flags × State :=
  let byte := fun o => s.localNum core (scaleAddr c.opa + o) 1
  let r := fun e : Nat =>
    let ea := if scaleUnit c.opa then 0x7F else if vec then byte k else byte (128 * k + e / 64)
    let eb := if scaleUnit c.opa then 0x7F else if vec then byte (512 + 4096 * k + e) else byte (128 * k + 64 + e % 64)
    let (q, f1) := scaledPartial (s.slotVal core (pb + k) e) ea eb
    let (x, y, f2) := pairAdd (s.pair core z e).1 (s.pair core z e).2 q
    ((x, y), f1 ||| f2)
  let fl := (List.range 4096).foldl (fun a e => a ||| (r e).2) (0 : Flags)
  (fl, s.putTile core z fun e => (r e).1)

/-- `mstz`: word `m` of the region, its flags, and whether a poisoned pair goes into it (R365). The flags of the bytes that a
poisoned pair had are raised with the others (DESIGN CHOICE, log entry 29: R365 does not say). -/
def State.mstzWord (s : State) (core : Nat) (bf : Bool) (rm : Rm) (z m : Nat) : Nat × Flags × Bool :=
  let w := if bf then 2 else 4
  let es := (List.range (8 / w)).map fun k => m * (8 / w) + k
  es.foldr (fun e acc =>
    let (x, y) := s.pair core z e
    let (v, fl) := pairRound (if bf then .bf16 else .f32) rm x y
    (v + 256 ^ w * acc.1, fl ||| acc.2.1, s.mem.poisoned (Region.tile core z + 8 * e) || acc.2.2)) (0, 0, false)

/-- The whole of `mstz`. -/
def State.mstzAll (s : State) (core a : Nat) (bf : Bool) (rm : Rm) (z : Nat) : Flags × State :=
  (List.range (if bf then 1024 else 2048)).foldl (fun (fs : Flags × State) m =>
    let (v, fl, bad) := s.mstzWord core bf rm z m
    let p : Place := .loc core (a + 8 * m)
    (fs.1 ||| fl, if bad then fs.2.markPlace p true else fs.2.writePlace p 8 v)) (0, s)

/-- The whole of `mvs` (R377), once the slices have written back what older commands left in B (`State.flushB`). -/
def State.mvsAll (s : State) (core : Nat) (c : TileCmd) (f : MxFmt) (pb : Nat) : Flags × State :=
  let nb := mvsBlocks c.opb
  let e := f.blockBytes
  let tag := s.tagOf c.bkey
  let a := c.opa.toNat
  let r := fun k row : Nat =>
    if row < mvsRows c.opb then
      blockSum (.mx f) (s.localNum core (a + 64 + e * k) e) (s.hbmRead (c.bpa + e * (4096 * k + row)) tag e)
    else (0, 0)
  let scale := fun k row : Nat =>
    if row < mvsRows c.opb then (s.hbmByte (c.bpa + 4096 * e * nb + 4096 * k + row) tag).toNat else 0x7F
  (List.range nb).foldl (fun (fs : Flags × State) k =>
    let s1 := fs.2.putSlot core (pb + k) fun row => (r k row).1
    let s2 := (List.range 512).foldl (fun s' m =>
      s'.writePlace (.loc core (a + 512 + 4096 * k + 8 * m)) 8
        ((List.range 8).foldr (fun i v => scale k (8 * m + i) + 256 * v) 0)) s1
    (fs.1 ||| allFlags 4096 (r k), s2)) (0, s)

/-- Do `n` bytes of a core's local memory hold a poisoned word? -/
def State.localPoison (s : State) (core off n : Nat) : Bool := s.mem.anyPoison (Region.local core + off) n

/-- Would block `k` of a command read a poisoned word (R368)? -/
def State.blockPoison (s : State) (core : Nat) (c : TileCmd) (k : Nat) : Bool :=
  let a := c.opa.toNat
  match c.op with
  | .mma f _ =>
    (List.range 64).any fun i =>
      s.localPoison core (a + i * c.sta.toNat + f.blockBytes * k) f.blockBytes ||
      s.localPoison core (c.opb.toNat + i * c.stb.toNat + f.blockBytes * k) f.blockBytes
  | .msacc vec z pb =>
    s.mem.anyPoison (Region.pbank core (pb + k)) 16384 || s.mem.anyPoison (Region.tile core z) 32768 ||
    (!scaleUnit c.opa && (if vec then
        s.localPoison core (scaleAddr c.opa + k) 1 || s.localPoison core (scaleAddr c.opa + 512 + 4096 * k) 4096
      else s.localPoison core (scaleAddr c.opa + 128 * k) 128))
  | .mzero _ | .mstz _ _ _ => false
  | .mldz _ => s.localPoison core a 16384
  | .mvs f _ =>
    let nb := mvsBlocks c.opb
    let e := f.blockBytes
    s.localPoison core a nb || s.localPoison core (a + 64) (e * nb) ||
    (List.range nb).any fun j =>
      s.mem.anyPoison (c.bpa + e * 4096 * j) (e * mvsRows c.opb) ||
      s.mem.anyPoison (c.bpa + 4096 * e * nb + 4096 * j) (mvsRows c.opb)

/-- Do block `k` of a command. -/
def State.doBlock (s : State) (core : Nat) (c : TileCmd) (k : Nat) : Flags × State :=
  match c.op with
  | .mma f pb => s.mmaBlock core c f pb k
  | .msacc vec z pb => s.msaccBlock core c vec z pb k
  | .mzero z => (0, s.putTile core z fun _ => (0, 0))
  | .mldz z => (0, s.putTile core z fun e => (s.localNum core (c.opa.toNat + 4 * e) 4, 0))
  | .mstz bf rm z => s.mstzAll core c.opa.toNat bf rm z
  | .mvs f pb => s.mvsAll core c f pb

/-- Do blocks `k` to `k + n - 1`. -/
def State.doBlocks (s : State) (core : Nat) (c : TileCmd) (k : Nat) : Nat → Flags × State
  | 0 => (0, s)
  | n + 1 =>
    let (f1, s) := s.doBlock core c k
    let (f2, s) := State.doBlocks s core c (k + 1) n
    (f1 ||| f2, s)

/-- The first block from `k` on, of `n`, that would read a poisoned word. -/
def State.firstPoison (s : State) (core : Nat) (c : TileCmd) (k : Nat) : Nat → Option Nat
  | 0 => none
  | n + 1 => if s.blockPoison core c k then some k else State.firstPoison s core c (k + 1) n

/-! ## The events of the engine (R353-R355, R358, R368-R371) -/

/-- Replace or drop a command of a core's queue. -/
def State.setTile (s : State) (core ser : Nat) (c : Option TileCmd) : State :=
  s.modCore core fun k => { k with tileQ := k.tileQ.filterMap fun d => if d.ser = ser then c else some d }

/-- The command in an entry. -/
def State.tileCmd (s : State) (core entry : Nat) : Option TileCmd := (s.core core).tileQ.find? fun c => c.entry == entry

/-- Flags into MSTAT (R355). -/
def Thread.mflags (t : Thread) (f : Flags) : Thread :=
  { t with
      mNv := t.mNv || f &&& Flags.nv != 0
      mOf := t.mOf || f &&& Flags.of != 0
      mUf := t.mUf || f &&& Flags.uf != 0
      mNx := t.mNx || f &&& Flags.nx != 0 }

/-- The island of a core (R19). -/
def islandOf (core : Nat) : Nat := 64 * dieOf core + 8 * (core / 64 % 16 / 2) + core % 16 / 2

/-- Between commands the engine enters or leaves narrowed mode with its island's alarm (R28, R358, R492). -/
def State.settleMode (s : State) (core : Nat) : State :=
  if (s.core core).tileQ.any fun c => c.started then s
  else s.modCore core fun k => { k with narrow := (tget 0 s.isles (islandOf core)).getLsbD 0 }

/-- May a command start: its unit free and its turn, no older command in conflict (R353), and none of its thread still to stop,
with which it may have to stop (R368)? -/
def State.tileReady (s : State) (core : Nat) (c : TileCmd) : Bool :=
  !((s.core core).tileQ.any fun d =>
    (d.tid == c.tid && decide (d.ser < c.ser) && d.stop.isSome) ||
    (d.op.unit == c.op.unit && d.ser != c.ser && (d.started || decide (d.ser < c.ser))) ||
    (decide (d.ser < c.ser) && c.conflicts d))

/-- Is a command one that halts only at its end (R368)? -/
def TileCmd.single (c : TileCmd) : Bool :=
  match c.op with
  | .mma _ _ | .msacc _ _ _ => false
  | .mzero _ | .mldz _ | .mstz _ _ _ | .mvs _ _ => true

/-- Note that a command is to stop with `next` blocks done, by PREEMPT or by poison: by the event that it meets first (R378). -/
def State.markTile (s : State) (core : Nat) (c : TileCmd) (next : Nat) (preempt : Bool) : State :=
  (s.setTile core c.ser (some { c with stop := some (next, preempt) })).owe (.tileStop core c.entry next)

/-- Blocks done at which a command halts at the earliest when it is to stop (R368): one that has not started where it was to start, a
running one after its next block; none where it runs to its end. -/
def TileCmd.halt (c : TileCmd) : Option Nat :=
  if c.srcDone || c.stop.isSome then none
  else if !c.started then some c.next
  else if c.single || decide (c.blocks ≤ c.next + 1) then none
  else some (c.next + 1)

/-- The commands of a core that `hit` names are to stop, by PREEMPT or with a poisoned one (R368). -/
def State.haltTiles (s : State) (core : Nat) (hit : TileCmd → Bool) (preempt : Bool) : State :=
  ((s.core core).tileQ.filter hit).foldl (fun s c => match c.halt with
    | none => s
    | some k => s.markTile core c k preempt) s

/-- TILE_COMMAND_START (R353, R358): a command that is not to stop starts in its turn. -/
def execTileCommandStart (core entry : Nat) (s : State) : Ans :=
  match s.tileCmd core entry with
  | none => .next s
  | some c =>
    if c.started || c.stop.isSome then .next s
    else if !s.tileReady core c then .next (s.owe (.tileStart core entry))
    else
      let s := s.settleMode core
      let c := { c with started := true, narrow := (s.core core).narrow }
      .next ((s.setTile core c.ser (some c)).owe (.tileSource core entry))

/-- Have older commands, of the copy, axis or fabric engines or the shunter, still to write a line of a command's B (R323,
R377)? -/
def State.streamHeld (s : State) (c : TileCmd) : Bool :=
  match c.op with
  | .mvs f _ =>
    let lines := (List.range ((f.blockBytes + 1) * 16 * mvsBlocks c.opb)).map fun k => c.bpa + 256 * k
    (s.owns.any fun o => !o.src && decide (o.ser < c.ser) && match o.key with
      | .line _ n | .so n => c.streams (256 * n)
      | .elem _ _ => lines.any (s.names o.key)) ||
    s.cores.any fun k => let d := s.coreCtx k.1
      (d.yard.moving.isSome || d.axisQ.any fun a => decide (a.ser < c.ser)) &&
        lines.any fun pa => s.owned k.1 pa (fun ser => decide (ser < c.ser))
  | .mma _ _ | .msacc _ _ _ | .mzero _ | .mldz _ | .mstz _ _ _ => false

/-- Must the engine wait for an older lock on a span of the command, or for an older writer of its B (R323, R354)? -/
def State.tileHeld (s : State) (core : Nat) (c : TileCmd) : Bool :=
  (c.spans.any fun x => s.lockedFor core x.2.1 (x.2.2 - x.2.1) c.ser) || s.streamHeld c

/-- TILE_SOURCE_RELEASE (R354): the last read is done and the source locks are released; what the command writes is done
under its other locks. A poisoned block stops the command, and the thread's later ones with it (R368); one that PREEMPT
does not stop has met the poison alone (R378). -/
def execTileSourceRelease (core entry : Nat) (s : State) : Ans :=
  match s.tileCmd core entry with
  | none => .next s
  | some c =>
    if !c.started || c.srcDone || c.stop.isSome then .next s
    else if s.tileHeld core c then .next (s.owe (.tileSource core entry))
    else
      let s := s.flushB c
      match s.firstPoison core c c.next (c.blocks - c.next) with
      | some k =>
        let s := s.markTile core c k ((s.core core).preempted && !c.single)
        .next (s.haltTiles core (fun d => d.tid == c.tid && decide (c.ser < d.ser)) false)
      | none =>
        let (fl, s') := s.doBlocks core c c.next (c.blocks - c.next)
        let s' := s'.setTile core c.ser (some { c with srcDone := true, flags := c.flags ||| fl })
        .next ((State.freed s (s'.unlock c.ser true)).owe (.tileDone core entry))

/-- TILE_COMMAND_COMPLETE (R355): writes performed, locks released, flags in MSTAT. -/
def execTileCommandComplete (core entry : Nat) (s : State) : Ans :=
  match s.tileCmd core entry with
  | none => .next s
  | some c =>
    if !c.srcDone then .next s
    else
      let s := ((s.setTile core c.ser none).unlock c.ser false).settleMode core
      .next (s.modThread c.tid fun t =>
        { t.mflags c.flags with tgroups := t.tgroups.erase c.group, mNseen := t.mNseen || c.narrow })

/-- The words of a continuation record (R370). -/
def TileCmd.record (c : TileCmd) (next : Nat) (preempt : Bool) : List Nat :=
  [c.tid % 16 * 2 ^ 48 + (if preempt then 2 ^ 47 else 0) + (if preempt then 16 else 26) * 2 ^ 40 + next * 2 ^ 36 + c.insn.toNat,
    c.group % 2 ^ 32, 0, c.opa.toNat, c.opb.toNat, c.sta.toNat, c.stb.toNat, 0, 0, 0, 0, 0, 0, 0, 0, 0]

/-- Address of the continuation record of an entry. -/
def recordAt (entry : Nat) : Nat := 0xF5800 + 128 * entry

/-- The chain of a thread's records with one more, which may stand where an older one of them stood; and the LINK words of the
records that still stand, by record and value, in issue order (R370, R380). -/
def linkRecord (chain : List (Nat × Bool)) (a : Nat) : List (Nat × Bool) × List (Nat × Nat) :=
  let c := (chain.filter fun x => x.1 != a) ++ [(a, true)]
  (c, (c.zip (c.drop 1)).filterMap fun x => if x.1.2 then some (x.1.1, x.2.1) else none)

/-- The words of a record, and of LINK in others, that the stop of a command writes: first byte, and one past the last. -/
def State.stopSpans (s : State) (c : TileCmd) : List (Nat × Nat) :=
  let a := recordAt c.entry
  (a, a + 128) :: (linkRecord (s.thread c.tid).chain a).2.map fun x => (x.1 + 16, x.1 + 24)

/-- Must the stop of a command wait: a word that it writes is under an older lock (R322, R354), or a path of its thread that is not
yet resolved has read one of the records to link (R251, R380)? -/
def State.stopHeld (s : State) (core : Nat) (c : TileCmd) : Bool :=
  ((s.core core).readRecords c.tid).any (fun a => (s.thread c.tid).chain.any fun x => x.1 == a) ||
  (s.core core).locks.any fun l => decide (l.ser < c.ser) && (s.stopSpans c).any fun x => decide (l.lo < x.2) && decide (x.1 < l.hi)

/-- A record of another thread of the core that stood at an address has been overwritten: its LINK is written no more (R380). -/
def State.recordGone (s : State) (core tid a : Nat) : State :=
  ((slotsOf core).filter fun t => t != tid).foldl (fun s t => s.modThread t fun h =>
    { h with chain := h.chain.map fun x => if x.1 = a then (a, false) else x }) s

/-- Stop a command with `next` blocks done: its record is written and linked, its locks are released (R368-R371), and so is the
region of B that an `mvs` was to read. -/
def State.stopTile (s : State) (core : Nat) (c : TileCmd) (next : Nat) (preempt : Bool) : State :=
  let (fl, s') := s.doBlocks core c c.next (next - c.next)
  let at_ := recordAt c.entry
  let (chain, links) := linkRecord (s'.thread c.tid).chain at_
  let s' := (s'.putWords core at_ (c.record next preempt)).recordGone core c.tid at_
  let s' := links.foldl (fun s x => s.writePlace (.loc core (x.1 + 16)) 8 x.2) s'
  let s' := State.freed s (((s'.setTile core c.ser none).unlock c.ser false).settleMode core)
  s'.modThread c.tid fun t =>
    { t.mflags (c.flags ||| fl) with
        tgroups := t.tgroups.erase c.group, tstopped := t.tstopped ++ [c.group]
        mNseen := t.mNseen || c.narrow, chain := chain }

/-- Blocks at which a command that is to stop may have stopped (R368): those it was marked with or, of a running `mma` or `msacc`
that has come further, any later number, which the spec leaves to its speed. -/
def TileCmd.stopsAt (c : TileCmd) (k done : Nat) : Bool :=
  done == k || (c.started && !c.single && decide (k < done) && decide (done ≤ c.blocks))

/-- TILE_COMMAND_STOP (R368): `done` blocks are to be finished, those up to a poisoned one. One that has done all its blocks
completes; a poisoned one takes the thread's later commands with it. An older command of the thread ends first, so that the records
stand in issue order (R370). -/
def execTileCommandStop (core entry done : Nat) (s : State) : Ans :=
  match s.tileCmd core entry with
  | none => .next s
  | some c =>
    match c.stop with
    | none => .next s
    | some (k, preempt) =>
      let older := (s.core core).tileQ.any fun d => d.tid == c.tid && decide (d.ser < c.ser)
      if !c.stopsAt k done then .next s
      else if older || s.stopHeld core c || c.started && decide (c.next < done) && s.tileHeld core c then
        .next (s.owe (.tileStop core entry done))
      else
        let bad := s.firstPoison core c c.next (done - c.next)
        if bad.isNone && done == c.blocks then
          .next ((s.setTile core c.ser (some { c with stop := none })).owe (.tileSource core entry))
        else
          let preempt := preempt && (bad.isNone || done == k)
          let s := s.stopTile core c (bad.getD done) preempt
          .next (if preempt then s else s.haltTiles core (fun d => d.tid == c.tid && decide (c.ser < d.ser)) false)

/-- Is a TILE_FAULT due for the thread whose turn it is: it has stopped commands, HOLD is clear, and every command of it that is
to stop has stopped, so that one trap covers every record (R368, R371; DEDUCED, log entry 28)? -/
def State.faultDue (s : State) : Bool :=
  !s.th.chain.isEmpty && !s.th.ts.hold && !(s.core s.here).tileQ.any fun c => c.tid == s.cur && c.stop.isSome

/-- TILE_FAULT (R371): the thread whose turn it is takes cause 48 at a boundary where it is due. -/
def execTileFault (s : State) : Ans :=
  match s.th.chain with
  | [] => .next s
  | first :: _ =>
    if !s.faultDue then .next s
    else
      let s := (s.discard s.cur).modTh fun t => { t with chain := [] }
      .next (s.trap s.cur 48 (BitVec.ofNat 64 first.1) s.th.pc)

/-! ## Release from the commit buffer (R251, R252) -/

/-- The oldest item of the thread's sequence has been dealt with. -/
def State.released1 (s : State) (tid id : Nat) : State :=
  let s := s.modCore (tid / 16) fun c => { c with cbuf := c.cbuf.filter fun b => b.id != id }
  let s := s.modThread tid fun t => { t with pen := t.pen.drop 1 }
  if (s.thread tid).pen.isEmpty then s else s.owe (.drain tid)

/-- COMMIT_BUFFER_RELEASE (R251, R252): the oldest buffered command issues with what it read on entering. -/
def execCommitBufferRelease (tid : Nat) (s : State) : Ans :=
  match (s.thread tid).pen with
  | .cmd false id :: _ =>
    match (s.core (tid / 16)).cbuf.find? fun b => b.id == id with
    | none => .next (s.released1 tid id)
    | some b =>
      let again := s.owe (.release tid)
      match b.op with
      | .commit =>
        if 32 ≤ (s.thread tid).sealedGroups then .next again
        else .next ((s.modThread tid fun t => { t with commits := t.commits + 1 }).released1 tid id)
      | .tile c _ record =>
        match s.tileIssue c record with
        | .error _ => .next again
        | .ok s => .next (s.released1 tid id)
      | .copy c _ =>
        let gone : Bool := match c.tokenReg with
          | none => false
          | some (t, _) => (s.thread t).state == .idle
        if gone then .next ((s.modThread tid fun t => { t with errSt := true }).released1 tid id)
        else match s.copyIssue c with
          | .error _ => .next again
          | .ok s => .next (s.released1 tid id)
  | _ => .next s

end Sys2Proof.Machine
end

