-- ==== Sys2Proof/Machine/System.lean ====
section
/-! DEFINITION. The SYS instructions, interrupts at a boundary, the end of a context, the shootdown and the spill (R42,
R115, R140-R149, R258-R275, R299-R301). -/

namespace Sys2Proof.Machine

/-! ## System registers (R140) -/

/-- A flag at a bit position. -/
def bitAt (b : Bool) (k : Nat) : Nat := if b then 2 ^ k else 0

/-- TSTATUS as it reads (R259). -/
def TStatus.word (t : TStatus) : Word :=
  BitVec.ofNat 64 (bitAt t.ipMessage 23 + bitAt t.ipPreempt 22 + bitAt t.ipHost 21 + bitAt t.ipTimer 20 +
    bitAt t.ipMailbox 19 + bitAt t.enMessage 14 + bitAt t.enHost 13 + bitAt t.enTimer 12 + bitAt t.enMailbox 11 +
    bitAt t.sup 5 + bitAt t.pp 4 + bitAt t.unrc 3 + bitAt t.unrv 2 + bitAt t.phold 1 + bitAt t.hold 0)

/-- The fields of TSTATUS that software writes: IEN, PP, PHOLD and HOLD (R259, R271). -/
def TStatus.write (t : TStatus) (v : Word) : TStatus :=
  { t with
      enMessage := v.getLsbD 14, enHost := v.getLsbD 13, enTimer := v.getLsbD 12, enMailbox := v.getLsbD 11
      pp := v.getLsbD 4, phold := v.getLsbD 1, hold := v.getLsbD 0 }

/-- A membership register as it reads (R240). -/
def Memb.word (m : Memb) : Word :=
  BitVec.ofNat 64 (bitAt m.valid 63 + bitAt m.diss 62 + bitAt m.contrib 61 + bitAt m.latch 60 + bitAt m.outcome 59 +
    bitAt m.absok 58 + bitAt m.rooted 57 + bitAt m.absent 56 + m.count.toNat * 2 ^ 24 + m.index.toNat)

/-- COREID (R142). -/
def State.coreId (s : State) (core : Nat) : Word :=
  BitVec.ofNat 64 (s.ident.toNat * 2 ^ 36 + dieOf core * 2 ^ 16 + core / 64 * 2 ^ 8 + core % 64)

/-- YGEN (R388). -/
def Yard.word (y : Yard) (inYard : Bool) : Word :=
  BitVec.ofNat 64 (y.pend.length * 2 ^ 51 + bitAt y.moving.isSome 50 + bitAt (y.cfg && inYard) 49 + y.gen.toNat)

/-- PENSTAT (R256). -/
def State.penStat (s : State) (t : Thread) (tid : Nat) : Word :=
  let cbuf := ((s.core (tid / 16)).cbuf.filter fun b => b.tid == tid).length
  let pen := (t.pen.filter fun i => i.cmdId.isNone).length
  let path := match t.spec with
    | none => 0
    | some sp => sp.run * 2 ^ 32 + sp.slot.toNat * 2 ^ 4 + bitAt sp.hint 3 + bitAt sp.defer.isSome 2 + bitAt sp.stall 1 + 1
  BitVec.ofNat 64 (path + cbuf * 2 ^ 24 + pen * 2 ^ 16)

/-- MSTAT (R356). -/
def Thread.mStat (t : Thread) (narrow : Bool) : Word :=
  BitVec.ofNat 64 (t.sealedGroups * 2 ^ 32 + t.uncommitted * 2 ^ 24 + bitAt narrow 7 + bitAt t.mNseen 6 +
    bitAt (!t.chain.isEmpty) 5 + bitAt t.mNv 4 + bitAt t.mOf 2 + bitAt t.mUf 1 + bitAt t.mNx 0)

/-- OSTAT (R148). -/
def Thread.oStat (t : Thread) : Word :=
  BitVec.ofNat 64 (bitAt t.errFab 57 + bitAt t.errSt 56 + t.fabCnt * 2 ^ 32 + t.amoCnt * 2 ^ 24 + t.stCnt * 2 ^ 16 +
    t.ldCnt * 2 ^ 8)

/-- May a mode read system register `n`? -/
def srReadable (sup : Bool) (n : Nat) : Bool :=
  (sup && (decide (n ≤ 0x007) || n == 0x011)) ||
  n == 0x010 || n == 0x020 || n == 0x021 || n == 0x030 || n == 0x031 || n == 0x040 || n == 0x041 || n == 0x050 ||
  (decide (0x060 ≤ n) && decide (n ≤ 0x064)) || n == 0x070 || n == 0x080 || n == 0x090 ||
  (decide (0x098 ≤ n) && decide (n ≤ 0x0A3))

/-- May a mode write system register `n`? -/
def srWritable (sup : Bool) (n : Nat) : Bool :=
  n == 0x040 || n == 0x041 || n == 0x080 ||
  (sup && (decide (n ≤ 0x005) || n == 0x010 || n == 0x011 || n == 0x031 || n == 0x090 ||
    (decide (0x098 ≤ n) && decide (n ≤ 0x0A3))))

/-- The value of system register `n` of the current thread. -/
def State.srValue (s : State) (n : Nat) : Word :=
  let t := s.th
  let c := s.core s.here
  if n = 0x000 then t.tcause
  else if n = 0x001 then t.tval
  else if n = 0x002 then t.tepc
  else if n = 0x003 then t.ts.word
  else if n = 0x004 then t.tvec
  else if n = 0x005 then t.tscratch
  else if n = 0x006 then t.ncause
  else if n = 0x007 then t.nval
  else if n = 0x010 then c.xbound
  else if n = 0x011 then c.ovec
  else if n = 0x020 then s.coreId s.here
  else if n = 0x021 then BitVec.ofNat 64 (s.cur % 16)
  else if n = 0x030 then c.cycle
  else if n = 0x031 then t.instret
  else if n = 0x040 then t.fflags.setWidth 64
  else if n = 0x041 then t.frm.setWidth 64
  else if n = 0x050 then c.yard.word c.yard.cfg
  else if n ≤ 0x063 then (t.mem (n - 0x060)).word
  else if n = 0x064 then s.penStat t s.cur
  else if n = 0x070 then t.mStat c.narrow
  else if n = 0x080 then t.oStat
  else if n = 0x090 then BitVec.ofNat 64 t.ldep
  else if n ≤ 0x09B then (t.loop (n - 0x098)).lbeg
  else if n ≤ 0x09F then (t.loop (n - 0x09C)).lend
  else (t.loop (n - 0x0A0)).lcnt.setWidth 64

/-- What reading system register `n` clears: UNRC, UNRV, and the RC fields of MSTAT (R264, R356). -/
def Thread.srClear (t : Thread) (n : Nat) : Thread :=
  if n = 0x000 then { t with ts := { t.ts with unrc := false } }
  else if n = 0x001 then { t with ts := { t.ts with unrv := false } }
  else if n = 0x070 then { t with mNseen := false, mNv := false, mOf := false, mUf := false, mNx := false }
  else t

/-- Change a loop-stack entry. -/
def Thread.modLoop (t : Thread) (k : Nat) (f : LoopEntry → LoopEntry) : Thread :=
  { t with loops := tmod LoopEntry.zero t.loops k f }

/-- A write of system register `n` of a thread, field by field (R7, R140); XBOUND and OVEC belong to the core. -/
def Thread.srWrite (t : Thread) (n : Nat) (v : Word) : Thread :=
  if n = 0x000 then { t with tcause := v &&& 0x800000000000003F }
  else if n = 0x001 then { t with tval := v }
  else if n = 0x002 then { t with tepc := halfword v }
  else if n = 0x003 then { t with ts := t.ts.write v }
  else if n = 0x004 then { t with tvec := halfword v }
  else if n = 0x005 then { t with tscratch := v }
  else if n = 0x031 then { t with instret := v }
  else if n = 0x040 then { t with fflags := v.setWidth 6 }
  else if n = 0x041 then { t with frm := v.setWidth 3 }
  else if n = 0x080 then { t with errFab := t.errFab && !v.getLsbD 57, errSt := t.errSt && !v.getLsbD 56 }
  else if n = 0x090 then (if 4 < v.toNat % 8 then t else { t with ldep := v.toNat % 8 })
  else if 0x098 ≤ n ∧ n ≤ 0x09B then t.modLoop (n - 0x098) fun e => { e with lbeg := halfword v }
  else if 0x09C ≤ n ∧ n ≤ 0x09F then t.modLoop (n - 0x09C) fun e => { e with lend := halfword v }
  else if 0x0A0 ≤ n ∧ n ≤ 0x0A3 then t.modLoop (n - 0x0A0) fun e => { e with lcnt := v.setWidth 32 }
  else t

/-- A write of system register `n` by the current thread. -/
def State.srWrite (s : State) (n : Nat) (v : Word) : State :=
  if n = 0x010 then s.modCore s.here fun c => { c with xbound := v &&& 0x1FFFFE }
  else if n = 0x011 then s.modCore s.here fun c => { c with ovec := v &&& 0x1FFFFE }
  else s.modTh fun t => t.srWrite n v

/-- An illegal encoding of the current thread: cause 2 with the instruction's bits, whatever its predicate (R115). -/
def illegal (s : State) (bits : Word) : Ans :=
  .next (finish s 4 (if s.th.held then .stall else .trap 2 bits))

/-- An instruction of the SYS major: it stalls on a run-ahead path (R249). -/
def sysHead (i : Instr) (p : PredNo) (sup : Bool) (uses defs : List RName) : Head := ⟨i, p, sup, false, .stall, uses, defs⟩

/-- `srd` (R140, R267). -/
def execSrd (p : PredNo) (d : RegNo) (num : BitVec 10) (s : State) : Ans :=
  if srReadable s.th.ts.sup num.toNat then
    issue s (sysHead (.srd p d num) p false [] [.s d.toNat]) fun s =>
      .retire ((s.modTh fun t => t.srClear num.toNat).setS d (s.srValue num.toNat))
  else illegal s (bitsVal (.srd p d num))

/-- `swr` (R140, R267). -/
def execSwr (p : PredNo) (a : RegNo) (num : BitVec 10) (s : State) : Ans :=
  if srWritable s.th.ts.sup num.toNat then
    issue s (sysHead (.swr p a num) p false [.s a.toNat] []) fun s => .retire (s.srWrite num.toNat (s.sv a))
  else illegal s (bitsVal (.swr p a num))

/-- ILLEGAL_ENCODING (R115): a fetched word that stands for no instruction. -/
def execIllegalEncoding (bits : BitVec 32) (s : State) : Ans := illegal s (bits.setWidth 64)

/-! ## Ending a context (R42) -/

/-- Is a register of the thread pending? -/
def Thread.anyPending (t : Thread) : Bool := (t.s.any fun r => r.2.pend) || t.v.any fun r => r.2.pend

/-- Has everything the thread issued ended: accesses performed, results written, commands completed or stopped, pen
empty (R42, R56, R342, R355)? -/
def State.drained (s : State) (tid : Nat) : Bool :=
  let t := s.thread tid
  let c := s.core (tid / 16)
  !t.anyPending && t.pen.isEmpty && t.calls.isEmpty &&
  !(s.flights.any fun f => f.tid == tid) && !(s.fabops.any fun o => o.tid == tid) &&
  !(c.tileQ.any fun k => k.tid == tid) && !(c.copyQ.any fun k => k.tid == tid) &&
  !(c.axisQ.any fun k => k.tid == tid) && !(c.cbuf.any fun k => k.tid == tid)

/-- The joins that a context has begun and not completed end with it: its joiner counts no longer (DESIGN CHOICE, log entry
29: R42 speaks of memberships only). -/
def State.endJoins (s : State) (tid : Nat) : State :=
  s.groups.foldl (fun s g =>
    match g.complete, g.joins.find? fun j => j.tid == tid with
    | false, some j =>
      (if g.placed then s.send (.leave g.gid j.index) else s).keepGroup
        { g with joins := g.joins.filter fun k => k.tid != tid }
    | _, _ => s) s

/-- Does a spilled entry belong to slot `k` (R274)? -/
def SpillItem.ofSlot (k : Nat) : SpillItem → Bool
  | .msg slot _ | .call slot _ => slot == k
  | .launch _ => false

/-- The call of a spilled entry. -/
def SpillItem.call? : SpillItem → Option Call
  | .call _ c => some c
  | .msg _ _ | .launch _ => none

/-- The calls queued for a slot, in the interface or spilled, are refused, and its messages vanish (R231, R238, R274). -/
def State.emptyQueues (s : State) (tid : Nat) : State :=
  let spilled := (s.core (tid / 16)).spill.filter (SpillItem.ofSlot (tid % 16))
  let calls := spilled.filterMap SpillItem.call? ++ (s.thread tid).callQ
  let s := calls.foldl (fun s c => s.reply 0 c.token true) s
  s.modCore (tid / 16) fun c => { c with spill := c.spill.filter fun i => !i.ofSlot (tid % 16) }

/-- The slot becomes IDLE: memberships are left in ascending order, queued calls are refused, queued messages vanish
(R42, R231, R238), and a launch that waits for the slot may start. -/
def State.endContext (s : State) (tid : Nat) : State :=
  let s := ((List.range 4).foldl (fun s k => s.leave tid k) s).endJoins tid
  let s := ((s.emptyQueues tid).unwait tid).modThread tid Thread.ended
  if (s.core (tid / 16)).launchQ.isEmpty && !(s.posted.any fun p => p.core == tid / 16) then s
  else s.oweOnce (.start (tid / 16))

/-- `exit` (R42): the context ends at once, or the thread waits until everything it issued has ended. -/
def execExit (p : PredNo) (s : State) : Ans :=
  issue s (sysHead (.exit p) p false [] []) fun s =>
    if s.drained s.cur then .done (s.endContext s.cur)
    else if s.th.wait = some .ending then .wait s .ending
    else .wait (s.owe (.ended s.cur)) .ending

/-- CONTEXT_END (R42): a thread that waits to end has nothing left; THREAD_END ends a halted one in the same way. -/
def execContextEnd (tid : Nat) (s : State) : Ans :=
  if (s.thread tid).wait ≠ some .ending then .next s
  else if s.drained tid then .next (s.endContext tid)
  else .next (s.owe (.ended tid))

/-! ## Traps and returns -/

/-- `trap` (R267): cause 8, TVAL zero. -/
def execTrap (p : PredNo) (s : State) : Ans := issue s (sysHead (.trap p) p false [] []) fun _ => .trap 8 0

/-- `tret` (R268). -/
def execTret (p : PredNo) (s : State) : Ans :=
  issue s (sysHead (.tret p) p true [] []) fun s => .done (s.modTh fun t => t.ret.retired)

/-- An interrupt that a slot may take now: the highest-priority one pending and enabled, with HOLD clear (R262, R263). -/
def TStatus.irqDue (t : TStatus) : Option (Irq × Nat) :=
  if t.hold then none
  else if t.ipPreempt then some (.preempt, 16)
  else if t.ipHost && t.enHost then some (.host, 11)
  else if t.ipMessage && t.enMessage then some (.message, 17)
  else if t.ipTimer && t.enTimer then some (.timer, 7)
  else if t.ipMailbox && t.enMailbox then some (.mailbox, 3)
  else none

/-- The interrupt the current slot would take: none unless it is READY or WAITING. -/
def Thread.irqDue (t : Thread) : Option (Irq × Nat) :=
  if t.state = .ready ∨ t.state = .waiting then t.ts.irqDue else none

/-- INTERRUPT_TAKE (R262-R264): the slot whose turn it is takes its interrupt, and its IP bit clears. -/
def execInterruptTake (s : State) : Ans :=
  match s.th.irqDue with
  | none => .next s
  | some (i, code) => .next ((s.modTh fun t => { t with ts := t.ts.setIp i false }).interrupt s.cur code)

/-- TIMER_TICK (R262): the tick of a paddock that has one, in every slot of its cores. -/
def execTimerTick (paddock : Nat) (s : State) : Ans :=
  match tfind s.paddocks paddock with
  | none => .next s
  | some d =>
    if d.tick = 0 then .next s
    else
      let tids := (s.threads.map (·.1)).filter fun t => (s.core (t / 16)).paddock == some paddock
      .next (tids.foldl (fun s t => s.raiseIrq t .timer) s)

/-! ## The save area (R269-R271) -/

/-- The address of the area: of the operand, or the slot's own where it is s0. -/
def State.saveArea (s : State) (a : RegNo) : Nat := if a = 0 then 0xF6000 + 0xA00 * (s.cur % 16) else (s.sv a).toNat

/-- Size of the area in bytes. -/
def areaSize : Nat := 2560

/-- The words of the area, each with whether it takes the poison code. -/
def State.saveWords (s : State) : List (Nat × Bool) :=
  let t := s.th
  let clean := fun w : Word => (w.toNat, false)
  (List.range 32).map (fun n => let r := t.sreg n; (r.val.toNat, r.poison)) ++
  (List.range 32).flatMap (fun n =>
    let r := t.vreg n
    (List.range 8).map fun k => (bits r.val.toNat (64 * k + 63) (64 * k), r.poison)) ++
  (List.range 8).map (fun n => clean (t.pred n)) ++
  [clean (t.fflags.setWidth 64), clean (t.frm.setWidth 64), clean t.instret, (t.ldep, false)] ++
  (List.range 4).map (fun k => ((t.loop k).lbeg.toNat + bitAt (t.loop k).sup 0, false)) ++
  (List.range 4).map (fun k => clean (t.loop k).lend) ++
  (List.range 4).map (fun k => ((t.loop k).lcnt.toNat, false)) ++
  (List.range 4).map (fun k => clean (t.mem k).word) ++
  [clean t.tcause, clean t.tval, clean t.tepc, clean t.ts.word]

/-- Write the words of a save area at offset `off` of the core's local memory. -/
def State.saveAt (s : State) (off : Nat) : List (Nat × Bool) → State
  | [] => s
  | (v, poison) :: ws =>
    let p : Place := .loc s.here off
    let s := if poison then
        let s := s.putPlace p 8 v
        { s with mem := s.mem.poisonWord (Region.local s.here + off) }
      else s.writePlace p 8 v
    State.saveAt s (off + 8) ws

/-- May `ctxs` or `ctxr` reach the area now: no lock, no earlier access, and no held store of the thread in the way (R205,
R252, R322)? -/
def State.areaFree (s : State) (at_ : Nat) : Bool :=
  let p : Place := .loc s.here at_
  s.readableNow at_ p areaSize && (penBytes s.th.pen ⟨0, at_, p, areaSize, 0, [], 0, false, false, none, false⟩).isEmpty

/-- `ctxs` (R269-R271). -/
def execCtxs (p : PredNo) (a : RegNo) (s : State) : Ans :=
  issue s (sysHead (.ctxs p a) p true [.s a.toNat] []) fun s =>
    let at_ := s.saveArea a
    if at_ % 64 ≠ 0 then .trap 6 (BitVec.ofNat 64 at_)
    else if inPrivate at_ areaSize = false then .trap 7 (BitVec.ofNat 64 at_)
    else if s.th.anyPending then .wait s .save
    else if !s.areaFree at_ then .wait s .locked
    else .retire (s.saveAt at_ s.saveWords)

/-- The word at index `k` of an area, and whether it holds the poison code. -/
def State.areaWord (s : State) (at_ k : Nat) : Nat × Bool :=
  let p := Region.local s.here + at_ + 8 * k
  (s.mem.read p 8, s.mem.poisoned p)

/-- Restore a scalar register from an area: poisoned where its word is (R271). -/
def Thread.restoreS (t : Thread) (n : Nat) (x : Nat × Bool) : Thread :=
  if x.2 then t.poisonS n 0 else t.setS n (BitVec.ofNat 64 x.1)

/-- Restore a vector register from the eight words of an area. -/
def Thread.restoreV (t : Thread) (n : Nat) (xs : List (Nat × Bool)) : Thread :=
  let v := BitVec.ofNat 512 (xs.foldr (fun x acc => x.1 + acc * 2 ^ 64) 0)
  if xs.any fun x => x.2 then t.poisonV n v 0 else t.setV n v

/-- The words of an area that reach no general register, free values where they are poisoned (DESIGN CHOICE, log entry 25). -/
def State.plainWords (s : State) (at_ k : Nat) : Nat → List Word × State
  | 0 => ([], s)
  | n + 1 =>
    let (x, poison) := s.areaWord at_ k
    let (v, s) := if poison then s.freeWord else (BitVec.ofNat 64 x, s)
    let (vs, s) := State.plainWords s at_ (k + 1) n
    (v :: vs, s)

/-- The registers of an area beyond the general ones: p0 to p7, the system registers and the loop stack, in the order of
R269 from offset 0x900. -/
def Thread.restoreRest (t : Thread) (ws : List Word) : Thread :=
  let w := fun k : Nat => ws.getD k 0
  let t := (List.range 8).foldl (fun (t : Thread) n => t.setP n (w n)) t
  let t := ((t.srWrite 0x040 (w 8)).srWrite 0x041 (w 9)).srWrite 0x031 (w 10)
  let t := t.srWrite 0x090 (w 11)
  let t := (List.range 4).foldl (fun (t : Thread) k =>
    t.modLoop k fun _ => ⟨halfword (w (12 + k)), halfword (w (16 + k)), (w (20 + k)).setWidth 32, (w (12 + k)).getLsbD 0⟩) t
  (((t.srWrite 0x000 (w 28)).srWrite 0x001 (w 29)).srWrite 0x002 (w 30)).srWrite 0x003 (w 31)

/-- Restore every register that `ctxr` writes. -/
def State.restoreArea (s : State) (at_ : Nat) : State :=
  let (ws, s') := s.plainWords at_ 288 32
  s'.modTh fun t =>
    let t := (List.range 32).foldl (fun (t : Thread) n => t.restoreS n (s.areaWord at_ n)) t
    let t := (List.range 32).foldl (fun (t : Thread) n =>
      t.restoreV n ((List.range 8).map fun k => s.areaWord at_ (32 + 8 * n + k))) t
    t.restoreRest ws

/-- Every general register. -/
def allRegs : List RName := (List.range 32).map RName.s ++ (List.range 32).map RName.v

/-- Park the slot until the hayloft resumes the core. -/
def Thread.park (t : Thread) : Thread := { t with state := .waiting, wait := some .parked }

/-- `ctxr` (R269-R271). -/
def execCtxr (p : PredNo) (halt : Bool) (a : RegNo) (s : State) : Ans :=
  issue s (sysHead (.ctxr p halt a) p true [.s a.toNat] allRegs) fun s =>
    let at_ := s.saveArea a
    if at_ % 64 ≠ 0 then .trap 4 (BitVec.ofNat 64 at_)
    else if inPrivate at_ areaSize = false then .trap 5 (BitVec.ofNat 64 at_)
    else if !s.areaFree at_ then .wait s .locked
    else
      let s := s.restoreArea at_
      if halt then .done (s.modTh fun t => (t.seqTo (t.pc + 4)).retired.park) else .retire s

/-! ## The shootdown (R272, R299-R301) -/

/-- Record that an agent has answered an invalidation; the `tinv` that has every answer retires. -/
def State.answered (s : State) (who : Nat) (va : Word) : State :=
  let hit := fun v : Tinv => v.va == va && v.left.contains who
  let now := s.tinvs.map fun v => if hit v then { v with left := v.left.erase who } else v
  let ended := now.filter fun v => v.left.isEmpty
  ended.foldl (fun s v => s.retireOther v.tid) { s with tinvs := now.filter fun v => !v.left.isEmpty }

/-- The virtual addresses at which a command will read HBM through the translation it made at issue (R371). -/
def TileCmd.mvsRange (c : TileCmd) : Option (Nat × Nat) :=
  match c.op with
  | .mvs f _ => some (c.opb.toNat, c.opb.toNat + (f.blockBytes + 1) * 4096 * mvsBlocks c.opb)
  | .mma _ _ | .msacc _ _ _ | .mzero _ | .mldz _ | .mstz _ _ _ => none

/-- The tile commands of a core that have translated and not ended, those in the commit buffer among them. -/
def Core.tileCmds (c : Core) : List TileCmd :=
  c.tileQ ++ c.cbuf.filterMap fun b => match b.op with
    | .tile k _ _ => some k
    | .copy _ _ | .commit => none

/-- Is something of the core, translated through an entry for this address, still to be performed (R301): an access, a held
store, an `mvs`, a `get`, an element that a copy has asked of another module or of the host? An entry
may have left the TLB since, so an access within the largest page counts (it is waited for at worst in vain), a store on a path within the page that it was translated by. A watch or `bar.wait` entry placed through the
translation has been performed as a read: it holds no answer, is not removed, and goes on watching its word in the old frame
(DESIGN CHOICE, log entry 29: the spec is silent). -/
def State.usesEntry (s : State) (core va : Nat) : Bool :=
  let near := fun x : Nat => x / 2 ^ 28 == va / 2 ^ 28
  (s.flights.any fun f => f.tid / 16 == core && f.elems.any fun x => !x.done && near x.va) ||
  ((slotsOf core).any fun tid => (s.thread tid).pen.any fun i => match i with
    | .store true st => st.page.any fun p => decide (p.1 ≤ va) && decide (va < p.1 + 2 ^ p.2)
    | .store false st => st.elems.any fun x => near x.va
    | .cmd _ _ => false) ||
  ((s.core core).tileCmds.any fun c => match c.mvsRange with
    | none => false
    | some (lo, hi) => decide (lo ≤ va / 2 ^ 28 * 2 ^ 28 + 2 ^ 28 - 1) && decide (va / 2 ^ 28 * 2 ^ 28 < hi)) ||
  ((s.core core).copyQ.any fun c => match c.asked with
    | none => false
    | some (k, _) => near ((if c.writing then c.dst else c.src).addr k)) ||
  s.fabops.any fun o => o.tid / 16 == core && o.kind == .get &&
    (near o.lva || near (o.lva + 8 * o.nw - 8) || decide (o.lva ≤ va) && decide (va < o.lva + 8 * o.nw))

/-- A core acts on an invalidation (R301): it answers once nothing uses the entries any more. -/
def State.invalidate (s : State) (core : Nat) (va : Word) (src : InvSrc) (peer : Option Nat) : State :=
  if s.usesEntry core va.toNat then s.owe (.invalidate core va src)
  else
    let s := s.dropTlb core fun e => decide (e.va ≤ va.toNat) && decide (va.toNat < e.va + 2 ^ e.size)
    match peer with
    | none => s.answered core va
    | some p => s.sendTo p (.invalidated core va)

/-- TLB_INVALIDATION (R272, R301): an invalidation reaches a core of this module, of a `tinv` here or on another module; or a
core of another module answers one. A packet acts only where it is authenticated (R428). -/
def execTlbInvalidation (core : Nat) (m : InvMsg) (s : State) : Ans :=
  match m.src with
  | .own =>
    let asked := decide (core < 2048) && s.tinvs.any fun v => v.va == m.va && v.left.contains core
    .next (if asked then s.invalidate core m.va .own none else s)
  | .held p => .next (s.invalidate core m.va (.held p) (some p))
  | .packet h =>
    let (ok, s) := s.takeFrom h.peer 1 [h]
    if !ok then .next s
    else if core < 2048 then .next (s.invalidate core m.va (.held h.peer) (some h.peer))
    else .next (if peerOf core = h.peer then s.answered core m.va else s)

/-- The cores a scope names for an invalidation: here, and on other modules of the connected group. To a named module outside
the group nothing is sent, so that the instruction retires at once (DESIGN CHOICE, log entry 29: R329 speaks of the cores that
answer). -/
def State.scopeAgents (s : State) (c : Scope) : List Nat :=
  let cores := (List.range 2048).filter c.core
  let peers := (s.peers.map (·.1)).filter fun p => p != s.ident.toNat && s.reaches p && c.names p
  (if c.here s.ident.toNat then cores else []) ++ peers.flatMap fun p => cores.map (2048 * (p + 1) + ·)

/-- May a thread's `tinv` act: its stores performed within the scope, and its strongly ordered accesses wherever they go
(R205, R272, R327)? -/
def State.tinvReady (s : State) (tid : Nat) (c : Scope) : Bool :=
  s.fenced tid c && !(s.flights.any fun f => f.tid == tid && f.isSo)

/-- Send an invalidation to a core, here or on another module. -/
def State.sendInvalidation (s : State) (va : Word) (core : Nat) : State :=
  if core < 2048 then s.owe (.invalidate core va .own) else s.sendTo (peerOf core) (.invalidate (core % 2048) va)

/-- `tinv` (R272): a fence in its scope, then an invalidation on every core there. -/
def execTinv (p : PredNo) (a b : RegNo) (s : State) : Ans :=
  issue s (sysHead (.tinv p a b) p true [.s a.toNat, .s b.toNat] []) fun s =>
    match s.th.wait with
    | some (.invalidate id) => .wait s (.invalidate id)
    | _ => match s.scope b with
      | none => .trap 2 (s.sv b)
      | some c =>
        if !s.tinvReady s.cur c then .wait s .fence
        else
          let va := s.sv a
          let agents := s.scopeAgents c
          if agents.isEmpty then .retire s
          else
            let (id, s) := s.fresh
            let v : Tinv := ⟨id, s.cur, va, agents⟩
            .wait (agents.foldl (fun s k => s.sendInvalidation va k) { s with tinvs := s.tinvs ++ [v] }) (.invalidate id)

/-! ## The spill (R274) -/

/-- The entries a core's queues hold, slot by slot, then its launch queue. -/
def State.spillItems (s : State) (core : Nat) : List SpillItem :=
  (List.range 16).flatMap (fun k =>
    let t := s.thread (core * 16 + k)
    t.recvQ.map (SpillItem.msg k) ++ t.callQ.map (SpillItem.call k)) ++
  (s.core core).launchQ.map SpillItem.launch

/-- SPILL (R274): once no slot is READY, the network interface empties its queues into the context buffer. -/
def execSpill (core : Nat) (s : State) : Ans :=
  let c := s.core core
  if !c.preempted || c.spilled then .next s
  else if (List.range 16).any fun k => (s.thread (core * 16 + k)).state == .ready then .next (s.owe (.spill core))
  else
    let items := s.spillItems core
    let s := (List.range 16).foldl (fun s k => s.modThread (core * 16 + k) fun t => { t with recvQ := [], callQ := [] }) s
    .next (s.modCore core fun c => { c with spilled := true, spill := items, launchQ := [] })

end Sys2Proof.Machine
end

