-- ==== Sys2Proof/Machine/Launch.lean ====
section
/-! DEFINITION. Active messages and the start of contexts (R35-R41, R482-R484, R495). -/

namespace Sys2Proof.Machine

/-! ## Records and accept words -/

/-- The fields of an active-message record (R36). -/
structure Record where
  reserved : Bool                  -- a reserved field is not zero
  pc       : Nat
  kind     : Nat
  slots    : Nat
  xlo      : Nat
  ylo      : Nat
  xhi      : Nat
  yhi      : Nat
  cntva    : Nat
  arg0     : Word
  arg1     : Word
  deriving DecidableEq, Repr

/-- A record of four words. -/
def Record.of (w0 w1 w2 w3 : Word) : Record :=
  let w := w0.toNat
  { reserved := bits w 63 60 != 0 || bits w1.toNat 63 48 != 0
    pc := bits w 59 40, kind := bits w 39 36, slots := bits w 35 32
    yhi := bits w 31 24, xhi := bits w 23 16, ylo := bits w 15 8, xlo := bits w 7 0
    cntva := bits w1.toNat 47 0, arg0 := w2, arg1 := w3 }

/-- The record of an ingress slot, or one that the hayloft sends (R35). -/
def State.recordOf (s : State) : MsgSrc → Record
  | .ingress n =>
    let w := fun k : Nat => tget 0 s.ingress (4 * n + k)
    Record.of (w 0) (w 1) (w 2) (w 3)
  | .hayloft w0 w1 w2 w3 => Record.of w0 w1 w2 w3

/-- The cores of a rectangle, row by row. -/
def rectCores (xlo ylo xhi yhi : Nat) : List Nat :=
  (List.range (yhi + 1 - ylo)).flatMap fun j => (List.range (xhi + 1 - xlo)).map fun i => coreAt (xlo + i) (ylo + j)

/-- The target cores of a record. -/
def Record.cores (r : Record) : List Nat := rectCores r.xlo r.ylo r.xhi r.yhi

/-- STATE of an accept word (R483). -/
def State.acceptState (s : State) (slot : Nat) : Nat := bits (tget 0 s.accept slot).toNat 63 62

/-- Write an accept word and raise the MSI-X vector of the slot's block (R484). -/
def State.setAccept (s : State) (slot : Nat) (v : Nat) : State :=
  { s with accept := tset s.accept slot (BitVec.ofNat 64 v) }.send (.msix (slot / 64))

/-- The paddock that an ingress slot serves (R482). -/
def State.slotPaddock (s : State) (slot : Nat) : Option (Nat × Paddock) :=
  s.paddocks.find? fun p => p.2.blocks.getLsbD (slot / 64)

/-- Does a rectangle lie in a paddock? -/
def Paddock.holds (p : Paddock) (xlo ylo xhi yhi : Nat) : Bool :=
  decide (p.xlo ≤ xlo) && decide (p.ylo ≤ ylo) && decide (xhi ≤ p.xhi) && decide (yhi ≤ p.yhi)

/-- The refusal code of a record for a paddock, 0 for none; the conditions stand in the order of their codes (R37, R483). -/
def State.refusal (s : State) (paddock : Option Paddock) (r : Record) : Nat :=
  let single := r.kind != 1
  if r.reserved || decide (2 < r.kind) || r.slots == 0 || (single && r.cntva != 0) then 1
  else if r.xhi < r.xlo ∨ r.yhi < r.ylo ∨ 63 < r.xhi ∨ 31 < r.yhi then 2
  else match paddock with
    | none => 3
    | some p =>
      if !p.holds r.xlo r.ylo r.xhi r.yhi then 3
      else if r.pc % 2 = 1 || r.cores.any (fun c => decide ((s.core c).xbound.toNat ≤ r.pc)) then 4
      else if single && (r.xlo != r.xhi || r.ylo != r.yhi || r.slots != 1) then 5
      else if !single && r.cntva % 8 != 0 then 6
      else 0

/-- The module reads and checks a pending record: refused, or spreading over its cores. One for a paddock that is swapped
out stays pending (R495). -/
def State.readRecord (s : State) (slot : Nat) : State :=
  let out := match s.slotPaddock slot with
    | none => false
    | some (_, p) => p.out
  if out then s
  else
    let r := s.recordOf (.ingress slot)
    let code := s.refusal ((s.slotPaddock slot).map fun p => p.2) r
    if code ≠ 0 then s.setAccept slot (3 * 2 ^ 62 + code)
    else
      let sp : Spread := ⟨slot, r.cores, 0, 0⟩
      r.cores.foldl (fun s c => s.owe (.record slot c)) { s with spreads := s.spreads ++ [sp] }

/-- A write to an accept word (R482). -/
def State.doorbell (s : State) (slot : Nat) : State :=
  if !s.ready || decide (4096 ≤ slot) || s.acceptState slot == 1 then s
  else { s with accept := tset s.accept slot (BitVec.ofNat 64 (2 ^ 62)) }.readRecord slot

/-- INGRESS_DOORBELL (R37, R482): the host writes to an accept word. -/
def execIngressDoorbell (slot : Nat) (s : State) : Ans := .next (s.doorbell slot)

/-! ## Contexts (R38-R41) -/

/-- The count word as a core reads it: the count, a fault, or a wait. -/
inductive CountRd where
  | ok (n : Nat)
  | fault
  | wait
  deriving DecidableEq, Repr

/-- Read a fan-out's count word as a supervisor load of the core (R38, R39). -/
def State.countWord (s : State) (core va : Nat) : CountRd × State :=
  match s.translate core false .load va with
  | (.ok t, s) =>
    if !t.kind.record then (.fault, s)
    else if s.heldRead t.place 8 then (.wait, s)
    else
      let (v, poison, s) := s.readPlace t.place 8
      (if poison then .fault else .ok v, s)
  | (.busy, s) => (.wait, s)
  | (.fault _ _, s) | (.poison, s) => (.fault, s)

/-- The lowest slot in which a context may start: 15 for a movement context, else one of 0 to 14. -/
def State.idleSlot (s : State) (core : Nat) (movement : Bool) : Option Nat :=
  (if movement then [15] else List.range 15).find? fun k => (s.thread (core * 16 + k)).state == .idle

/-- A context at its start in a slot (R41): user mode, a0 to a3, and TVEC. -/
def Thread.begun (l : Launch) (tvec : Word) (t : Thread) : Thread :=
  { t.ended with
      state := .ready, pc := l.pc, tvec := tvec
      s := [(4, ⟨l.arg0, false, false, 0⟩), (5, ⟨l.arg1, false, false, 0⟩), (6, ⟨l.index, false, false, 0⟩),
            (7, ⟨l.count, false, false, 0⟩)] }

/-- The paddock of a core. -/
def State.paddockOf (s : State) (core : Nat) : Option Paddock := (s.core core).paddock.bind fun p => tfind s.paddocks p

/-- The default handler address of a core's paddock. -/
def State.tvecOf (s : State) (core : Nat) : Word :=
  match s.paddockOf core with
  | none => 0
  | some d => d.tvec

/-- Start the oldest queued context that finds its slot, if any. It starts on a core that has been pre-empted and has not
spilled yet too, and PREEMPT is not raised in it (DESIGN CHOICE, log entry 29: R55 and R273 speak of the slots running then). -/
def State.startOne (s : State) (core : Nat) : State :=
  match (s.core core).launchQ.find? fun l => (s.idleSlot core l.movement).isSome with
  | none => s
  | some l =>
    match s.idleSlot core l.movement with
    | none => s
    | some k =>
      let tid := core * 16 + k
      let s := s.modCore core fun c => { c with launchQ := c.launchQ.erase l }
      s.modThread tid (Thread.begun l (s.tvecOf core))

/-- Start queued contexts while they find slots: at most one for each slot of the core. -/
def State.startAll (s : State) (core : Nat) : Nat → State
  | 0 => s
  | n + 1 => State.startAll (s.startOne core) core n

/-- Change the spread of a slot. -/
def State.setSpread (s : State) (slot : Nat) (f : Spread → Spread) : State :=
  { s with spreads := s.spreads.map fun x => if x.slot = slot then f x else x }

/-- The contexts that a record starts on a core (R38, R41). -/
def Record.launches (r : Record) (core count : Nat) : List Launch :=
  let q := (core / 64 - r.ylo) * (r.xhi - r.xlo + 1) + (core % 64 - r.xlo)
  let one := fun g n : Nat => Launch.mk (BitVec.ofNat 64 r.pc) r.arg0 r.arg1 (BitVec.ofNat 64 g) (BitVec.ofNat 64 n) (r.kind == 2)
  if r.kind = 1 then ((List.range r.slots).map fun j => q * r.slots + j).filterMap fun g =>
    if g < count then some (one g count) else none
  else [one 0 1]

/-- A core has started or queued contexts of a record, or could not read its count word: a record of the host is told so. -/
def State.report (s : State) (p : Posted) (started cfault : Nat) : State :=
  match p.src with
  | .hayloft .. => s
  | .ingress n =>
    let s := s.setSpread n fun x =>
      { x with left := x.left.erase p.core, started := x.started + started, cfault := x.cfault + cfault }
    if s.spreads.any fun x => x.slot == n && x.left.isEmpty then s.oweOnce (.accepted n) else s

/-- Read the count word of a record at a core, unless a lock or an owner holds it (R38, R39). -/
def State.readCount (s : State) (p : Posted) : State :=
  match s.countWord p.core (s.recordOf p.src).cntva with
  | (.wait, s) => s
  | (.fault, s) => { s with posted := s.posted.erase p }.report p 0 1
  | (.ok n, s) => { s with posted := s.posted.map fun q => if q = p then { q with count := some n } else q }

/-- Serve the oldest record at a core, if its count is known and the launch queue has room (R40): later ones wait behind it
(R56). -/
def State.serveOne (s : State) (core : Nat) : State :=
  match s.posted.find? fun p => p.core == core with
  | none => s
  | some p =>
    match p.count with
    | none => s
    | some n =>
      let r := s.recordOf p.src
      let ls := r.launches core n
      let slots := if r.kind = 2 then [15] else List.range 15
      let free := (slots.filter fun k => (s.thread (core * 16 + k)).state == .idle).length
      if 64 < (s.core core).launchQ.length + (ls.length - free) then s
      else
        let s := { s with posted := s.posted.erase p }.modCore core fun c => { c with launchQ := c.launchQ ++ ls }
        (s.startAll core 16).report p ls.length 0

/-- Serve records at a core while they can be served. -/
def State.serveSome (s : State) (core : Nat) : Nat → State
  | 0 => s
  | n + 1 => State.serveSome (s.serveOne core) core n

/-- What the records at a core come to now: counts are read as records reach it, and served in their order; those that wait
are tried again. A core that has spilled, or is swapped out, takes none (R274, R495). -/
def State.serveRecords (s : State) (core : Nat) : State :=
  let mine := fun p : Posted => p.core == core
  let s :=
    if (s.core core).spilled || s.coreOut core then s
    else
      let s := (s.posted.filter fun p => mine p && p.count.isNone).foldl (fun s p => s.readCount p) s
      s.serveSome core s.posted.length
  if s.posted.any mine then s.oweOnce (.start core) else s

/-- CONTEXT_START (R40): a queued context starts in a slot that has become IDLE, and records that wait are served. -/
def execContextStart (core : Nat) (s : State) : Ans := .next ((s.startAll core 16).serveRecords core)

/-- Does a record reach a core: one of the host that is spreading, once; one of the hayloft that R37 does not refuse? A record
of the hayloft is checked against the paddock of the core it reaches, and its refusal or count fault is told to nobody (DESIGN
CHOICE, log entry 29: R35 and R37 speak of neither). -/
def State.reachesCore (s : State) (src : MsgSrc) (core : Nat) : Bool :=
  match src with
  | .ingress n => (s.spreads.any fun x => x.slot == n && x.left.contains core) && !(s.posted.any fun p => p.src == src && p.core == core)
  | .hayloft .. =>
    let r := s.recordOf src
    s.refusal (s.paddockOf core) r == 0 && r.cores.contains core

/-- ACTIVE_MESSAGE_ARRIVAL (R35-R40): a record of the host or of the hayloft reaches a core, which reads the count word and
starts or queues its contexts. -/
def execActiveMessageArrival (src : MsgSrc) (core : Nat) (s : State) : Ans :=
  if !s.reachesCore src core then .next s
  else
    let p : Posted := ⟨src, core, if (s.recordOf src).kind = 1 then none else some 1⟩
    .next ({ s with posted := s.posted ++ [p] }.serveRecords core)

/-- ACCEPT_WORD_WRITE (R483, R484): every target core has started or queued its contexts. -/
def execAcceptWordWrite (slot : Nat) (s : State) : Ans :=
  match s.spreads.find? fun x => x.slot == slot && x.left.isEmpty with
  | none => .next s
  | some x =>
    let s := { s with spreads := s.spreads.filter fun y => y.slot != slot }
    .next (s.setAccept slot (2 * 2 ^ 62 + x.started % 2 ^ 16 * 2 ^ 32 + x.cfault % 2 ^ 16 * 2 ^ 16))

end Sys2Proof.Machine
end

