-- ==== Sys2Proof/Machine/Host.lean ====
section
/-! DEFINITION. The host's registers, its window onto HBM, the sensors, the event log and the boot (R479-R482, R488-R495). -/

namespace Sys2Proof.Machine

/-! ## BAR0 and BAR2 (R480, R482, R483) -/

/-- MSTATUS (R480). -/
def State.mstatus (s : State) : Word :=
  BitVec.ofNat 64 (bitAt s.recovery 7 + bitAt (s.isles.any fun x => x.2.getLsbD 0) 6 + bitAt s.nested 5 +
    bitAt s.lognew 4 + bitAt s.ready 0)

/-- CMDRES (R486). -/
def State.cmdres (s : State) : Word := BitVec.ofNat 64 (s.cmdState * 2 ^ 62 + s.cmdCode.toNat)

/-- A doubleword of an event-log entry (R494). -/
def LogEntry.word (e : LogEntry) : Nat → Word
  | 0 => e.time
  | 1 => BitVec.ofNat 64 (e.seq.toNat * 2 ^ 32 + e.sub.toNat * 2 ^ 8 + e.event.toNat)
  | 2 => e.data0
  | _ => e.data1

/-- Is an access of `n` bytes one that BAR0 takes: an aligned doubleword (R480)? -/
def bar0Takes (off n : Nat) : Bool := off % 8 == 0 && n == 8 && decide (off < 0x10000)

/-- What a read of `n` bytes of BAR0 finds (R480). -/
def State.bar0Read (s : State) (off n : Nat) : Word :=
  if !bar0Takes off n then BitVec.allOnes 64
  else if off = 0x0000 then s.mstatus
  else if off = 0x0008 then BitVec.ofNat 64 (s.ident.toNat * 2 ^ 36 + 1)
  else if off = 0x0010 then BitVec.ofNat 64 (s.w4base.toNat * 2 ^ 30)
  else if off = 0x0018 then s.loghead.setWidth 64
  else if off = 0x0020 then s.logpage.setWidth 64
  else if 0x0100 ≤ off ∧ off < 0x0180 then tget 0 s.cmd ((off - 0x0100) / 8)
  else if off = 0x0180 then s.cmdres
  else if 0x1000 ≤ off ∧ off < 0x2000 then tget 0 s.isles ((off - 0x1000) / 8)
  else if 0x8000 ≤ off ∧ off < 0x9000 then
    match tfind s.log (128 * s.logpage.toNat + (off - 0x8000) / 32) with
    | none => 0
    | some e => e.word (off % 32 / 8)
  else 0

/-- What a read of BAR2 finds: ingress records and accept words (R482, R483). -/
def State.bar2Read (s : State) (off : Nat) : Word :=
  if off < 0x20000 then tget 0 s.ingress (off / 8) else tget 0 s.accept ((off - 0x20000) / 8)

/-- A write of `n` bytes to BAR0 (R480, R486): W1C bits, W4BASE, LOGPAGE, the command block, and CMDRES, which starts a
command. -/
def State.bar0Write (s : State) (off n : Nat) (v : Word) : State :=
  if !bar0Takes off n then s
  else if off = 0x0000 then { s with nested := s.nested && !v.getLsbD 5, lognew := s.lognew && !v.getLsbD 4 }
  else if off = 0x0010 then { s with w4base := (v >>> 30).setWidth 11 }
  else if off = 0x0020 then { s with logpage := v.setWidth 5 }
  else if 0x0100 ≤ off ∧ off < 0x0180 then
    if s.cmdState = 1 then s else { s with cmd := tset s.cmd ((off - 0x0100) / 8) v }
  else if off = 0x0180 then
    if s.cmdState = 1 ∨ (s.ready = false ∧ s.recovery = false) then s
    else { s with cmdState := 1, cmdCode := 0 }.owe (.command ((tget 0 s.cmd 0).toNat % 256))
  else s

/-- A word with byte `k` replaced. -/
def setByte (w : Word) (k : Nat) (b : Byte) : Word := (w &&& ~~~(0xFF#64 <<< (8 * k))) ||| (b.setWidth 64 <<< (8 * k))

/-- One byte of a write to BAR2: of a record, unless the slot's STATE is 1 (R482). -/
def State.bar2Byte (s : State) (off : Nat) (b : Byte) : State :=
  if 0x20000 ≤ off ∨ s.acceptState (off / 32) = 1 then s
  else { s with ingress := tset s.ingress (off / 8) (setByte (tget 0 s.ingress (off / 8)) (off % 8) b) }

/-- A write of `n` bytes to BAR2, at most eight: bytes of records, or the doorbell of each accept word that it touches (R482). -/
def State.bar2Write (s : State) (off n : Nat) (v : Word) : State :=
  let at_ := (List.range (min n 8)).map (off + ·)
  let s := at_.foldl (fun s o => s.bar2Byte o (BitVec.ofNat 8 (v.toNat / 256 ^ (o - off)))) s
  let bells := (at_.filter fun o => decide (0x20000 ≤ o) && decide (o < 0x28000)).map fun o => (o - 0x20000) / 8
  bells.eraseDups.foldl (fun s k => s.doorbell k) s

/-- REGISTER_WRITE (R7, R9, R480, R482): a host write to a register. -/
def execRegisterWrite (r : RegWrite) (s : State) : Ans :=
  match r with
  | .bar0 off n v => .next (s.bar0Write off n v)
  | .bar2 off n v => .next (s.bar2Write off n v)

/-! ## The window (R281, R481) -/

/-- Does a physical address name a byte of HBM (R281)? -/
def hbmAddr (pa : Nat) : Bool := decide (pa < 2 ^ 41) && decide (pa % 2 ^ 37 < 0x140000 * 2 ^ 16)

/-- Write back and discard every cached copy of the line at `base` (R481). -/
def State.purge (s : State) (base : Nat) : State :=
  (s.lines.filter fun l => l.pa == base).foldl (fun s l => s.dropLine l) s

/-- Does an engine own the line of a physical address in some slice, or has still to read it? -/
def State.lineHeld (s : State) (pa : Nat) : Bool := s.heldAt (.hbm 0 pa 0) 1 || s.cores.any fun c => s.owned c.1 pa fun _ => true

/-- Is a line among `n` bytes from a physical address on held, so that the access to them waits (R291, R322)? -/
def State.rangeHeld (s : State) (pa n : Nat) : Bool :=
  (List.range (n / 256 + 2)).any fun k => s.lineHeld (pa + min (256 * k) (n - 1))

/-- Tell the watches on the doubleword at a physical address, wherever it is homed (R218). -/
def State.notifyHbm (s : State) (pa : Nat) : State :=
  let here := fun p : Place => match p with
    | .line _ a _ | .hbm _ a _ => a == pa / 8 * 8
    | .loc _ _ | .rd _ _ _ | .yard _ _ _ | .host _ | .mcast _ _ | .bin _ _ => false
  let places := (s.cores.flatMap fun c => c.2.watches.map fun w => w.place).filter here
  places.eraseDups.foldl (fun s p => s.notify p) s

/-- A write of `n` bytes within one aligned doubleword of HBM under key 0, every cached copy discarded first. -/
def State.hostWord (s : State) (pa n v : Nat) : State :=
  let s := (s.purge (pa / 256 * 256)).hbmTo pa 0
  { s with mem := s.mem.store pa n v }.notifyHbm pa

/-- A run of bytes as a number, the first least significant. -/
def bytesVal (bs : List Byte) : Nat := bs.foldr (fun b v => b.toNat + 256 * v) 0

/-- Write a run of bytes at a physical address, doubleword by doubleword; bytes beyond a stack are dropped (R481). -/
def State.hostWrite (s : State) (pa : Nat) (bs : List Byte) : Nat → State
  | 0 => s
  | k + 1 =>
    if bs.isEmpty then s
    else
      let n := min (8 - pa % 8) bs.length
      let s := if hbmAddr pa then s.hostWord pa n (bytesVal (bs.take n)) else s
      State.hostWrite s (pa + n) (bs.drop n) k

/-- Read `n` bytes at a physical address under key 0; a byte beyond its stack reads as all ones (R481). -/
def State.hostRead (s : State) (pa : Nat) : Nat → List Byte × State
  | 0 => ([], s)
  | n + 1 =>
    let s := if hbmAddr pa then s.purge (pa / 256 * 256) else s
    let b := if hbmAddr pa then s.hbmByte pa 0 else 0xFF
    let (bs, s) := State.hostRead s (pa + 1) n
    (b :: bs, s)

/-- What an AtomicOp makes of `w` bytes (R479). -/
def busAmo (w old : Nat) : BusAmo → Nat
  | .fetchAdd x => (old + x.toNat) % 256 ^ w
  | .swap x => x.toNat % 256 ^ w
  | .cas cmp x => if old = cmp.toNat % 256 ^ w then x.toNat % 256 ^ w else old

/-- Answer the host with `n` bytes read at a physical address. Where an uncorrectable word is among them, the answer is a poisoned
one and no data (R12; DESIGN CHOICE, log entry 29: the spec does not say how the window reports it). -/
def State.sendWindow (s : State) (pa : Nat) (bs : List Byte) : State :=
  s.send (if s.mem.anyPoison pa bs.length then .windowPoison bs.length else .window bs)

/-- An AtomicOp of the host on `w` aligned bytes at a physical address: the bytes it found return (R479, R481). On a word that holds
the poison code it writes nothing (R12, R213). -/
def State.hostAtomic (s : State) (pa w : Nat) (op : BusAmo) : State :=
  let (old, s) := s.hostRead pa w
  let new := busAmo w (bytesVal old) op
  let s' := s.sendWindow pa old
  if s.mem.anyPoison pa w then s' else s'.hostWrite pa ((List.range w).map fun k => BitVec.ofNat 8 (new / 256 ^ k)) w

/-- BAR4_WINDOW_ACCESS (R479, R481): window byte o reaches physical address W4BASE + o. A line that an engine owns is waited
for. An AtomicOp that is neither of 4 nor of 8 bytes, or not aligned, is dropped (DESIGN CHOICE, log entry 29). -/
def execBar4WindowAccess (a : WinAccess) (s : State) : Ans :=
  let base := s.w4base.toNat * 2 ^ 30
  let held := fun o n : Nat => s.rangeHeld (base + o) n
  if s.ready = false ∧ s.recovery = false then .next s
  else match a with
    | .read o n =>
      if 2 ^ 36 < o + n || held o n then .next s
      else
        let (bs, s) := s.hostRead (base + o) n
        .next (s.sendWindow (base + o) bs)
    | .write o bs =>
      if 2 ^ 36 < o + bs.length || held o bs.length then .next s
      else .next (s.hostWrite (base + o) bs (bs.length + 1))
    | .atomic o w op =>
      if (w ≠ 4 ∧ w ≠ 8) ∨ o % w ≠ 0 ∨ 2 ^ 36 < o + w ∨ held o w = true then .next s
      else .next (s.hostAtomic (base + o) w op)

/-! ## Sensors, the log's flash copy and exports (R426, R491-R493) -/

/-- ISLAND_SENSOR_REFRESH (R358, R491-R493): the readings, the alarm and, where no command runs, narrowed mode; `below1ms`
says that both readings have stayed below the lower limits for 1 ms. -/
def execIslandSensorRefresh (island : Nat) (temp curr volt : BitVec 16) (below1ms : Bool) (s : State) : Ans :=
  if s.ready = false ∨ 512 ≤ island then .next s
  else
    let was := (tget 0 s.isles island).getLsbD 0
    let hot := decide (6720 < temp.toNat)
    let high := decide (30000 < curr.toNat)
    let cool := below1ms && decide (temp.toNat < 6400) && decide (curr.toNat < 27000)
    let now := if was then !cool else hot || high
    let v := BitVec.ofNat 64 (temp.toNat * 2 ^ 48 + curr.toNat * 2 ^ 32 + volt.toNat * 2 ^ 16 + bitAt now 0)
    let s := { s with isles := tset s.isles island v }
    let mode := fun s : State => ((List.range 2048).filter fun c => islandOf c == island).foldl (fun s c => s.settleMode c) s
    if now && !was then
      .next ((mode s).logEvent 1 (if hot && high then 3 else if high then 1 else 2) (BitVec.ofNat 64 island) v)
    else if was && !now then .next ((mode s).logEvent 2 0 (BitVec.ofNat 64 island) v)
    else .next s

/-- LOG_FLASH_COPY (R493). -/
def execLogFlashCopy (s : State) : Ans := .next (if s.ready then { s with flashLog := s.log } else s)

/-- EXPORT_ENTRY_WRITE (R426): the hayloft writes an entry of a paddock's export table. -/
def execExportEntryWrite (paddock entry : Nat) (w0 w1 : BitVec 64) (s : State) : Ans :=
  if 64 ≤ entry then .next s
  else match tfind s.paddocks paddock with
    | none => .next s
    | some p => .next { s with paddocks := tset s.paddocks paddock { p with exports := tset p.exports entry (w0, w1) } }

/-! ## Reset and boot (R488, R489) -/

/-- The peer entry of the module itself: VALID, REACH, REV 1, CAP 0x3F (R423, R424). -/
def ownPeer : Word := 0xC00000000000013F

/-- MODULE_RESET (R488, R489): everything returns to its reset value but the flash, the host's memory and what has left
the module; then the boot. `trained` says whether HBM and the links were trained. Where they were not, or an image fails its
checks, the recovery ROM waits. -/
def execModuleReset (trained : Bool) (s : State) : Ans :=
  let host := fun a : Nat => decide (Region.host 0 ≤ a) && decide (a < Region.slice 0 0)
  let r : State := { State.reset with
    mem := ⟨s.mem.cells.filter fun c => host c.1, s.mem.poison.filter fun w => host (8 * w)⟩
    flash := s.flash, flashLog := s.flashLog, outbox := s.outbox, agenda := s.agenda, oracle := s.oracle }
  if trained && Config.firmwareOk s.flash then
    .next { r with
      ready := true, ident := Config.ident, peers := [(Config.ident.toNat, ownPeer)]
      measure := (List.range 3).map fun i => (0, i, Config.imageHash s.flash i) }
  else .next ({ r with recovery := true }.logEvent 5 (Config.failedImage s.flash) (if trained then 2 else 1) 0)

end Sys2Proof.Machine
end

