-- ==== Sys2Proof/Machine/Sha.lean ====
section
/-! DEFINITION. SHA-512 (FIPS 180-4), which the measurement log and the report of an attestation use (R488, R490). -/

namespace Sys2Proof.Sha

/-- The integer part of the square root of `n`, by `k` steps of bisection on [lo, lo + 2^k). -/
def rootFrom (f : Nat → Nat) (n lo : Nat) : Nat → Nat
  | 0 => lo
  | k + 1 => if f (lo + 2 ^ k) ≤ n then rootFrom f n (lo + 2 ^ k) k else rootFrom f n lo k

/-- The first 80 primes. -/
def primes : List Nat := ((List.range 410).filter fun n => decide (2 ≤ n) && (List.range n).all fun d => decide (d < 2) || n % d != 0)

/-- The first 64 bits of the fraction of a prime's cube root: a round constant. -/
def roundConst (p : Nat) : Word := BitVec.ofNat 64 (rootFrom (fun x => x * x * x) (p * 2 ^ 192) 0 68)

/-- The first 64 bits of the fraction of a prime's square root: a word of the initial hash. -/
def initial (p : Nat) : Word := BitVec.ofNat 64 (rootFrom (fun x => x * x) (p * 2 ^ 128) 0 69)

/-- Rotate three times and xor. -/
def rot3 (x : Word) (a b c : Nat) : Word := x.rotateRight a ^^^ x.rotateRight b ^^^ x.rotateRight c

/-- Grow the message schedule, latest word first, by `n` words. -/
def schedule (ws : List Word) : Nat → List Word
  | 0 => ws
  | n + 1 =>
    let a := ws.getD 1 0
    let b := ws.getD 14 0
    let x := (a.rotateRight 19 ^^^ a.rotateRight 61 ^^^ a >>> 6) + ws.getD 6 0 +
      (b.rotateRight 1 ^^^ b.rotateRight 8 ^^^ b >>> 7) + ws.getD 15 0
    schedule (x :: ws) n

/-- One round: the eight working words and a word of the schedule plus its constant. -/
def round (h : List Word) (kw : Word) : List Word :=
  match h with
  | [a, b, c, d, e, f, g, h] =>
    let t1 := h + rot3 e 14 18 41 + ((e &&& f) ^^^ (~~~e &&& g)) + kw
    let t2 := rot3 a 28 34 39 + ((a &&& b) ^^^ (a &&& c) ^^^ (b &&& c))
    [t1 + t2, a, b, c, d + t1, e, f, g]
  | _ => h

/-- A big-endian word of 8 bytes. -/
def word (bs : List Byte) : Word := bs.foldl (fun w b => w <<< 8 ||| b.setWidth 64) 0

/-- Hash `n` blocks of 128 bytes. -/
def blocks (ks : List Word) (h : List Word) (bs : List Byte) : Nat → List Word
  | 0 => h
  | n + 1 =>
    let first := (List.range 16).map fun i => word ((bs.drop (8 * i)).take 8)
    let ws := (schedule first.reverse 64).reverse
    let h' := (List.zipWith (· + ·) ws ks).foldl round h
    blocks ks (List.zipWith (· + ·) h h') (bs.drop 128) n

/-- The hash of a list of bytes, its first byte most significant. -/
def sha512 (bs : List Byte) : BitVec 512 :=
  let n := bs.length
  let zeros := (111 + 128 - n % 128) % 128
  let padded := bs ++ [0x80] ++ List.replicate zeros 0 ++ (List.range 16).map fun i => BitVec.ofNat 8 (8 * n / 256 ^ (15 - i))
  let h := blocks (primes.map roundConst) ((primes.take 8).map initial) padded (padded.length / 128)
  BitVec.ofNat 512 (h.foldl (fun v w => v * 2 ^ 64 + w.toNat) 0)

end Sys2Proof.Sha
end

