-- ==== Sys2Proof/Machine/Hayloft.lean ====
section
/-! DEFINITION. The sixteen commands of the hayloft (R273-R275, R297, R298, R425, R443, R469, R485-R490, R495). -/

namespace Sys2Proof.Machine

/-! ## Serving a command (R486, R487, R493) -/

/-- How a command ends: done, refused with a code (with nothing done, or after what it has undone), or still running. -/
inductive CmdRes where
  | done (s : State)
  | refuse (code : Nat)
  | refuseIn (s : State) (code : Nat)
  | again (s : State)

/-- Word `k` of the command block. -/
def State.cmdWord (s : State) (k : Nat) : Nat := (tget 0 s.cmd k).toNat

/-- A refusal: CMDRES, and an entry in the event log. -/
def State.refuseCmd (s : State) (code res : Nat) : State :=
  { s with cmdState := 3, cmdCode := BitVec.ofNat 8 res }.logEvent 6 (BitVec.ofNat 8 res) (BitVec.ofNat 64 code) (tget 0 s.cmd 1)

/-- Are the bits of words 1 to 15 that a command does not use zero? `used` gives the bits of each word it uses. -/
def State.operandsOk (s : State) (used : List (Nat × Nat)) : Bool :=
  (List.range 15).all fun k => s.cmdWord (k + 1) &&& ((used.lookup (k + 1)).getD 0) == s.cmdWord (k + 1)

/-- Serve the command `code`: refused for an operand bit it does not use, and while the recovery ROM waits. -/
def serve (s : State) (code : Nat) (used : List (Nat × Nat)) (act : State → CmdRes) : Ans :=
  if s.cmdState ≠ 1 ∨ s.cmdWord 0 % 256 ≠ code then .next s
  else if !s.operandsOk used then .next (s.refuseCmd code 1)
  else if s.ready = false ∧ code ≠ 0x10 then .next (s.refuseCmd code 2)
  else match act s with
    | .done s => .next { s with cmdState := 2, cmdCode := 0 }
    | .refuse r => .next (s.refuseCmd code r)
    | .refuseIn s r => .next (s.refuseCmd code r)
    | .again s => .next (s.owe (.command code))

/-- A code that names no command is a bad operand. -/
def State.noCommand (s : State) : State := if s.cmdState = 1 then s.refuseCmd (s.cmdWord 0 % 256) 1 else s

/-- Every bit of a word. -/
def allBits : Nat := 2 ^ 64 - 1

/-- The rectangle of a rectangle word. -/
def rectOf (v : Nat) : Nat × Nat × Nat × Nat := (bits v 7 0, bits v 15 8, bits v 23 16, bits v 31 24)

/-- The cores of a paddock. -/
def Paddock.cores (p : Paddock) : List Nat := rectCores p.xlo p.ylo p.xhi p.yhi

/-- The slot a core word names, if the core exists. -/
def coreWord (v : Nat) : Option Nat :=
  if bits v 7 0 < 64 ∧ bits v 15 8 < 32 then some (coreAt (bits v 7 0) (bits v 15 8) * 16 + bits v 19 16) else none

/-! ## Paddocks -/

/-- Do two rectangles share a core? -/
def Paddock.meets (p : Paddock) (xlo ylo xhi yhi : Nat) : Bool :=
  decide (p.xlo ≤ xhi) && decide (xlo ≤ p.xhi) && decide (p.ylo ≤ yhi) && decide (ylo ≤ p.yhi)

/-- Change a sequencer. -/
def State.modSeq (s : State) (q : Nat) (f : Sequencer → Sequencer) : State := { s with seqs := tmod Sequencer.zero s.seqs q f }

/-- PADDOCK_SET (R448, R487). Blocks, bins and sequencers belong to at most one paddock; the TLBs of its cores and sequencers are
emptied. -/
def execPaddockSet (s : State) : Ans :=
  serve s 0x01 [(1, 0xFFFF000000FF), (2, 0xFFFFFFFF), (3, 2 ^ 41 - 1), (4, 0xFFFFE), (5, 0x1FFFFF), (6, 0xFFFFE), (7, allBits),
    (8, allBits), (9, allBits), (10, 0xFFFFFFFF), (11, 0xFFFFFFFF3F3F), (12, 1)] fun s =>
    let w := s.cmdWord
    let n := bits (w 1) 7 0
    let (xlo, ylo, xhi, yhi) := rectOf (w 2)
    if xhi < xlo ∨ yhi < ylo ∨ 63 < xhi ∨ 31 < yhi ∨ w 3 % 2 ^ 15 ≠ 0 ∨ w 5 % 2 ≠ 0 ∨ 0x100000 < w 5 then .refuse 1
    else
      let p : Paddock :=
        { xlo := xlo, xhi := xhi, ylo := ylo, yhi := yhi, job := BitVec.ofNat 16 (bits (w 1) 47 32)
          tvec := BitVec.ofNat 64 (w 4), blocks := BitVec.ofNat 64 (w 7), bins := BitVec.ofNat 128 (w 8 + w 9 * 2 ^ 64)
          seqs := BitVec.ofNat 32 (w 10), gtoLog := bits (w 11) 5 0, rthLog := bits (w 11) 13 8, tick := bits (w 11) 47 16
          sigTack := bits (w 12) 0 0 == 1, exports := [], out := false }
      if s.paddocks.any fun q => q.1 == n || q.2.meets xlo ylo xhi yhi || q.2.blocks &&& p.blocks != 0 ||
          q.2.bins &&& p.bins != 0 || q.2.seqs &&& p.seqs != 0 then .refuse 2
      else
        let s := { s with paddocks := tset s.paddocks n p }
        let s := p.cores.foldl (fun s c => (s.dropTlb c fun _ => true).modCore c fun k =>
          { k with
              paddock := some n, ptroot := w 3, xbound := BitVec.ofNat 64 (w 5), ovec := BitVec.ofNat 64 (w 6) }) s
        .done (((List.range 32).filter p.seqs.getLsbD).foldl (fun s q => s.modSeq q fun x =>
          { x with paddock := some n, tlb := [], suspended := false }) s)

/-- PADDOCK_CLEAR (R486, R495): only when every slot is IDLE and no context waits for one. -/
def execPaddockClear (s : State) : Ans :=
  serve s 0x02 [(1, 0xFF)] fun s =>
    match tfind s.paddocks (s.cmdWord 1) with
    | none => .refuse 1
    | some p =>
      if p.cores.any (fun c => !(s.core c).launchQ.isEmpty || (slotsOf c).any fun t => (s.thread t).state != .idle) then .refuse 2
      else
        let s := { s with paddocks := tdel s.paddocks (s.cmdWord 1) }
        let s := p.cores.foldl (fun s c =>
          let s := (s.dropTlb c fun _ => true).modCore c fun k => { k with paddock := none, ptroot := 0, xbound := 0, ovec := 0 }
          (slotsOf c).foldl (fun s t => s.modThread t fun h => { h with bp := 0 }) s) s
        let s := ((List.range 32).filter p.seqs.getLsbD).foldl (fun s q => s.modSeq q fun x => { x with paddock := none, tlb := [] }) s
        let mine := fun i : Nat => p.blocks.getLsbD (i / 64) && s.acceptState i == 1
        let gone := fun r : Posted => p.cores.contains r.core || match r.src with
          | .ingress i => mine i
          | .hayloft .. => false
        let s := { s with spreads := s.spreads.filter fun x => !mine x.slot, posted := s.posted.filter fun r => !gone r }
        .done (((s.accept.map (·.1)).filter mine).foldl (fun s i => s.setAccept i (3 * 2 ^ 62 + 3)) s)

/-- The cores that PREEMPT and RESUME name: of a rectangle within the paddock, or of the whole paddock. -/
def State.namedCores (s : State) : Option (Paddock × List Nat) :=
  match tfind s.paddocks (s.cmdWord 1) with
  | none => none
  | some p =>
    let (xlo, ylo, xhi, yhi) := rectOf (s.cmdWord 2)
    if s.cmdWord 2 = 0 then some (p, p.cores)
    else if xhi < xlo ∨ yhi < ylo ∨ p.holds xlo ylo xhi yhi = false then none
    else some (p, rectCores xlo ylo xhi yhi)

/-- PREEMPT (R273). -/
def execPreempt (s : State) : Ans :=
  serve s 0x03 [(1, 0xFF), (2, 0xFFFFFFFF)] fun s =>
    match s.namedCores with
    | none => .refuse 1
    | some (p, cs) =>
      .done (cs.foldl (fun s c =>
        let s := (slotsOf c).foldl (fun s t => s.raiseIrq t .preempt) s
        if p.out then s else ((s.modCore c fun k => { k with preempted := true }).haltTiles c (fun _ => true) true).owe (.spill c)) s)

/-- Is a slot of a halted core IDLE, parked or HALTED-NESTED (R275)? -/
def Thread.atRest (t : Thread) : Bool :=
  t.state == .idle || t.state == .haltedNested || (t.state == .waiting && t.wait == some .parked)

/-- Is a pre-empted core halted: slots at rest, engines stopped, spill done, no fabric operation left (R275, R445)? -/
def State.halted (s : State) (c : Nat) : Bool :=
  let k := s.core c
  k.preempted && k.spilled && k.tileQ.isEmpty && k.copyQ.isEmpty &&
  (match k.yard.moving with
    | none => true
    | some m => m.inflight == 0) &&
  !(s.fabops.any fun o => o.tid / 16 == c) &&
  (slotsOf c).all fun t => (s.thread t).atRest

/-- What stays live while a core is swapped out: its clock, its paddock, its translation, the watch table of its slice, which
serves every core (R26, R399), and the mode that follows its island's alarm (R492). -/
def Core.outside (live k : Core) : Core :=
  { k with
      cycle := live.cycle, paddock := live.paddock, ptroot := live.ptroot, tlb := live.tlb, watches := live.watches
      narrow := live.narrow }

/-- Exchange the memories of a core with its shadow store. -/
def State.swapMem (s : State) (c : Nat) : State :=
  let m := s.mem.exchange (Region.local c) (Region.shadowLocal c) (2 ^ 20)
  { s with mem := m.exchange (Region.tile c 0) (Region.shadowTile c) (2 ^ 19) }

/-- Swap a core out: each of its slots is SWAPPED, an IDLE one too (R33). -/
def State.swapOut (s : State) (c : Nat) : State :=
  let live := s.core c
  let s := { s.swapMem c with
    shCores := tset s.shCores c live
    shThreads := (slotsOf c).foldl (fun m t => tset m t (s.thread t)) s.shThreads }
  let s := s.modCore c fun _ => live.outside Core.zero
  (slotsOf c).foldl (fun s t => s.modThread t fun _ => { Thread.idle with state := .swapped }) s

/-- Swap a core in: its slots return to the states that they held; one that THREAD_END was ending goes on ending, and one whose
pen was draining goes on draining it (R252). -/
def State.swapIn (s : State) (c : Nat) : State :=
  let k := tget Core.zero s.shCores c
  let th := fun t : Nat => tget Thread.idle s.shThreads t
  let s' := (s.swapMem c).modCore c fun live => live.outside k
  let s' := (slotsOf c).foldl (fun s t => s.modThread t fun _ => th t) s'
  let s' := { s' with shCores := tdel s.shCores c, shThreads := (slotsOf c).foldl tdel s.shThreads }
  let s' := ((slotsOf c).filter fun t => (th t).wait == some .ending).foldl (fun s t => s.owe (.ended t)) s'
  ((slotsOf c).filter fun t => !(th t).pen.isEmpty).foldl (fun s t => s.oweOnce (.drain t)) s'

/-- The sequencers of a paddock. -/
def Paddock.sequencers (p : Paddock) : List Nat := (List.range 32).filter p.seqs.getLsbD

/-- Stop the sequencers of a paddock, or let them go on (R467). -/
def State.suspend (s : State) (p : Paddock) (stop : Bool) : State :=
  (p.sequencers.filter fun q => (tget Sequencer.zero s.seqs q).suspended != stop).foldl (fun s q =>
    let s := s.modSeq q fun x => { x with suspended := stop }
    if stop then s else s.owe (.invoke q)) s

/-- SWAP (R275, R467): every core of the paddock, in one step. One that goes out has its sequencers stopped first, and the
command runs until their operations in flight are finished. -/
def execSwap (s : State) : Ans :=
  serve s 0x04 [(1, 0xFF)] fun s =>
    let n := s.cmdWord 1
    match tfind s.paddocks n with
    | none => .refuse 1
    | some p =>
      let other := { s with paddocks := tset s.paddocks n { p with out := !p.out } }
      if p.out then .done ((p.cores.foldl (fun s c => s.swapIn c) other).suspend p false)
      else if p.cores.any fun c => !s.halted c then .refuseIn (s.suspend p false) 2
      else if p.sequencers.any fun q => !(tget Sequencer.zero s.seqs q).ops.isEmpty then .again (s.suspend p true)
      else .done ((p.cores.foldl (fun s c => s.swapOut c) other).suspend p true)

/-- Return a spilled entry to its queue (R274). -/
def State.unspill (s : State) (c : Nat) (x : SpillItem) : State :=
  match x with
  | .msg k m => s.modThread (c * 16 + k) fun t => { t with recvQ := t.recvQ ++ [m] }
  | .call k x => s.modThread (c * 16 + k) fun t => { t with callQ := t.callQ ++ [x] }
  | .launch l => s.modCore c fun k => { k with launchQ := k.launchQ ++ [l] }

/-- Resume a halted core: spilled entries return, parked slots go on, its engines take up work again. -/
def State.resumeCore (s : State) (c : Nat) : State :=
  let items := (s.core c).spill
  let s := s.modCore c fun k => { k with preempted := false, spilled := false, spill := [] }
  let s := items.foldl (fun s x => s.unspill c x) s
  let s := (slotsOf c).foldl (fun s t => s.modThread t fun h =>
    if h.state = .waiting ∧ h.wait = some .parked then { h with state := .ready, wait := none } else h) s
  let s := s.advance c
  let s := match (s.core c).yard.moving with
    | none => s
    | some m => s.owe (if m.shook then .unitStart c else .handshake c)
  ((if (s.core c).axisQ.isEmpty then s else s.owe (.axisDone c)).owe (.yardEnd c)).owe (.start c)

/-- RESUME (R486, R495): the halted cores go on, and pending ingress is served. -/
def execResume (s : State) : Ans :=
  serve s 0x05 [(1, 0xFF), (2, 0xFFFFFFFF)] fun s =>
    match s.namedCores with
    | none => .refuse 1
    | some (p, cs) =>
      if p.out || cs.any (fun c => (s.core c).preempted && !s.halted c) then .refuse 2
      else
        let s := (cs.filter fun c => (s.core c).preempted).foldl (fun s c => s.resumeCore c) s
        let waits := fun i : Nat =>
          p.blocks.getLsbD (i / 64) && s.acceptState i == 1 && !(s.spreads.any fun x => x.slot == i)
        .done (((s.accept.map (·.1)).filter waits).foldl (fun s i => s.readRecord i) s)

/-! ## Slots -/

/-- THREAD_END (R266, R486): the trap registers go to the command block, the watch entry that the halt kept is removed, and the
context ends as by R42. -/
def execThreadEnd (s : State) : Ans :=
  serve s 0x06 [(1, 0xFFFFF)] fun s =>
    match coreWord (s.cmdWord 1) with
    | none => .refuse 1
    | some tid =>
      let t := s.thread tid
      if t.state ≠ .haltedNested then .refuse 2
      else
        let ws := [t.tcause, t.tval, t.tepc, t.ncause, t.nval]
        let cmd := (List.range 5).foldl (fun m k => tset m (8 + k) (ws.getD k 0)) s.cmd
        .done ((({ s with cmd := cmd }.unwait tid).modThread tid fun t => { t with wait := some .ending }).owe (.ended tid))

/-- INTERRUPT (R262, R486). -/
def execInterrupt (s : State) : Ans :=
  serve s 0x07 [(1, 0xFFFFF)] fun s =>
    match coreWord (s.cmdWord 1) with
    | none => .refuse 1
    | some tid => if (s.ctx tid).state = .idle then .refuse 2 else .done (s.raiseIrq tid .host)

/-- DEBUG_ADDR (R116, R486): the next fetch of a thread that has just returned to its pc takes no breakpoint all the same. -/
def execDebugAddr (s : State) : Ans :=
  serve s 0x0E [(1, 0xFFFFF), (2, 0xFFFFE)] fun s =>
    match coreWord (s.cmdWord 1) with
    | none => .refuse 1
    | some tid => .done (s.modCtx tid fun t => { t with bp := tget 0 s.cmd 2 })

/-! ## Tables and keys -/

/-- HASHGRP_SET (R288). -/
def execHashgrpSet (s : State) : Ans :=
  serve s 0x08 [(1, 0x3F), (2, allBits)] fun s =>
    .done { s with hashgrp := tset s.hashgrp (s.cmdWord 1) (tget 0 s.cmd 2) }

/-- The operand words from 8 on that a command uses whole. -/
def wordsFrom8 (n : Nat) : List (Nat × Nat) := (List.range n).map fun k => (8 + k, allBits)

/-- `n` words of the command block from word 8 on, the first least significant. -/
def State.cmdKey (s : State) (n : Nat) : Nat := (List.range n).foldr (fun k v => s.cmdWord (8 + k) + 2 ^ 64 * v) 0

/-- MKEY_LOAD (R297, R298): every line under the key index is written back and discarded first. -/
def execMkeyLoad (s : State) : Ans :=
  serve s 0x09 ((1, 0x8000000000000FFF) :: wordsFrom8 8) fun s =>
    let k := bits (s.cmdWord 1) 11 0
    if k = 0 then .refuse 1
    else
      let key := if bits (s.cmdWord 1) 63 63 = 1 then none else some (BitVec.ofNat 512 (s.cmdKey 8))
      let s := (s.lines.filter fun l => l.key == k).foldl (fun s l => s.dropLine l) s
      .done { s with mkeys := tset s.mkeys k key }

/-- What follows from the contributions of every agreement, once a new agreement key is loaded (R443). -/
def State.advanceAll (s : State) : State :=
  s.agreements.foldl (fun s a => match s.group a.gid with
    | none => s
    | some g => s.advanceAgreement g a.ordinal) s

/-- FKEY_LOAD (R428, R443): a slot of the fabric key store, or the agreement key; emptying that leaves it as stale as it was. -/
def execFkeyLoad (s : State) : Ans :=
  serve s 0x0A ((1, 0xC000000000000FFF) :: wordsFrom8 4) fun s =>
    let key := if bits (s.cmdWord 1) 63 63 = 1 then none else some (BitVec.ofNat 256 (s.cmdKey 4))
    if bits (s.cmdWord 1) 62 62 = 1 then
      .done (match key with
        | none => { s with agrKey := none }
        | some k => { s with agrKey := some k, agrStale := false }.advanceAll)
    else .done { s with fkeys := tset s.fkeys (bits (s.cmdWord 1) 11 0) key }

/-- Is a fabric operation toward a peer left, or a multicast, whose members are not known here, or an access or a copy that
awaits the peer's answer (R343, R425)? -/
def State.toward (s : State) (p : Nat) : Bool :=
  (s.fabops.any fun o => o.peer == p || o.kind == .mstore || o.kind == .mload) ||
  (s.flights.any fun f => f.elems.any fun e => e.awaits (some p)) ||
  s.cores.any fun c => c.2.copyQ.any fun k => k.asked.any fun a => a.2 == p

/-- PEER_SET (R423-R425): a peer that leaves loses REACH, and the command runs until no operation toward it is left; one
that joins gains REACH by CAPABILITY_EXCHANGE. Either change makes the agreement key stale (R443), and each reachable pair
exchanges REV and CAP (R424). -/
def execPeerSet (s : State) : Ans :=
  serve s 0x0B [(1, 0xFFF), (2, 0xFF00FFF000000000)] fun s =>
    let p := s.cmdWord 1
    let v := tget 0 s.cmd 2
    let old := tget 0 s.peers p
    let join := v.getLsbD 62 && v.getLsbD 63
    let kept := v &&& 0xBF00FFF000000000
    let own := decide (p = s.ident.toNat)
    if own then .done { s with peers := tset s.peers p ((kept &&& 0x3F00FFF000000000) ||| ownPeer) }
    else if join then
      if old.getLsbD 62 then .done { s with peers := tset s.peers p (kept ||| (old &&& 0x400000000000FFFF)) }
      else
        let joining := p :: s.joining.filter fun q => q != p
        .done { s with peers := tset s.peers p kept, joining := joining, agrStale := true }.exchangeCaps
    else
      let s := { s with
        peers := tset s.peers p (old &&& ~~~(1 <<< 62 : Word)), joining := s.joining.filter (fun q => q != p)
        agrStale := s.agrStale || old.getLsbD 62 }
      let s := if old.getLsbD 62 then s.exchangeCaps else s
      if s.toward p then .again s else .done { s with peers := tset s.peers p kept }

/-- MCAST_SET (R436). -/
def execMcastSet (s : State) : Ans :=
  serve s 0x0C [(1, 0xFFF), (2, allBits), (3, allBits)] fun s =>
    .done { s with mcast := tset s.mcast (s.cmdWord 1) (tget 0 s.cmd 2, tget 0 s.cmd 3) }

/-! ## Images, attestation and update -/

/-- The doublewords of an image's header. -/
def headWords (bs : List Byte) : List Nat := (List.range 8).map fun k => bytesVal ((bs.drop (8 * k)).take 8)

/-- The fields of a tack image's header, if R468 allows them. -/
def TackImage.of (h : List Nat) : Option TackImage :=
  let w := fun k : Nat => h.getD k 0
  let size := bits (w 0) 63 32
  let load := bits (w 1) 17 0
  let entry := bits (w 2) 17 0
  if bits (w 0) 31 0 ≠ 0x4B434154 ∨ bits (w 1) 63 18 ≠ 0 ∨ bits (w 2) 63 18 ≠ 0 ∨ bits (w 3) 63 24 ≠ 0 ∨ bits (w 3) 7 2 ≠ 0 ∨
      (h.drop 4).any (· != 0) then none
  else if load < 0x4000 ∨ load % 64 ≠ 0 ∨ entry % 2 ≠ 0 ∨ entry < load ∨ load + size ≤ entry ∨ 0x40000 < load + size then none
  else some ⟨load, size, entry, BitVec.ofNat 8 (bits (w 3) 23 16), BitVec.ofNat 8 (bits (w 3) 15 8), bits (w 3) 1 1 == 1,
    bits (w 3) 0 0 == 1⟩

/-- Does an image share a byte with another loaded slot of the sequencer? -/
def TackImage.clashes (i : TackImage) (slot : Nat) (slots : Table TackImage) : Bool :=
  slots.any fun x => x.1 != slot && decide (i.load < x.2.load + x.2.size) && decide (x.2.load < i.load + i.size)

/-- TACK_LOAD (R469). An image with an uncorrectable word is a bad operand (R12; DESIGN CHOICE, log entry 29: no rule names its
code). While an engine holds a line of the image, the command waits (R322). -/
def execTackLoad (s : State) : Ans :=
  serve s 0x0D [(1, 0xFF0F1F), (2, 2 ^ 41 - 1), (3, 1)] fun s =>
    let q := bits (s.cmdWord 1) 4 0
    let slot := bits (s.cmdWord 1) 11 8
    let n := bits (s.cmdWord 1) 23 16
    let x := tget Sequencer.zero s.seqs q
    let pa := s.cmdWord 2
    let busy := x.running && (match x.queue with
      | [] => false
      | i :: _ => i.slot == slot)
    match tfind s.paddocks n with
    | none => .refuse 1
    | some p =>
      if !p.seqs.getLsbD q || pa % 64 != 0 then .refuse 1
      else if bits (s.cmdWord 3) 0 0 = 1 then
        if busy then .refuse 2 else .done (s.modSeq q fun x => { x with slots := tdel x.slots slot })
      else if s.rangeHeld pa 64 then .again s
      else
        let (head, s) := s.hostRead pa 64
        let lost := fun (s : State) (n : Nat) => s.mem.anyPoison pa n
        match if lost s 64 then none else TackImage.of (headWords head) with
        | none => .refuse 1
        | some img =>
          if img.clashes slot x.slots then .refuse 1
          else if busy then .refuse 2
          else if s.rangeHeld (pa + 64) (img.size + 512) then .again s
          else
            let (body, s) := s.hostRead (pa + 64) img.size
            let (sig, s) := if p.sigTack then s.hostRead (pa + 64 + img.size) 512 else ([], s)
            if lost s (64 + img.size + sig.length) then .refuse 1
            else if p.sigTack && !Config.signed (head ++ body) sig then .refuse 3
            else
              let at_ := Region.seq q + img.load
              let s := { s with
                measure := s.measure ++ [(1, q * 16 + slot, Sha.sha512 (head ++ body))]
                mem := (s.mem.erase at_ (at_ + img.size)).putBytes at_ body }
              .done (s.modSeq q fun x => { x with slots := tset x.slots slot img })

/-- `n` bytes of a number, the least significant first. -/
def numBytes (v : Nat) : Nat → List Byte
  | 0 => []
  | n + 1 => BitVec.ofNat 8 v :: numBytes (v / 256) n

/-- The signed fields of a report: the nonce, IDENT and the measurement log (R490). -/
def State.reportFields (s : State) : List Byte :=
  (List.range 4).flatMap (fun k => numBytes (s.cmdWord (2 + k)) 8) ++ numBytes (s.bar0Read 0x0008 8).toNat 8 ++
    s.measure.flatMap fun m => Config.entryBytes m.1 m.2.1 m.2.2

/-- ATTEST (R490). While an engine holds a line that it is to write, the command waits (R322, R377). -/
def execAttest (s : State) : Ans :=
  serve s 0x0F ((1, allBits) :: (List.range 4).map fun k => (2 + k, allBits)) fun s =>
    let pa := s.cmdWord 1
    let fields := s.reportFields
    let hash := Sha.sha512 fields
    let report := fields ++ (List.range 512).map fun i => Config.signature hash i
    if pa % 64 ≠ 0 ∨ hbmAddr pa = false ∨ hbmAddr (pa + report.length - 1) = false then .refuse 1
    else if s.rangeHeld pa report.length then .again s
    else .done (s.hostWrite pa report (report.length + 1))

/-- UPDATE (R489, R493): the image is verified as at boot and written to flash; one with an uncorrectable word fails as one with a
wrong signature does (R12; DESIGN CHOICE, log entry 29: no rule names its code). While an engine holds a line of it, the command
waits (R322). -/
def execUpdate (s : State) : Ans :=
  serve s 0x10 [(1, allBits), (2, allBits)] fun s =>
    let pa := s.cmdWord 1
    let size := s.cmdWord 2
    if pa % 64 ≠ 0 ∨ size = 0 ∨ hbmAddr pa = false ∨ 0x140000 * 2 ^ 16 < pa % 2 ^ 37 + size then .refuse 1
    else if s.rangeHeld pa size then .again s
    else
      let (img, s) := s.hostRead pa size
      if s.mem.anyPoison pa size || !Config.firmwareOk img then .refuse 3
      else
        let s := { s with flash := img }.logEvent 7 0 (BitVec.ofNat 64 size) ((Sha.sha512 img).setWidth 64)
        .done { s with flashLog := s.log }

end Sys2Proof.Machine
end

