-- ==== Sys2Proof/Machine/LoadStore.lean ====
section
/-! DEFINITION. Scalar loads and stores (R207, R208) and vector loads and stores (R209-R211). -/

namespace Sys2Proof.Machine

/-- The address of a scalar load or store (R119, R208). -/
def scalarAddress (s : State) (base : RegNo) (off : BitVec 8) (w : Width) : Nat :=
  (s.sv base + off.signExtend 64 * BitVec.ofNat 64 w.bytes).toNat

/-- `ld` (R207, R208). -/
def execLd (p : PredNo) (off : BitVec 8) (ord : LoadOrder) (zx : Bool) (w : Width) (d base : RegNo) (s : State) : Ans :=
  issue s ⟨.ld p off ord zx w d base, p, false, false, .own, [.s base.toNat], [.s d.toNat]⟩ fun s =>
    match s.checkAll .scalar .load w.bytes false [⟨0, scalarAddress s base off w, 0⟩] with
    | .trap c v => .trap c v
    | .busy => .wait s .walk
    | .ok es s' => loadAct s s' es (ord == .acq) (ord == .so) (.scalar d.toNat w.bytes zx)

/-- `st` (R207, R208): the data register is read at issue. -/
def execSt (p : PredNo) (off : BitVec 8) (ord : StoreOrder) (w : Width) (a base : RegNo) (s : State) : Ans :=
  issue s ⟨.st p off ord w a base, p, false, false, .own, [.s a.toNat, .s base.toNat], []⟩ fun s =>
    match s.checkAll .scalar .store w.bytes false [⟨0, scalarAddress s base off w, lowBytes (s.sv a) w.bytes⟩] with
    | .trap c v => .trap c v
    | .busy => .wait s .walk
    | .ok es s' => storeAct s s' .scalar (es.map (·.2)) (ord == .rel) (ord == .so)

/-- The addresses of the lanes by mode (R210): contiguous, strided or indexed. -/
inductive Mode where | contiguous | strided | indexed
  deriving DecidableEq, Repr

/-- The address of lane `i` (R210). -/
def laneAddress (s : State) (m : Mode) (w : Nat) (base x : RegNo) (i : Nat) : Nat :=
  match m with
  | .contiguous => (s.sv base + s.sv x + BitVec.ofNat 64 (i * w)).toNat
  | .strided => (s.sv base + BitVec.ofNat 64 i * s.sv x).toNat
  | .indexed => (s.sv base + BitVec.ofInt 64 (sint (8 * w) (lane w (s.vv x) i))).toNat

/-- The on lanes of a vector access, ascending, with the data of register `r`. -/
def laneWants (s : State) (m : Mode) (w : Nat) (p : PredNo) (r base x : RegNo) : List Want :=
  ((List.range (64 / w)).filter fun i => laneOn w (s.pv p) i).map fun i =>
    ⟨i, laneAddress s m w base x i, lane w (s.vv r) i⟩

/-- The form of a vector access. -/
def Mode.form (s : State) (m : Mode) (base x : RegNo) : Form :=
  match m with
  | .contiguous => .contiguous ((s.sv base + s.sv x).toNat % 64 == 0)
  | .strided | .indexed => .scattered

/-- The third operand of a vector access as a register name. -/
def Mode.third (m : Mode) (x : RegNo) : RName :=
  match m with
  | .indexed => .v x.toNat
  | .contiguous | .strided => .s x.toNat

/-- The elements in parts: one part for a contiguous access at a multiple of 64 on one page, else one for each (R204). -/
def inParts (f : Form) (es : List (AKind × Elem)) : List (AKind × Elem) :=
  match f with
  | .contiguous true => asOnePart es
  | _ => es

/-- A vector load (R209-R211). -/
def vectorLoad (s : State) (i : Instr) (m : Mode) (p : PredNo) (w : Width) (ord : LoadOrder) (d base x : RegNo) : Ans :=
  issue s ⟨i, 0, false, false, .own, [.s base.toNat, m.third x, .v d.toNat], []⟩ fun s =>
    let f := m.form s base x
    match s.checkAll f .load w.bytes true (laneWants s m w.bytes p d base x) with
    | .trap c v => .trap c v
    | .busy => .wait s .walk
    | .ok es s' => loadAct s s' (inParts f es) (ord == .acq) (ord == .so) (.vector d.toNat w.bytes)

/-- A vector store (R209-R211). -/
def vectorStore (s : State) (i : Instr) (m : Mode) (p : PredNo) (w : Width) (ord : StoreOrder) (a base x : RegNo) : Ans :=
  issue s ⟨i, 0, false, false, .own, [.v a.toNat, .s base.toNat, m.third x], []⟩ fun s =>
    let f := m.form s base x
    match s.checkAll f .store w.bytes true (laneWants s m w.bytes p a base x) with
    | .trap c v => .trap c v
    | .busy => .wait s .walk
    | .ok es s' => storeAct s s' f ((inParts f es).map (·.2)) (ord == .rel) (ord == .so)

/-- `vld` (R210). -/
def execVld (p : PredNo) (w : Width) (ord : LoadOrder) (d base x : RegNo) (s : State) : Ans :=
  vectorLoad s (.vld p w ord d base x) .contiguous p w ord d base x

/-- `vlds` (R210). -/
def execVlds (p : PredNo) (w : Width) (ord : LoadOrder) (d base x : RegNo) (s : State) : Ans :=
  vectorLoad s (.vlds p w ord d base x) .strided p w ord d base x

/-- `vldx` (R210). -/
def execVldx (p : PredNo) (w : Width) (ord : LoadOrder) (d base x : RegNo) (s : State) : Ans :=
  vectorLoad s (.vldx p w ord d base x) .indexed p w ord d base x

/-- `vst` (R210). -/
def execVst (p : PredNo) (w : Width) (ord : StoreOrder) (a base x : RegNo) (s : State) : Ans :=
  vectorStore s (.vst p w ord a base x) .contiguous p w ord a base x

/-- `vsts` (R210). -/
def execVsts (p : PredNo) (w : Width) (ord : StoreOrder) (a base x : RegNo) (s : State) : Ans :=
  vectorStore s (.vsts p w ord a base x) .strided p w ord a base x

/-- `vstx` (R210). -/
def execVstx (p : PredNo) (w : Width) (ord : StoreOrder) (a base x : RegNo) (s : State) : Ans :=
  vectorStore s (.vstx p w ord a base x) .indexed p w ord a base x

end Sys2Proof.Machine
end

