-- ==== Sys2Proof/Machine/Tack.lean ====
section
/-! DEFINITION. Collective sequencers: invocations, tack instructions and operations in flight (R446-R470). -/

namespace Sys2Proof.Machine

/-! ## The argument block (R450, R451) -/

/-- A sequencer. -/
def State.seq (s : State) (q : Nat) : Sequencer := tget Sequencer.zero s.seqs q

/-- Word `k` of an argument block. -/
def Invocation.word (i : Invocation) (k : Nat) : Nat := (i.block.getD k 0).toNat
/-- NBUF. -/
def Invocation.nbuf (i : Invocation) : Nat := bits (i.word 0) 27 24
/-- TAG. -/
def Invocation.tag (i : Invocation) : Nat := bits (i.word 0) 47 32
/-- COUNT. -/
def Invocation.count (i : Invocation) : Nat := bits (i.word 1) 47 24
/-- INDEX. -/
def Invocation.index (i : Invocation) : Nat := bits (i.word 1) 23 0
/-- GRP. -/
def Invocation.grp (i : Invocation) : Nat := bits (i.word 3) 11 0
/-- DONEVA. -/
def Invocation.doneva (i : Invocation) : Nat := bits (i.word 4) 47 0
/-- CNTVA of a buffer. -/
def Invocation.cntva (i : Invocation) (buf : Nat) : Nat := bits (i.word (10 + 4 * buf)) 47 0
/-- The invoking core. -/
def Invocation.core (i : Invocation) : Nat := i.tid / 16

/-- Address and length of a chunk, if the invocation has it (R451). -/
def Invocation.chunk (i : Invocation) (buf chunk : Nat) : Option (Nat × Nat) :=
  let len := i.word (9 + 4 * buf)
  let size := 2 ^ bits (i.word (11 + 4 * buf)) 5 0
  if i.nbuf ≤ buf ∨ len ≤ chunk * size then none
  else some (i.word (8 + 4 * buf) + chunk * size, min size (len - chunk * size))

/-- Address of a chunk's counter. -/
def Invocation.counter (i : Invocation) (buf chunk : Nat) : Nat := i.cntva buf + 8 * chunk

/-- Does an argument block pass order 6 of R452? -/
def blockOk (ws : List Nat) : Bool :=
  let w := fun k : Nat => ws.getD k 0
  let nbuf := bits (w 0) 27 24
  let count := bits (w 1) 47 24
  decide (bits (w 0) 63 48 = 0) && decide (bits (w 0) 31 28 = 0) && decide (bits (w 0) 23 0 = 0) &&
  decide (1 ≤ nbuf) && decide (nbuf ≤ 8) && decide (w 1 < 2 ^ 48) && decide (1 ≤ count) && decide (count ≤ 4096) &&
  decide (bits (w 1) 23 0 < count) && decide (w 2 < 2 ^ 48) && decide (w 2 % 8 = 0) && decide (w 3 < 2 ^ 13) &&
  decide (w 4 < 2 ^ 48) && decide (w 4 % 8 = 0) &&
  (List.range nbuf).all fun i =>
    decide (w (8 + 4 * i) < 2 ^ 48) && decide (w (8 + 4 * i) % 8 = 0) &&
    decide (w (9 + 4 * i) < 2 ^ 40) && decide (w (9 + 4 * i) % 8 = 0) && decide (8 ≤ w (9 + 4 * i)) &&
    decide (w (10 + 4 * i) < 2 ^ 48) && decide (w (10 + 4 * i) % 8 = 0) &&
    decide (3 ≤ w (11 + 4 * i)) && decide (w (11 + 4 * i) ≤ 20)

/-- Read an argument block: eight words, then four for each buffer where NBUF is in range. -/
def State.readBlock (s : State) (a : Nat) : Rd :=
  match s.readWords a 8 with
  | .trap c v => .trap c v
  | .wait w => .wait w
  | .ok ws s =>
    let nbuf := bits (ws.getD 0 0) 27 24
    if nbuf = 0 ∨ 8 < nbuf then .ok ws s
    else match s.readWords (a + 64) (4 * nbuf) with
      | .trap c v => .trap c v
      | .wait w => .wait w
      | .ok xs s => .ok (ws ++ xs) s

/-- Was a core's paddock given a sequencer? -/
def State.seqGiven (s : State) (core q : Nat) : Bool := (s.core core).paddock.isSome && (s.seq q).paddock == (s.core core).paddock

/-- `coll` (R449-R452, R464). -/
def execColl (p : PredNo) (d a b : RegNo) (s : State) : Ans :=
  issue s (fabHead (.coll p d a b) p [.s a.toNat, .s b.toNat] [.s d.toNat]) fun s =>
    let sel := (s.sv b).toNat
    let q := bits sel 4 0
    let slot := bits sel 11 8
    if bits sel 7 5 ≠ 0 ∨ bits sel 63 12 ≠ 0 ∨ s.seqGiven s.here q = false then .trap 28 (nakVal 2 sel)
    else match tfind (s.seq q).slots slot with
      | none => .trap 25 (s.sv b)
      | some img =>
        if (s.sv a).toNat % 64 ≠ 0 then .trap 25 (s.sv a)
        else match s.readBlock (s.sv a).toNat with
          | .trap c v => .trap c v
          | .wait w => .wait s w
          | .ok ws s' =>
            let i : Invocation := ⟨s.cur, d.toNat, slot, ws.map (BitVec.ofNat 64)⟩
            if !blockOk ws then .trap 25 (s.sv a)
            else if img.reds && bits (i.word 3) 12 12 == 1 && (tget (0, 0) s.mcast i.grp).1.getLsbD 62 then
              .trap 31 (BitVec.ofNat 64 i.grp)
            else if 4 ≤ (s.seq q).queue.length then .wait s .queue
            else if d ≠ 0 ∧ s.th.full .amo = true then .wait s .count
            else if !s.released s.cur then .wait s .order
            else
              let s := (s'.modSeq q fun x => { x with queue := x.queue ++ [i] }).owe (.invoke q)
              .retire (if d = 0 then s else s.modTh fun t => (t.pendS d.toNat).count .amo)

/-! ## Module memory as a sequencer reaches it (R448, R456) -/

/-- Translate for the running invocation, as a supervisor access through the sequencer's own TLB. -/
def State.seqTranslate (s : State) (q core : Nat) (acc : Acc) (va : Nat) : TRes × State :=
  let saved := (s.core core).tlb
  let walks := s.walks
  let (r, s) := (s.walkFree.modCore core fun c => { c with tlb := (s.seq q).tlb }).translate core false acc va
  let mine := (s.core core).tlb
  (r, { (s.modSeq q fun x => { x with tlb := mine }).modCore core fun c => { c with tlb := saved } with walks := walks })

/-- The places of `n` doublewords at `va`, or the address that fails (R456). -/
def State.tackPlaces (s : State) (q core : Nat) (acc : Acc) (va : Nat) : Nat → Except Nat (List Place) × State
  | 0 => (.ok [], s)
  | n + 1 =>
    match s.seqTranslate q core acc va with
    | (.ok t, s) =>
      if !t.kind.record then (.error va, s)
      else match State.tackPlaces s q core acc (va + 8) n with
        | (.ok ps, s) => (.ok (t.place :: ps), s)
        | r => r
    | (_, s) => (.error va, s)

/-- Is one of these doublewords held by a lock or an owner (R322)? -/
def State.anyHeld (s : State) (ps : List Place) : Bool := ps.any fun p => s.heldAt p 8

/-- Is one of these doublewords held against a read? -/
def State.anyReadHeld (s : State) (ps : List Place) : Bool := ps.any fun p => s.heldRead p 8

/-! ## The end of an invocation (R463, R466) -/

/-- The completion word. -/
def completion (i : Invocation) (status : Nat) (sub : BitVec 8) (value : BitVec 32) : Nat :=
  status * 2 ^ 56 + sub.toNat * 2 ^ 48 + i.tag * 2 ^ 32 + value.toNat

/-- Drop the invocation at the head of the queue; the next one may start. -/
def State.nextInvocation (s : State) (q : Nat) : State :=
  let s := s.modSeq q fun x =>
    { x with running := false, queue := x.queue.drop 1, arrivals := [], ops := [], lost := [], fail := none, reserve := none }
  if (s.seq q).queue.isEmpty then s else s.owe (.invoke q)

/-- Give the invoker its completion word. -/
def State.complete (s : State) (i : Invocation) (word : Nat) : State :=
  if i.reg = 0 then s
  else s.modCtx i.tid fun t => (t.late fun t => t.setS i.reg (BitVec.ofNat 64 word)).uncount .amo

/-- End the running invocation, all its operations being over: none while DONEVA is held. A DONEVA that cannot be
written ends it with SUB 0x22 (DEDUCED, log entry 28). -/
def State.finishInvocation (s : State) (q : Nat) (i : Invocation) (status : Nat) (sub : BitVec 8) (value : BitVec 32) :
    Option State :=
  let word := completion i status sub value
  if i.doneva = 0 then some ((s.complete i word).nextInvocation q)
  else match s.tackPlaces q i.core .store i.doneva 1 with
    | (.ok ps, s) =>
      if s.anyHeld ps then none
      else some (((s.writeDwords ps [(BitVec.ofNat 64 word, false)]).complete i word).nextInvocation q)
    | (.error va, s) =>
      let word := if status = 0 then completion i 1 0x22 (BitVec.ofNat 32 va) else word
      some ((s.complete i word).nextInvocation q)

/-- The running invocation is to end as R466 says, once its operations are over; the first reason stands. -/
def State.failSeq (s : State) (q status : Nat) (sub : BitVec 8) (value : Nat) : State :=
  let s := s.modSeq q fun x =>
    { x with fail := match x.fail with
        | none => some (status, sub, BitVec.ofNat 32 value)
        | some f => some f }
  if (s.seq q).ops.isEmpty then s.owe (.invoke q) else s

/-- An operation is over, refused with a subcode or performed; one that was refused is kept in mind (R462). -/
def State.opOver (s : State) (q : Nat) (o : TackOpn) (bad : Option (BitVec 8 × Nat)) : State :=
  let s := s.modSeq q fun x =>
    { x with ops := x.ops.filter fun p => p.id != o.id, lost := if bad.isSome then x.lost ++ [o] else x.lost }
  match bad with
  | some (sub, v) => s.failSeq q 1 sub v
  | none => if (s.seq q).fail.isSome && (s.seq q).ops.isEmpty then s.owe (.invoke q) else s

/-! ## The start of an invocation (R453) -/

/-- MODULE and SEQ of a peer-table entry. -/
def peerPair (e : Word) : Nat × Nat := (bits e.toNat 59 48, bits e.toNat 4 0)

/-- The checks of step 3 on the entries themselves: the member index that fails. -/
def entryFault (me : Nat × Nat) (index : Nat) (seen : List (Nat × Nat)) (m : Nat) : List Word → Option Nat
  | [] => none
  | e :: es =>
    if bits e.toNat 63 60 ≠ 0 ∨ bits e.toNat 47 5 ≠ 0 ∨ (m = index ∧ peerPair e ≠ me) ∨ seen.contains (peerPair e) = true then
      some m
    else entryFault me index (peerPair e :: seen) (m + 1) es

/-- The checks of step 3 against the device group table: the subcode and the member index. -/
def State.peerFault (s : State) (img : TackImage) (index m : Nat) : List Word → Option (Nat × Nat)
  | [] => none
  | e :: es =>
    let p := tget 0 s.peers (peerPair e).1
    let caps := img.caps.setWidth 64
    if m = index then State.peerFault s img index (m + 1) es
    else if !p.getLsbD 63 then some (2, m)
    else if !p.getLsbD 62 then some (3, m)
    else if bits p.toNat 15 8 < img.minrev.toNat ∨ p &&& caps ≠ caps then some (1, m)
    else State.peerFault s img index (m + 1) es

/-- A sequencer's hart as tack code finds it at its entry (R453, step 4). -/
def Sequencer.begun (x : Sequencer) (img : TackImage) (i : Invocation) : Sequencer :=
  { x with
      running := true, pc := BitVec.ofNat 64 img.entry, f := [], v := [], fflags := 0, frm := 0, reserve := none
      vl := 0, vtype := 2 ^ 63, vstart := 0, vxrm := 0, vxsat := false, arrivals := [], ops := [], lost := [], fail := none
      x := [(10, 0x3E00), (11, BitVec.ofNat 64 i.index), (12, BitVec.ofNat 64 i.count), (13, BitVec.ofNat 64 i.tag)] }

/-- INVOCATION_START (R453): the invocation at the head starts, or ends by its start checks. A sequencer whose running
invocation is to end, with its operations over, ends it here (R466). An empty program slot keeps it waiting, and a
swap keeps everything as it is (R467). -/
def execInvocationStart (seq : Nat) (s : State) : Ans :=
  let x := s.seq seq
  match x.queue with
  | [] => .next s
  | i :: _ =>
    let again := s.owe (.invoke seq)
    if x.suspended then .next s
    else if x.running then
      match x.fail with
      | none => .next s
      | some (status, sub, value) =>
        if !x.ops.isEmpty then .next s
        else .next ((s.finishInvocation seq i status sub value).getD again)
    else match tfind x.slots i.slot with
      | none => .next again
      | some img =>
        let block := i.block.flatMap fun w => numBytes w.toNat 8
        let start := { s with mem := s.mem.putBytes (Region.seq seq + 0x3E00) block }.modSeq seq fun x => x.begun img i
        match start.tackPlaces seq i.core .load (bits (i.word 2) 47 0) i.count with
        | (.error va, s) => .next (s.failSeq seq 1 0x22 va)
        | (.ok ps, s') =>
          if s'.anyReadHeld ps then .next again
          else
            let (es, s') := s'.readDwords ps
            match es.findIdx? fun e => e.2 with
            | some k => .next (s'.failSeq seq 1 0x22 (bits (i.word 2) 47 0 + 8 * k))
            | none =>
              let ws := es.map fun e => e.1
              let s' := s'.modSeq seq fun x => { x with peers := (List.range ws.length).zip ws }
              match entryFault (s.ident.toNat, seq) i.index [] 0 ws with
              | some m => .next (s'.failSeq seq 3 2 m)
              | none => match s'.peerFault img i.index 0 ws with
                | some (sub, m) => .next (s'.failSeq seq 3 (BitVec.ofNat 8 sub) m)
                | none => .next s'

/-! ## Arrivals (R457, R462) -/

/-- The sender index of a module and sequencer in the peer cache. -/
def Sequencer.senderOf (x : Sequencer) (who : Nat × Nat) : Option Nat := (x.peers.find? fun e => peerPair e.2 == who).map (·.1)

/-- The running invocation that takes an arrival for a tag. A suspended sequencer takes none but those of operations that are
being finished with its own (R467). -/
def Sequencer.taker (x : Sequencer) (tag : Nat) (finishing : Bool) : Option Invocation :=
  match x.queue with
  | [] => none
  | i :: _ => if x.running && (!x.suspended || finishing) && x.fail.isNone && i.tag == tag then some i else none

/-- Is a sender a sequencer of this module that is finishing its operations before a swap? -/
def State.finishing (s : State) (who : Nat × Nat) : Bool := who.1 == s.ident.toNat && (s.seq who.2).suspended

/-- A chunk of doublewords reaches a sequencer (R457). -/
def State.land (s : State) (q : Nat) (who : Nat × Nat) (tag buf chunk : Nat) (data : List Dword) : TackResp × State :=
  let x := s.seq q
  match x.taker tag (s.finishing who) with
  | none => (.notReady, s)
  | some i =>
    match x.senderOf who, i.chunk buf chunk with
    | some sender, some (va, len) =>
      if len ≠ 8 * data.length then (.refused 2, s)
      else if 64 ≤ x.arrivals.length then (.notReady, s)
      else match s.tackPlaces q i.core .store va data.length with
        | (.error _, s) => (.refused 2, s)
        | (.ok ps, s) =>
          if s.anyHeld ps then (.notReady, s)
          else (.landed, (s.writeDwords ps data).modSeq q fun x =>
            { x with arrivals := x.arrivals ++ [⟨buf, chunk, sender⟩] })
    | _, _ => (.refused 2, s)

/-- Add to a counter, as one indivisible step: none where it is poisoned (R497). -/
def State.addCounter (s : State) (p : Place) (inc : Word) : Option State :=
  let (v, poison, s) := s.readPlace p 8
  if poison then none else some (s.writePlace p 8 ((v + inc.toNat) % 2 ^ 64))

/-- A remote signal reaches a sequencer (R462). A poisoned counter refuses it as one that does not translate does (DEDUCED, log
entry 25). -/
def State.landSignal (s : State) (q : Nat) (who : Nat × Nat) (tag buf chunk : Nat) (inc : Word) : TackResp × State :=
  let x := s.seq q
  match x.taker tag (s.finishing who) with
  | none => (.notReady, s)
  | some i =>
    match x.senderOf who, i.chunk buf chunk with
    | some _, some _ =>
      if i.cntva buf = 0 then (.refused 0x21, s)
      else match s.tackPlaces q i.core .store (i.counter buf chunk) 1 with
        | (.ok [p], s) =>
          if s.heldAt p 8 then (.notReady, s)
          else match s.addCounter p inc with
            | none => (.refused 2, s)
            | some s => (.landed, s)
        | (_, s) => (.refused 2, s)
    | _, _ => (.refused 2, s)

/-- The packets of a sequencer of another module arrive, `n` in number: dropped and logged where R428 says so, else the
operation they carry is answered by this sequencer's own port (R27). -/
def State.tackPackets (s : State) (seq peer peerSeq n : Nat) (hs : List PktHdr) (f : State → TackResp × State) : State :=
  let (ok, s) := s.takeFrom peer n hs
  if !ok then s
  else
    let (r, s) := f s
    s.sendBy seq peer (.chunkReply peerSeq r)

/-- CHUNK_ARRIVAL (R457): a chunk of another module's sequencer, in packets of 256 bytes at most (R433). -/
def execChunkArrival (seq peer peerSeq : Nat) (tag : BitVec 16) (buf chunk : Nat) (data : List Dword)
    (hs : List PktHdr) (s : State) : Ans :=
  .next (s.tackPackets seq peer peerSeq (packets 0 data.length) hs fun s =>
    s.land seq (peer, peerSeq) tag.toNat buf chunk data)

/-- SIGNAL_ARRIVAL (R462): a signal of another module's sequencer. -/
def execSignalArrival (seq peer peerSeq : Nat) (tag : BitVec 16) (buf chunk : Nat) (inc : BitVec 64) (hdr : PktHdr) (s : State) :
    Ans :=
  .next (s.tackPackets seq peer peerSeq 1 [hdr] fun s => s.landSignal seq (peer, peerSeq) tag.toNat buf chunk inc)

/-! ## Operations in flight (R456, R459, R460) -/

/-- The address ranges an operation reads or writes. -/
def TackKind.ranges (i : Invocation) : TackKind → List (Nat × Nat)
  | .send b c p pb pc => (i.chunk b c).toList ++ (if p = i.index then (i.chunk pb pc).toList else [])
  | .copy db dc sb sc => (i.chunk db dc).toList ++ (i.chunk sb sc).toList
  | .red _ _ ab ac xb xc => (i.chunk ab ac).toList ++ (i.chunk xb xc).toList
  | .reds _ _ b c => (i.chunk b c).toList
  | .sig b c _ => (i.counter b c, 8) :: (i.chunk b c).toList
  | .sigRemote _ _ _ _ => []

/-- Must an operation wait for an earlier one: a shared chunk, here or at a peer, or a signal after a send or signal to the same
peer (R456, R462)? -/
def TackKind.after (i : Invocation) (k e : TackKind) : Bool :=
  ((k.ranges i).any fun x => (e.ranges i).any fun y => decide (x.1 < y.1 + y.2) && decide (y.1 < x.1 + x.2)) ||
  match k, e with
  | .send _ _ p b c, .send _ _ r rb rc => p == r && b == rb && c == rc
  | .sigRemote _ _ p _, .send _ _ r _ _ => p == r
  | .sigRemote _ _ p _, .sigRemote _ _ r _ => p == r
  | _, _ => false

/-- May an operation act now, as far as the earlier ones go? -/
def Sequencer.mayAct (x : Sequencer) (i : Invocation) (o : TackOpn) : Bool :=
  !(x.ops.any fun e => decide (e.id < o.id) && o.kind.after i e.kind)

/-- The address ranges of this invocation's chunks that an operation writes. -/
def TackKind.writes (i : Invocation) : TackKind → List (Nat × Nat)
  | .send _ _ p pb pc => if p = i.index then (i.chunk pb pc).toList else []
  | .copy b c _ _ | .red _ _ b c _ _ | .reds _ _ b c => (i.chunk b c).toList
  | .sig _ _ _ | .sigRemote _ _ _ _ => []

/-- May a signal never be performed any more, because an earlier write of its chunk, or an earlier send to its peer, was refused
(R462, R466)? -/
def Sequencer.cutOff (x : Sequencer) (i : Invocation) (o : TackOpn) : Bool :=
  x.lost.any fun e => decide (e.id < o.id) && match o.kind, e.kind with
    | .sig b c _, k => (k.writes i).any fun w => (i.chunk b c).any fun r => decide (w.1 < r.1 + r.2) && decide (r.1 < w.1 + w.2)
    | .sigRemote _ _ p _, .send _ _ r _ _ => p == r
    | _, _ => false

/-- One step of `tk.red` on an element (R459). -/
def redStep (op : TkOp) (fmt : TkFmt) (a x : Nat) : Nat :=
  match fmt with
  | .bf16 => (fconv .f32 .bf16 .rne (foldFloat op (widen .bf16 a) (widen .bf16 x))).1
  | .f32 | .f32p | .i32 | .i64 => foldStep op fmt a x

/-- A step on every element of a doubleword; a poisoned word poisons the result. -/
def redDword (op : TkOp) (fmt : TkFmt) (a x : Dword) : Dword :=
  let n := 8 * fmtBytes fmt
  let elem := fun k : Nat => redStep op fmt (bits a.1.toNat (n * k + n - 1) (n * k)) (bits x.1.toNat (n * k + n - 1) (n * k))
  (BitVec.ofNat 64 ((List.range (64 / n)).foldl (fun v k => v + elem k * 2 ^ (n * k)) 0), a.2 || x.2)

/-- A chunk leaves by the sequencer's port in packets of 256 bytes at most (R27, R433). -/
def State.sendChunk (s : State) (q peer peerSeq : Nat) (tag : BitVec 16) (buf chunk : Nat) (data : List Dword) : State :=
  (packetParts 0 data).foldl (fun s d => s.sendBy q peer (.chunk peerSeq tag buf chunk (8 * d.1) d.2)) s

/-- A chunk leaves for the switches by the sequencer's port; a group that is encrypted never does (R460). -/
def State.sendReduce (s : State) (q grp : Nat) (data : List Dword) : State :=
  (packetParts 0 data).foldl (fun s d => s.sendUp q grp (.reduce grp (8 * d.1) d.2) false) s

/-- Note something of an operation in flight. -/
def State.modOp (s : State) (q : Nat) (o : TackOpn) (f : TackOpn → TackOpn) : State :=
  s.modSeq q fun x => { x with ops := x.ops.map fun p => if p.id = o.id then f p else p }

/-- Try an operation that has come to nothing yet. A signal that can no longer be performed ends with the invocation (R466). -/
def State.tryOp (s : State) (q : Nat) (i : Invocation) (o : TackOpn) : State :=
  let again := s.owe (.tackDone q o.id)
  let sent := fun s : State => s.modOp q o fun p => { p with sent := true }
  let failAt := fun (s : State) (va : Nat) => s.opOver q o (some (0x22, va))
  let get := fun (s : State) (acc : Acc) (b c : Nat) => match i.chunk b c with
    | none => (Except.error 0, s)
    | some (va, len) => s.tackPlaces q i.core acc va (len / 8)
  let answer := fun (x : TackResp × State) => match x.1 with
    | .notReady => x.2.owe (.tackDone q o.id)
    | .refused sub => x.2.opOver q o (some (sub, o.pc.toNat))
    | .landed | .reduced _ => x.2.opOver q o none
  let target := fun p : Nat => peerPair (tget 0 (s.seq q).peers p)
  let tag := BitVec.ofNat 16 i.tag
  if !(s.seq q).mayAct i o then again
  else if (s.seq q).cutOff i o then s.opOver q o none
  else match o.kind with
    | .send b c p pb pc =>
      match get s .load b c with
      | (.error va, s) => failAt s va
      | (.ok ps, s) =>
        if s.anyReadHeld ps then again
        else
          let (data, s) := s.readDwords ps
          if (target p).1 = s.ident.toNat then answer (s.land (target p).2 (s.ident.toNat, q) i.tag pb pc data)
          else if !s.reaches (target p).1 then s.opOver q o (some (3, o.pc.toNat))
          else
            sent (s.sendChunk q (target p).1 (target p).2 tag pb pc data)
    | .sigRemote b c p inc =>
      if (target p).1 = s.ident.toNat then answer (s.landSignal (target p).2 (s.ident.toNat, q) i.tag b c inc)
      else if !s.reaches (target p).1 then s.opOver q o (some (3, o.pc.toNat))
      else
        sent (s.sendBy q (target p).1 (.signal (target p).2 tag b c inc))
    | .copy db dc sb sc =>
      match get s .load sb sc with
      | (.error va, s) => failAt s va
      | (.ok ps, s) => match get s .store db dc with
        | (.error va, s) => failAt s va
        | (.ok ds, s) =>
          if s.anyReadHeld ps || s.anyHeld ds then again
          else
            let (xs, s) := s.readDwords ps
            (s.writeDwords ds xs).opOver q o none
    | .red op fmt ab ac xb xc =>
      match get s .load xb xc with
      | (.error va, s) => failAt s va
      | (.ok ps, s) => match get s .store ab ac with
        | (.error va, s) => failAt s va
        | (.ok ds, s) =>
          if s.anyReadHeld ps || s.anyHeld ds then again
          else
            let (xs, s) := s.readDwords ps
            let (as_, s) := s.readDwords ds
            (s.writeDwords ds ((as_.zip xs).map fun z => redDword op fmt z.1 z.2)).opOver q o none
    | .reds _ _ b c =>
      match get s .store b c with
      | (.error va, s) => failAt s va
      | (.ok ps, s) =>
        if s.anyHeld ps then again
        else
          let (data, s) := s.readDwords ps
          sent (s.sendReduce q i.grp data)
    | .sig b c inc =>
      match s.tackPlaces q i.core .store (i.counter b c) 1 with
      | (.ok [p], s) =>
        if s.heldAt p 8 then again
        else match s.addCounter p inc with
          | none => failAt s (i.counter b c)
          | some s => s.opOver q o none
      | (_, s) => failAt s (i.counter b c)

/-- The invocation and the operation an event of a sequencer is about. -/
def State.tackOp (s : State) (q op : Nat) : Option (Invocation × TackOpn) :=
  match (s.seq q).queue with
  | [] => none
  | i :: _ => if !(s.seq q).running then none else ((s.seq q).ops.find? fun o => o.id == op).map fun o => (i, o)

/-- Write the result of a switch reduction that has come back, poison codes with it, once nothing holds the chunk (R460). -/
def State.writeReduced (s : State) (q : Nat) (i : Invocation) (o : TackOpn) : State :=
  match o.kind, o.got with
  | .reds _ _ b c, some xs =>
    match i.chunk b c with
    | none => s
    | some (va, len) =>
      match s.tackPlaces q i.core .store va (len / 8) with
      | (.error va, s) => s.opOver q o (some (0x22, va))
      | (.ok ps, s') =>
        if s'.anyHeld ps then s.owe (.tackDone q o.id) else (s'.writeDwords ps xs).opOver q o none
  | _, _ => s

/-- The packets of an answer arrive: from the target's module, or from the switches of a group (R428). -/
def State.takeTack (s : State) (r : TackAnswer) : Bool × State :=
  match r.group, r.resp with
  | none, _ => s.takeFrom ((senderOf r.hs).getD 0) 1 r.hs
  | some g, .reduced xs => s.takeHdrs (s.groupKey g) (Machine.packets 0 xs.length) r.hs
  | some g, .landed | some g, .notReady | some g, .refused _ => s.takeHdrs (s.groupKey g) 1 r.hs

/-- The answer to an operation that has left the module: of the target's sequencer, or of the switches (R457, R460, R462). A
"not ready" is kept: the chunk or the signal is to be sent again. -/
def State.tackAnswer (s : State) (q : Nat) (i : Invocation) (o : TackOpn) (r : TackAnswer) : State :=
  let from_ := fun p : Nat => r.group.isNone && senderOf r.hs == some (peerPair (tget 0 (s.seq q).peers p)).1
  match o.kind with
  | .send _ _ p _ _ | .sigRemote _ _ p _ =>
    if !from_ p || !o.sent then s
    else match r.resp with
      | .landed => s.opOver q o none
      | .refused sub => s.opOver q o (some (sub, o.pc.toNat))
      | .notReady => s.modOp q o fun p => { p with again := true }
      | .reduced _ => s
  | .reds _ _ b c =>
    if r.group != some i.grp || !o.sent then s
    else match r.resp with
      | .reduced xs =>
        if (i.chunk b c).map (fun k => k.2) ≠ some (8 * xs.length) then s
        else
          let o := { o with got := some xs }
          (s.modOp q o fun _ => o).writeReduced q i o
      | .refused sub => s.opOver q o (some (sub, o.pc.toNat))
      | .landed | .notReady => s
  | .copy _ _ _ _ | .red _ _ _ _ _ _ | .sig _ _ _ => s

/-- TACK_OPERATION_PERFORMED (R428, R456-R462): an operation acts on this module, or the answer to one that has left it arrives
in packets, which are authenticated first. -/
def execTackOperationPerformed (seq op : Nat) (r : TackAnswer) (s : State) : Ans :=
  if r.hs.isEmpty then
    match s.tackOp seq op with
    | none => .next s
    | some (i, o) => .next (if o.sent then s.writeReduced seq i o else s.tryOp seq i o)
  else
    let (ok, s) := s.takeTack r
    match s.tackOp seq op with
    | none => .next s
    | some (i, o) => .next (if ok then s.tackAnswer seq i o r else s)

/-- TACK_SEND_RETRY (R457): the target has answered "not ready", and the chunk or signal is sent again. -/
def execTackSendRetry (seq op : Nat) (s : State) : Ans :=
  match s.tackOp seq op with
  | none => .next s
  | some (i, o) =>
    if !o.again then .next s
    else
      let o := { o with sent := false, again := false }
      .next ((s.modOp seq o fun _ => o).tryOp seq i o)

/-- TACK_SEND_TIMEOUT (R434, R457): retries have lasted too long, or no answer has come. -/
def execTackSendTimeout (seq op : Nat) (s : State) : Ans :=
  match s.tackOp seq op with
  | none => .next s
  | some (_, o) =>
    match o.kind with
    | .send _ _ _ _ _ | .sigRemote _ _ _ _ | .reds _ _ _ _ => .next (s.opOver seq o (some (6, o.pc.toNat)))
    | .copy _ _ _ _ | .red _ _ _ _ _ _ | .sig _ _ _ => .next s

/-! ## Tack instructions (R454-R463) -/

/-- A register of the hart; x0 reads zero. -/
def Sequencer.xr (x : Sequencer) (r : Nat) : Word := if r = 0 then 0 else tget 0 x.x r
/-- Write a register of the hart; x0 is discarded. -/
def Sequencer.setX (x : Sequencer) (r : Nat) (v : Word) : Sequencer := if r = 0 then x else { x with x := tset x.x r v }

/-- A register of the sequencer whose turn it is. -/
def State.xv (s : State) (r : RegNo) : Nat := ((s.seq s.curSeq).xr r.toNat).toNat

/-- What a tack instruction does: go on, hold the hart, or end the invocation. -/
inductive TkAct where
  | go (s : State)
  | hold
  | fail (status : Nat) (sub : BitVec 8) (value : Nat)
  | ended (s : State)

/-- Run a tack instruction of the current sequencer, if its hart runs. -/
def tackRun (s : State) (f : Invocation → TkAct) : Ans :=
  let q := s.curSeq
  match (s.seq q).queue with
  | [] => .next s
  | i :: _ =>
    if !(s.seq q).running || (s.seq q).suspended || (s.seq q).fail.isSome then .next s
    else match f i with
      | .go s => .next (s.modSeq q fun x => { x with pc := x.pc + 4, instret := x.instret + 1 })
      | .hold => .next s
      | .fail status sub value => .next (s.failSeq q status sub value)
      | .ended s => .next s

/-- A chunk reference: peer, buffer and chunk; none where it is bad (R455). -/
def Invocation.ref (i : Invocation) (v : Nat) (remote : Bool) : Option (Nat × Nat × Nat) :=
  let peer := if remote then bits v 59 48 else i.index
  let spare := if remote then bits v 60 60 != 0 || bits v 47 32 != 0 else bits v 60 32 != 0
  if spare || decide (i.count ≤ peer) || (i.chunk (bits v 63 61) (bits v 31 0)).isNone then none
  else some (peer, bits v 63 61, bits v 31 0)

/-- The end of an invocation by the current tack instruction: STATUS 1 with its address. -/
def State.tkBad (s : State) (sub : BitVec 8) : TkAct := .fail 1 sub (s.seq s.curSeq).pc.toNat

/-- Enter an operation among the 32 in flight. -/
def State.enterOp (s : State) (k : TackKind) : TkAct :=
  let q := s.curSeq
  if 32 ≤ (s.seq q).ops.length then .hold
  else
    let (id, s) := s.fresh
    .go ((s.modSeq q fun x => { x with ops := x.ops ++ [⟨id, x.pc, k, false, false, none⟩] }).owe (.tackDone q id))

/-- `tk.send` (R457). -/
def execTkSend (rs1 rs2 : RegNo) (s : State) : Ans :=
  tackRun s fun i =>
    match i.ref (s.xv rs1) false, i.ref (s.xv rs2) true with
    | some (_, b, c), some (p, pb, pc) => s.enterOp (.send b c p pb pc)
    | _, _ => s.tkBad 0x20

/-- `tk.recv` (R458). -/
def execTkRecv (rd rs1 rs2 : RegNo) (s : State) : Ans :=
  tackRun s fun i =>
    match i.ref (s.xv rs1) false with
    | none => s.tkBad 0x20
    | some (_, b, c) =>
      let a : Arrival := ⟨b, c, s.xv rs2⟩
      if !(s.seq s.curSeq).arrivals.contains a then .hold
      else
        let len := ((i.chunk b c).map (·.2)).getD 0
        .go (s.modSeq s.curSeq fun x => { x with arrivals := x.arrivals.erase a }.setX rd.toNat (BitVec.ofNat 64 len))

/-- `tk.recv.any` (R454, R458): illegal in an image marked DET. -/
def execTkRecvAny (rd rs1 : RegNo) (s : State) : Ans :=
  tackRun s fun i =>
    let v := s.xv rs1
    let b := bits v 63 61
    let det := match tfind (s.seq s.curSeq).slots i.slot with
      | none => false
      | some img => img.det
    if det then .fail 2 2 (s.seq s.curSeq).pc.toNat
    else if bits v 60 32 ≠ 0 ∨ i.nbuf ≤ b then s.tkBad 0x20
    else match (s.seq s.curSeq).arrivals.find? fun a => a.buf == b with
      | none => .hold
      | some a =>
        let ref := BitVec.ofNat 64 (a.buf * 2 ^ 61 + a.sender * 2 ^ 48 + a.chunk)
        .go (s.modSeq s.curSeq fun x => { x with arrivals := x.arrivals.erase a }.setX rd.toNat ref)

/-- Two local chunks of one instruction, of equal length, a multiple of `size`; rs1 first (R459). -/
def State.twoChunks (s : State) (i : Invocation) (rs1 rs2 : RegNo) (size : Nat) (k : Nat → Nat → Nat → Nat → TackKind) : TkAct :=
  match i.ref (s.xv rs1) false, i.ref (s.xv rs2) false with
  | some (_, b, c), some (_, xb, xc) =>
    let len := ((i.chunk b c).map (·.2)).getD 0
    if ((i.chunk xb xc).map (·.2)).getD 0 ≠ len ∨ len % size ≠ 0 then s.tkBad 0x21 else s.enterOp (k b c xb xc)
  | _, _ => s.tkBad 0x20

/-- `tk.copy` (R459). -/
def execTkCopy (rs1 rs2 : RegNo) (s : State) : Ans := tackRun s fun i => s.twoChunks i rs1 rs2 1 TackKind.copy

/-- `tk.red` (R459). -/
def execTkRed (op : TkOp) (fmt : TkFmt) (rs1 rs2 : RegNo) (s : State) : Ans :=
  tackRun s fun i => s.twoChunks i rs1 rs2 (fmtBytes fmt) (TackKind.red op fmt)

/-- `tk.wait` (R461): a counter that cannot be read, poisoned perhaps, ends the invocation (R497). -/
def execTkWait (rs1 rs2 : RegNo) (s : State) : Ans :=
  tackRun s fun i =>
    match i.ref (s.xv rs1) false with
    | none => s.tkBad 0x20
    | some (_, b, c) =>
      if i.cntva b = 0 then s.tkBad 0x21
      else match s.tackPlaces s.curSeq i.core .load (i.counter b c) 1 with
        | (.error va, _) => .fail 1 0x22 va
        | (.ok ps, s') =>
          if s'.anyReadHeld ps then .hold
          else
            let (xs, s') := s'.readDwords ps
            if xs.any fun x => x.2 then .fail 1 0x22 (i.counter b c)
            else if s.xv rs2 ≤ (xs.map (·.1.toNat)).getD 0 0 then .go s'
            else .ended s'

/-- `tk.sig` (R462). -/
def execTkSig (rs1 rs2 : RegNo) (s : State) : Ans :=
  tackRun s fun i =>
    let inc := BitVec.ofNat 64 (s.xv rs2)
    match i.ref (s.xv rs1) true with
    | none => s.tkBad 0x20
    | some (p, b, c) =>
      if p ≠ i.index then s.enterOp (.sigRemote b c p inc)
      else if i.cntva b = 0 then s.tkBad 0x21
      else s.enterOp (.sig b c inc)

/-- `tk.reds` (R460). -/
def execTkReds (op : TkOp) (fmt : TkFmt) (rs1 : RegNo) (s : State) : Ans :=
  tackRun s fun i =>
    match i.ref (s.xv rs1) false with
    | none => s.tkBad 0x20
    | some (_, b, c) =>
      let e := tget (0, 0) s.mcast i.grp
      if bits (i.word 3) 12 12 = 0 ∨ mcastValid e = false ∨ mcastOp e.2 ≠ some (op, fmt) then s.tkBad 0x21
      else if e.1.getLsbD 62 then .fail 4 0 i.grp
      else s.enterOp (.reds op fmt b c)

/-- `tk.flush` (R463). -/
def execTkFlush (s : State) : Ans := tackRun s fun _ => if (s.seq s.curSeq).ops.isEmpty then .go s else .hold

/-- `tk.done` (R463). -/
def execTkDone (rs1 : RegNo) (s : State) : Ans :=
  tackRun s fun i =>
    if !(s.seq s.curSeq).ops.isEmpty then .hold
    else match s.finishInvocation s.curSeq i 0 0 (BitVec.ofNat 32 (s.xv rs1)) with
      | none => .hold
      | some s => .ended s

end Sys2Proof.Machine
end

