-- ==== Sys2Proof/Machine/RvFloat.lean ====
section
/-! DEFINITION. The RISC-V rules for floating point (R446; PRESUMED, log entry 24): five rounding modes, exact zero sums, minimum and
maximum number, comparisons and conversions. -/

namespace Sys2Proof.Machine

/-- Double precision. -/
def Fmt.f64 : Fmt := ⟨11, 52⟩

/-- Bits of a format. -/
def Fmt.width (f : Fmt) : Nat := 1 + f.eb + f.mb

/-- The rounding mode with a RISC-V number: 0 RNE, 1 RTZ, 2 RDN, 3 RUP; 4, RMM, rounds as RNE does but for ties. -/
def rvRm : Nat → Rm
  | 1 => .rtz
  | 2 => .rdn
  | 3 => .rup
  | _ => .rne

/-- Round a value. A value that RMM must cut is moved away from zero by less than a quarter of its last place, which
leaves every half-way point but its own. -/
def rvRound (f : Fmt) (rm : Nat) (x : Num) : Nat × Flags :=
  let r := roundFmt f (rvRm rm) x
  if rm ≠ 4 ∨ r.2 &&& Flags.nx = 0 then r
  else match x with
    | .fin neg m e => roundFmt f .rne (.fin neg (4 * m + 1) (e - 2))
    | _ => r

/-- A rounded result with the flags of its operands and of its computation. -/
def rvSettle (f : Fmt) (rm : Nat) (r : Num × Flags) (xs : List Nat) : Nat × Flags :=
  let (b, fl) := rvRound f rm r.1
  (b, fl ||| r.2 ||| snanFlag f xs)

/-- The exact sum; a zero sum keeps the sign two zero terms share, and is else negative in RDN alone. -/
def Num.addIeee (rm : Nat) (x y : Num) : Num × Flags :=
  match x, y with
  | .fin na 0 ea, .fin nb 0 _ => (.fin (if na = nb then na else rm == 2) 0 ea, 0)
  | _, _ => Num.add (rvRm rm) x y

/-- Sum. -/
def rvAdd (f : Fmt) (rm x y : Nat) : Nat × Flags := rvSettle f rm (Num.addIeee rm (f.num x) (f.num y)) [x, y]
/-- Difference. -/
def rvSub (f : Fmt) (rm x y : Nat) : Nat × Flags := rvSettle f rm (Num.addIeee rm (f.num x) (f.num y).neg) [x, y]
/-- Product. -/
def rvMul (f : Fmt) (rm x y : Nat) : Nat × Flags := rvSettle f rm (Num.mul (f.num x) (f.num y)) [x, y]
/-- Quotient. -/
def rvDiv (f : Fmt) (rm x y : Nat) : Nat × Flags := rvSettle f rm (Num.div (f.num x) (f.num y)) [x, y]
/-- Square root. -/
def rvSqrt (f : Fmt) (rm x : Nat) : Nat × Flags := rvSettle f rm (Num.sqrt (f.num x)) [x]

/-- ±(x × y) ± z, rounded once. -/
def rvFma (f : Fmt) (rm : Nat) (negProd negAdd : Bool) (x y z : Nat) : Nat × Flags :=
  let (p, fl) := Num.mul (f.num x) (f.num y)
  let (r, fl') := Num.addIeee rm (if negProd then p.neg else p) (if negAdd then (f.num z).neg else f.num z)
  rvSettle f rm (r, fl ||| fl') [x, y, z]

/-- Minimum or maximum number: one NaN gives the other operand. -/
def rvMinMax (f : Fmt) (max : Bool) (x y : Nat) : Nat × Flags :=
  let a := f.num x
  let b := f.num y
  let r := if a == .nan && b == .nan then f.nanBits
    else if a == .nan then y
    else if b == .nan then x
    else if max then (if a.ltTotal b then y else x)
    else (if b.ltTotal a then y else x)
  (r, snanFlag f [x, y])

/-- Comparison `eq`: quiet. -/
def rvEq (f : Fmt) (x y : Nat) : Bool × Flags := ((f.num x).eq (f.num y), snanFlag f [x, y])
/-- Comparison `lt`: NV for any NaN. -/
def rvLt (f : Fmt) (x y : Nat) : Bool × Flags := ((f.num x).lt (f.num y), Flags.when (f.num x == .nan || f.num y == .nan) .nv)
/-- Comparison `le`: NV for any NaN. -/
def rvLe (f : Fmt) (x y : Nat) : Bool × Flags :=
  ((f.num x).lt (f.num y) || (f.num x).eq (f.num y), Flags.when (f.num x == .nan || f.num y == .nan) .nv)

/-- Sign injection: 0 the sign of y, 1 its inverse, 2 the exclusive or. -/
def rvSgnj (f : Fmt) (k x y : Nat) : Nat :=
  let sx := x / f.signBit % 2
  let sy := y / f.signBit % 2
  let s := match k with
    | 0 => sy
    | 1 => 1 - sy
    | _ => (sx + sy) % 2
  x % f.signBit + s * f.signBit

/-- The class of a value, one bit of ten. -/
def rvClass (f : Fmt) (x : Nat) : Nat :=
  match f.num x with
  | .nan => if f.isSnan x then 256 else 512
  | .inf neg => if neg then 1 else 128
  | .fin neg m _ =>
    if m = 0 then (if neg then 8 else 16)
    else if m < 2 ^ f.mb then (if neg then 4 else 32)
    else if neg then 2 else 64

/-- An exact value to an integer, cut by a rounding mode. -/
def rvRoundInt (rm : Nat) (neg : Bool) (m : Nat) (e : Int) : Int × Bool :=
  let r := roundInt (rvRm rm) neg m e
  if rm = 4 ∧ r.2 = true then (roundInt .rne neg (4 * m + 1) (e - 2)).1 |> fun i => (i, true) else r

/-- Float to an integer of `n` bits; out of range gives the nearest bound and NV, a NaN the upper bound. -/
def rvToInt (f : Fmt) (n : Nat) (sgn : Bool) (rm x : Nat) : Nat × Flags :=
  let lo : Int := if sgn then -(2 ^ (n - 1) : Int) else 0
  let hi : Int := if sgn then 2 ^ (n - 1) - 1 else 2 ^ n - 1
  match f.num x with
  | .nan => (ofInt n hi, .nv)
  | .inf neg => (ofInt n (if neg then lo else hi), .nv)
  | .fin neg m e =>
    let (i, lost) := rvRoundInt rm neg m e
    if i < lo then (ofInt n lo, .nv) else if hi < i then (ofInt n hi, .nv) else (ofInt n i, Flags.when lost .nx)

/-- Integer of `n` bits to a float. -/
def rvOfInt (f : Fmt) (n : Nat) (sgn : Bool) (rm x : Nat) : Nat × Flags :=
  let i : Int := if sgn then sint n x else (x % 2 ^ n : Nat)
  rvRound f rm (.fin (decide (i < 0)) i.natAbs 0)

/-- Convert between formats. -/
def rvConv (src dst : Fmt) (rm x : Nat) : Nat × Flags :=
  let (b, fl) := rvRound dst rm (src.num x)
  (b, fl ||| snanFlag src [x])

end Sys2Proof.Machine
end

