-- ==== Sys2Proof/Machine/RvHart.lean ====
section
/-! DEFINITION. The RISC-V hart of a sequencer: its registers, its user memory and the end of an instruction (R446, R447;
the RISC-V meanings themselves are PRESUMED, log entry 24). Every definition acts for the hart of `curSeq`. -/

namespace Sys2Proof.Machine

/-- How a RISC-V instruction ends: the hart goes on at an address, or takes an exception. -/
inductive RvAct where
  | go (s : State) (pc : Nat)
  | exc (s : State) (cause : Nat)

/-- The illegal-instruction exception. -/
def State.rvIllegal (s : State) : RvAct := .exc s 2

/-- A register of the hart. -/
def State.gx (s : State) (r : Nat) : Nat := ((s.seq s.curSeq).xr r).toNat
/-- Write a register of the hart. -/
def State.setGx (s : State) (r v : Nat) : State := s.modSeq s.curSeq fun x => x.setX r (BitVec.ofNat 64 v)
/-- The bits of a floating-point register. -/
def State.gf (s : State) (r : Nat) : Nat := (tget 0 (s.seq s.curSeq).f r).toNat

/-- The value of a floating-point register in a format: a narrow value that is not boxed reads as the canonical NaN. -/
def State.fval (s : State) (f : Fmt) (r : Nat) : Nat :=
  if f = .f64 then s.gf r else if bits (s.gf r) 63 32 = 0xFFFFFFFF then bits (s.gf r) 31 0 else f.nanBits

/-- A narrow value boxed into 64 bits. -/
def boxed (f : Fmt) (v : Nat) : Word := BitVec.ofNat 64 (if f = .f64 then v else 0xFFFFFFFF00000000 + v)

/-- Write a floating-point register. -/
def State.setGf (s : State) (f : Fmt) (r v : Nat) : State := s.modSeq s.curSeq fun x => { x with f := tset x.f r (boxed f v) }

/-- Accrue floating-point flags; `Flags.sat` accrues into `vxsat`. -/
def State.accrue (s : State) (f : Flags) : State :=
  s.modSeq s.curSeq fun x => { x with fflags := x.fflags ||| f.setWidth 5, vxsat := x.vxsat || f.getLsbD 5 }

/-- The rounding mode an instruction names: 7 is `frm`; none where it is reserved. -/
def State.rvRmOf (s : State) (rm : Nat) : Option Nat :=
  let m := if rm = 7 then (s.seq s.curSeq).frm.toNat else rm
  if m < 5 then some m else none

/-- A value of `n` bits, sign-extended to 64. -/
def sx (n v : Nat) : Nat := ofInt 64 (sint n v)

/-- May user mode reach these bytes (R447)? -/
def State.rvAllowed (s : State) (i : Invocation) (wr : Bool) (a n : Nat) : Bool :=
  (!wr && decide (0x3E00 ≤ a) && decide (a + n ≤ 0x4000)) ||
  match tfind (s.seq s.curSeq).slots i.slot with
  | none => false
  | some img => decide (img.load ≤ a) && decide (a + n ≤ img.load + img.size)

/-- Load `n` bytes, or the exception: misaligned 4 before access fault 5. -/
def State.rvLoad (s : State) (i : Invocation) (a n : Nat) : Except Nat Nat :=
  if a % n ≠ 0 then .error 4
  else if !s.rvAllowed i false a n then .error 5
  else .ok (s.mem.read (Region.seq s.curSeq + a) n)

/-- Store `n` bytes, or the exception: misaligned 6 before access fault 7. -/
def State.rvStore (s : State) (i : Invocation) (a n v : Nat) : Except Nat State :=
  if a % n ≠ 0 then .error 6
  else if !s.rvAllowed i true a n then .error 7
  else .ok { s with mem := s.mem.write (Region.seq s.curSeq + a) n v }

/-- Quotients and products of `n` bits, by the M extension's function number. -/
def rvMulDiv (n f3 a b : Nat) : Nat :=
  let sa := sint n a
  let sb := sint n b
  match f3 with
  | 0 => a * b % 2 ^ n
  | 1 => ofInt n (sa * sb / 2 ^ n)
  | 2 => ofInt n (sa * (b : Int) / 2 ^ n)
  | 3 => a * b / 2 ^ n
  | 4 => if b = 0 then 2 ^ n - 1 else ofInt n (sa.tdiv sb)
  | 5 => if b = 0 then 2 ^ n - 1 else a / b
  | 6 => if b = 0 then a else ofInt n (sa.tmod sb)
  | _ => if b = 0 then a else a % b

/-- Run an instruction on the hart, if it runs: an exception ends the invocation (R446, R466). -/
def rvRun (s : State) (f : Invocation → RvAct) : Ans :=
  let q := s.curSeq
  match (s.seq q).queue with
  | [] => .next s
  | i :: _ =>
    if !(s.seq q).running || (s.seq q).suspended || (s.seq q).fail.isSome then .next s
    else match f i with
      | .go s pc => .next (s.modSeq q fun x => { x with pc := BitVec.ofNat 64 pc, instret := x.instret + 1 })
      | .exc s cause => .next (s.failSeq q 2 (BitVec.ofNat 8 cause) (s.seq q).pc.toNat)

end Sys2Proof.Machine
end

