-- ==== Sys2Proof/Machine/RvScalar.lean ====
section
/-! DEFINITION. The scalar RISC-V instructions of a sequencer: RV64I, M, A, F, D, C and Zicsr (R446; PRESUMED, log entry 24). `w` is
the instruction word, `pc` its address and `nx` the address behind it. -/

namespace Sys2Proof.Machine

/-- Destination register field. -/
def wRd (w : Nat) : Nat := bits w 11 7
/-- First source field. -/
def wRs1 (w : Nat) : Nat := bits w 19 15
/-- Second source field. -/
def wRs2 (w : Nat) : Nat := bits w 24 20
/-- Function field of three bits. -/
def wF3 (w : Nat) : Nat := bits w 14 12
/-- Function field of seven bits. -/
def wF7 (w : Nat) : Nat := bits w 31 25

def immI (w : Nat) : Nat := sx 12 (bits w 31 20)
def immS (w : Nat) : Nat := sx 12 (bits w 31 25 * 32 + bits w 11 7)
def immB (w : Nat) : Nat := sx 13 (bits w 31 31 * 4096 + bits w 7 7 * 2048 + bits w 30 25 * 32 + bits w 11 8 * 2)
def immU (w : Nat) : Nat := sx 32 (bits w 31 12 * 4096)
def immJ (w : Nat) : Nat := sx 21 (bits w 31 31 * 1048576 + bits w 19 12 * 4096 + bits w 20 20 * 2048 + bits w 30 21 * 2)

/-- A sum modulo 2^64. -/
def add64 (a b : Nat) : Nat := (a + b) % 2 ^ 64

/-- Write `rd` and go on. -/
def State.rvPut (s : State) (w nx v : Nat) : RvAct := .go (s.setGx (wRd w) v) nx

/-! ## RV64I and M -/

/-- The integer operations by function number on `n` bits; `alt` is bit 30 of the instruction. -/
def rvAlu (n f3 : Nat) (alt : Bool) (a b : Nat) : Nat :=
  match f3 with
  | 0 => if alt then (a + 2 ^ n - b) % 2 ^ n else (a + b) % 2 ^ n
  | 1 => a * 2 ^ (b % n) % 2 ^ n
  | 2 => if sint n a < sint n b then 1 else 0
  | 3 => if a < b then 1 else 0
  | 4 => a ^^^ b
  | 5 => if alt then ofInt n (sint n a / 2 ^ (b % n)) else a / 2 ^ (b % n)
  | 6 => a ||| b
  | _ => a &&& b

/-- OP-IMM: the shifts take a six-bit amount. -/
def rvOpImm (s : State) (w nx : Nat) : RvAct :=
  let a := s.gx (wRs1 w)
  let f3 := wF3 w
  let hi := bits w 31 26
  if (f3 = 1 ∧ hi ≠ 0) ∨ (f3 = 5 ∧ hi ≠ 0 ∧ hi ≠ 16) then s.rvIllegal
  else if f3 = 1 ∨ f3 = 5 then s.rvPut w nx (rvAlu 64 f3 (decide (hi = 16)) a (bits w 25 20))
  else s.rvPut w nx (rvAlu 64 f3 false a (immI w))

/-- OP-IMM-32. -/
def rvOpImm32 (s : State) (w nx : Nat) : RvAct :=
  let a := s.gx (wRs1 w) % 2 ^ 32
  let f3 := wF3 w
  let f7 := wF7 w
  if f3 = 0 then s.rvPut w nx (sx 32 (a + immI w))
  else if (f3 = 1 ∧ f7 = 0) ∨ (f3 = 5 ∧ (f7 = 0 ∨ f7 = 32)) then s.rvPut w nx (sx 32 (rvAlu 32 f3 (decide (f7 = 32)) a (wRs2 w)))
  else s.rvIllegal

/-- OP and its M extension. -/
def rvOp (s : State) (w nx : Nat) : RvAct :=
  let a := s.gx (wRs1 w)
  let b := s.gx (wRs2 w)
  let f3 := wF3 w
  match wF7 w with
  | 0 => s.rvPut w nx (rvAlu 64 f3 false a b)
  | 1 => s.rvPut w nx (rvMulDiv 64 f3 a b)
  | 32 => if f3 = 0 ∨ f3 = 5 then s.rvPut w nx (rvAlu 64 f3 true a b) else s.rvIllegal
  | _ => s.rvIllegal

/-- OP-32 and its M extension. -/
def rvOp32 (s : State) (w nx : Nat) : RvAct :=
  let a := s.gx (wRs1 w) % 2 ^ 32
  let b := s.gx (wRs2 w) % 2 ^ 32
  let f3 := wF3 w
  match wF7 w with
  | 0 => if f3 = 0 ∨ f3 = 1 ∨ f3 = 5 then s.rvPut w nx (sx 32 (rvAlu 32 f3 false a b)) else s.rvIllegal
  | 1 => if f3 = 0 ∨ 4 ≤ f3 then s.rvPut w nx (sx 32 (rvMulDiv 32 f3 a b)) else s.rvIllegal
  | 32 => if f3 = 0 ∨ f3 = 5 then s.rvPut w nx (sx 32 (rvAlu 32 f3 true a b)) else s.rvIllegal
  | _ => s.rvIllegal

/-- Loads. -/
def rvLoadOp (s : State) (i : Invocation) (w nx : Nat) : RvAct :=
  let f3 := wF3 w
  let n := 2 ^ (f3 % 4)
  if f3 = 7 then s.rvIllegal
  else match s.rvLoad i (add64 (s.gx (wRs1 w)) (immI w)) n with
    | .error c => .exc s c
    | .ok v => s.rvPut w nx (if f3 < 4 then sx (8 * n) v else v)

/-- Stores. -/
def rvStoreOp (s : State) (i : Invocation) (w nx : Nat) : RvAct :=
  let f3 := wF3 w
  if 4 ≤ f3 then s.rvIllegal
  else match s.rvStore i (add64 (s.gx (wRs1 w)) (immS w)) (2 ^ f3) (s.gx (wRs2 w)) with
    | .error c => .exc s c
    | .ok s => .go s nx

/-- Conditional branches. -/
def rvBranch (s : State) (w pc nx : Nat) : RvAct :=
  let a := s.gx (wRs1 w)
  let b := s.gx (wRs2 w)
  let f3 := wF3 w
  let t := match f3 / 2 with
    | 0 => decide (a = b)
    | 2 => decide (sint 64 a < sint 64 b)
    | _ => decide (a < b)
  if f3 = 2 ∨ f3 = 3 then s.rvIllegal
  else .go s (if t != (f3 % 2 == 1) then add64 pc (immB w) else nx)

/-- JALR. -/
def rvJalr (s : State) (w nx : Nat) : RvAct :=
  if wF3 w ≠ 0 then s.rvIllegal
  else
    let t := add64 (s.gx (wRs1 w)) (immI w)
    .go (s.setGx (wRd w) nx) (t / 2 * 2)

/-! ## A -/

/-- The value an AMO stores, by its function number; none for no AMO. -/
def rvAmoVal (f5 n old src : Nat) : Option Nat :=
  match f5 with
  | 0x00 => some ((old + src) % 2 ^ n)
  | 0x01 => some src
  | 0x04 => some (old ^^^ src)
  | 0x08 => some (old ||| src)
  | 0x0C => some (old &&& src)
  | 0x10 => some (if sint n old < sint n src then old else src)
  | 0x14 => some (if sint n old < sint n src then src else old)
  | 0x18 => some (min old src)
  | 0x1C => some (max old src)
  | _ => none

/-- LR, SC and the AMOs. The reservation is the address; SC succeeds at it and always gives it up. -/
def rvAtomic (s : State) (i : Invocation) (w nx : Nat) : RvAct :=
  let n := 2 ^ wF3 w
  let f5 := bits w 31 27
  let a := s.gx (wRs1 w)
  let src := s.gx (wRs2 w) % 2 ^ (8 * n)
  let reserve := fun (s : State) (r : Option Nat) => s.modSeq s.curSeq fun x => { x with reserve := r }
  if n ≠ 4 ∧ n ≠ 8 then s.rvIllegal
  else if f5 = 2 then
    if wRs2 w ≠ 0 then s.rvIllegal
    else match s.rvLoad i a n with
      | .error c => .exc s c
      | .ok v => (reserve s (some a)).rvPut w nx (sx (8 * n) v)
  else if f5 = 3 then
    match s.rvStore i a n src with
    | .error c => .exc s c
    | .ok s' =>
      if (s.seq s.curSeq).reserve = some a then (reserve s' none).rvPut w nx 0 else (reserve s none).rvPut w nx 1
  else
    let old := s.mem.read (Region.seq s.curSeq + a) n
    match rvAmoVal f5 (8 * n) old src with
    | none => s.rvIllegal
    | some v => match s.rvStore i a n v with
      | .error c => .exc s c
      | .ok s => s.rvPut w nx (sx (8 * n) old)

/-! ## F and D -/

/-- The format an instruction names, bits 26:25. -/
def rvFmt (w : Nat) : Option Fmt :=
  match bits w 26 25 with
  | 0 => some .f32
  | 1 => some .f64
  | _ => none

/-- Write a floating-point result with its flags. -/
def State.rvPutF (s : State) (f : Fmt) (w nx : Nat) (r : Nat × Flags) : RvAct := .go ((s.accrue r.2).setGf f (wRd w) r.1) nx
/-- Write an integer result with its flags. -/
def State.rvPutX (s : State) (w nx : Nat) (r : Nat × Flags) : RvAct := (s.accrue r.2).rvPut w nx r.1

/-- Floating-point loads of 4 or 8 bytes. -/
def rvFload (s : State) (i : Invocation) (w nx : Nat) : RvAct :=
  let f := if wF3 w = 2 then Fmt.f32 else Fmt.f64
  match s.rvLoad i (add64 (s.gx (wRs1 w)) (immI w)) (2 ^ wF3 w) with
  | .error c => .exc s c
  | .ok v => .go (s.setGf f (wRd w) v) nx

/-- Floating-point stores of 4 or 8 bytes. -/
def rvFstore (s : State) (i : Invocation) (w nx : Nat) : RvAct :=
  match s.rvStore i (add64 (s.gx (wRs1 w)) (immS w)) (2 ^ wF3 w) (s.gf (wRs2 w)) with
  | .error c => .exc s c
  | .ok s => .go s nx

/-- FMADD, FMSUB, FNMSUB, FNMADD. -/
def rvFmadd (s : State) (w nx : Nat) : RvAct :=
  match rvFmt w, s.rvRmOf (wF3 w) with
  | some f, some rm =>
    let k := bits w 3 2
    s.rvPutF f w nx (rvFma f rm (decide (2 ≤ k)) (k == 1 || k == 3) (s.fval f (wRs1 w)) (s.fval f (wRs2 w)) (s.fval f (bits w 31 27)))
  | _, _ => s.rvIllegal

/-- Conversions between floats and integers: rs2 names the integer type. -/
def rvIntType (k : Nat) : Nat × Bool := (if k < 2 then 32 else 64, k % 2 == 0)

/-- OP-FP. -/
def rvOpFp (s : State) (w nx : Nat) : RvAct :=
  match rvFmt w with
  | none => s.rvIllegal
  | some f =>
    let f3 := wF3 w
    let rs2 := wRs2 w
    let a := s.fval f (wRs1 w)
    let b := s.fval f rs2
    let other := if f = .f64 then Fmt.f32 else Fmt.f64
    let arith := fun g : Nat → RvAct => match s.rvRmOf f3 with
      | none => s.rvIllegal
      | some rm => g rm
    let one := fun b : Bool × Flags => s.rvPutX w nx (if b.1 then 1 else 0, b.2)
    match bits w 31 27 with
    | 0x00 => arith fun rm => s.rvPutF f w nx (rvAdd f rm a b)
    | 0x01 => arith fun rm => s.rvPutF f w nx (rvSub f rm a b)
    | 0x02 => arith fun rm => s.rvPutF f w nx (rvMul f rm a b)
    | 0x03 => arith fun rm => s.rvPutF f w nx (rvDiv f rm a b)
    | 0x0B => if rs2 ≠ 0 then s.rvIllegal else arith fun rm => s.rvPutF f w nx (rvSqrt f rm a)
    | 0x04 => if 2 < f3 then s.rvIllegal else s.rvPutF f w nx (rvSgnj f f3 a b, 0)
    | 0x05 => if 1 < f3 then s.rvIllegal else s.rvPutF f w nx (rvMinMax f (f3 == 1) a b)
    | 0x08 =>
      if rs2 ≠ (if f = .f64 then 0 else 1) then s.rvIllegal
      else arith fun rm => s.rvPutF f w nx (rvConv other f rm (s.fval other (wRs1 w)))
    | 0x14 =>
      match f3 with
      | 0 => one (rvLe f a b)
      | 1 => one (rvLt f a b)
      | 2 => one (rvEq f a b)
      | _ => s.rvIllegal
    | 0x18 =>
      if 3 < rs2 then s.rvIllegal
      else arith fun rm =>
        let (n, sgn) := rvIntType rs2
        let r := rvToInt f n sgn rm a
        s.rvPutX w nx (sx n r.1, r.2)
    | 0x1A =>
      if 3 < rs2 then s.rvIllegal
      else arith fun rm =>
        let (n, sgn) := rvIntType rs2
        s.rvPutF f w nx (rvOfInt f n sgn rm (s.gx (wRs1 w)))
    | 0x1C =>
      if rs2 ≠ 0 then s.rvIllegal
      else match f3 with
        | 0 => s.rvPut w nx (if f = .f64 then s.gf (wRs1 w) else sx 32 (s.gf (wRs1 w)))
        | 1 => s.rvPut w nx (rvClass f a)
        | _ => s.rvIllegal
    | 0x1E =>
      if rs2 ≠ 0 ∨ f3 ≠ 0 then s.rvIllegal
      else .go (s.setGf f (wRd w) (s.gx (wRs1 w) % 2 ^ f.width)) nx
    | _ => s.rvIllegal

/-! ## Zicsr, fences and the environment -/

/-- A control register user code may read; `cycle` and `time` are free values (DESIGN CHOICE, log entry 16). -/
def State.rvCsr (s : State) (n : Nat) : Option (Nat × State) :=
  let x := s.seq s.curSeq
  let free := fun _ : Unit => let (v, s) := s.freeWord; (v.toNat, s)
  match n with
  | 0x001 => some (x.fflags.toNat, s)
  | 0x002 => some (x.frm.toNat, s)
  | 0x003 => some (x.frm.toNat * 32 + x.fflags.toNat, s)
  | 0x008 => some (x.vstart.toNat, s)
  | 0x009 => some (x.vxsat.toNat, s)
  | 0x00A => some (x.vxrm.toNat, s)
  | 0x00F => some (x.vxrm.toNat * 2 + x.vxsat.toNat, s)
  | 0xC00 => some (free ())
  | 0xC01 => some (free ())
  | 0xC02 => some (x.instret.toNat, s)
  | 0xC20 => some (x.vl.toNat, s)
  | 0xC21 => some (x.vtype.toNat, s)
  | 0xC22 => some (64, s)
  | _ => none

/-- Write a control register; none for one user code may not write. `vstart` has nine bits. -/
def State.rvCsrWrite (s : State) (n v : Nat) : Option State :=
  let upd := fun f : Sequencer → Sequencer => some (s.modSeq s.curSeq f)
  match n with
  | 0x001 => upd fun x => { x with fflags := BitVec.ofNat 5 v }
  | 0x002 => upd fun x => { x with frm := BitVec.ofNat 3 v }
  | 0x003 => upd fun x => { x with fflags := BitVec.ofNat 5 v, frm := BitVec.ofNat 3 (v / 32) }
  | 0x008 => upd fun x => { x with vstart := BitVec.ofNat 64 (v % 512) }
  | 0x009 => upd fun x => { x with vxsat := v % 2 == 1 }
  | 0x00A => upd fun x => { x with vxrm := BitVec.ofNat 2 v }
  | 0x00F => upd fun x => { x with vxsat := v % 2 == 1, vxrm := BitVec.ofNat 2 (v / 2) }
  | _ => none

/-- SYSTEM: `ecall` 8, `ebreak` 3, `wfi` that ends at once, and the control registers. -/
def rvSystem (s : State) (w nx : Nat) : RvAct :=
  let f3 := wF3 w
  let n := bits w 31 20
  let rs1 := wRs1 w
  if f3 = 0 then
    if w = 0x00000073 then .exc s 8
    else if w = 0x00100073 then .exc s 3
    else if w = 0x10500073 then .go s nx
    else s.rvIllegal
  else if f3 = 4 then s.rvIllegal
  else
    let src := if 4 < f3 then rs1 else s.gx rs1
    match s.rvCsr n with
    | none => s.rvIllegal
    | some (old, s') =>
      let v := match f3 % 4 with
        | 1 => src
        | 2 => old ||| src
        | _ => old &&& (src ^^^ (2 ^ 64 - 1))
      if f3 % 4 ≠ 1 ∧ rs1 = 0 then s'.rvPut w nx old
      else match s'.rvCsrWrite n v with
        | none => s.rvIllegal
        | some s' => s'.rvPut w nx old

/-! ## C -/

/-- An instruction word of the I layout. -/
def mkI (op f3 rd rs1 imm : Nat) : Nat := op + rd * 2 ^ 7 + f3 * 2 ^ 12 + rs1 * 2 ^ 15 + imm % 4096 * 2 ^ 20
/-- An instruction word of the S layout. -/
def mkS (op f3 rs1 rs2 imm : Nat) : Nat :=
  op + imm % 32 * 2 ^ 7 + f3 * 2 ^ 12 + rs1 * 2 ^ 15 + rs2 * 2 ^ 20 + imm / 32 % 128 * 2 ^ 25
/-- An instruction word of the R layout. -/
def mkR (op f3 f7 rd rs1 rs2 : Nat) : Nat := mkI op f3 rd rs1 (f7 * 32 + rs2)
/-- A jump; the offset has 21 bits. -/
def mkJ (rd off : Nat) : Nat :=
  0x6F + rd * 2 ^ 7 + bits off 19 12 * 2 ^ 12 + bits off 11 11 * 2 ^ 20 + bits off 10 1 * 2 ^ 21 + bits off 20 20 * 2 ^ 31
/-- A branch against x0; the offset has 13 bits. -/
def mkB (f3 rs1 off : Nat) : Nat :=
  0x63 + bits off 11 11 * 2 ^ 7 + bits off 4 1 * 2 ^ 8 + f3 * 2 ^ 12 + rs1 * 2 ^ 15 + bits off 10 5 * 2 ^ 25 + bits off 12 12 * 2 ^ 31

/-- Quadrant 0 of the compressed instructions. -/
def rvcQ0 (h : Nat) : Option Nat :=
  let rd := 8 + bits h 4 2
  let rs1 := 8 + bits h 9 7
  let uw := bits h 12 10 * 8 + bits h 6 6 * 4 + bits h 5 5 * 64
  let ud := bits h 12 10 * 8 + bits h 6 5 * 64
  match bits h 15 13 with
  | 0 =>
    let imm := bits h 12 11 * 16 + bits h 10 7 * 64 + bits h 6 6 * 4 + bits h 5 5 * 8
    if imm = 0 then none else some (mkI 0x13 0 rd 2 imm)
  | 1 => some (mkI 0x07 3 rd rs1 ud)
  | 2 => some (mkI 0x03 2 rd rs1 uw)
  | 3 => some (mkI 0x03 3 rd rs1 ud)
  | 5 => some (mkS 0x27 3 rs1 rd ud)
  | 6 => some (mkS 0x23 2 rs1 rd uw)
  | 7 => some (mkS 0x23 3 rs1 rd ud)
  | _ => none

/-- Quadrant 1 of the compressed instructions. -/
def rvcQ1 (h : Nat) : Option Nat :=
  let rd := bits h 11 7
  let rp := 8 + bits h 9 7
  let rq := 8 + bits h 4 2
  let i6 := bits h 12 12 * 32 + bits h 6 2
  let imm := sx 6 i6
  let b := sx 9 (bits h 12 12 * 256 + bits h 11 10 * 8 + bits h 6 5 * 64 + bits h 4 3 * 2 + bits h 2 2 * 32)
  match bits h 15 13 with
  | 0 => some (mkI 0x13 0 rd rd imm)
  | 1 => if rd = 0 then none else some (mkI 0x1B 0 rd rd imm)
  | 2 => some (mkI 0x13 0 rd 0 imm)
  | 3 =>
    if i6 = 0 then none
    else if rd = 2 then
      some (mkI 0x13 0 2 2
        (sx 10 (bits h 12 12 * 512 + bits h 6 6 * 16 + bits h 5 5 * 64 + bits h 4 3 * 128 + bits h 2 2 * 32)))
    else some (0x37 + rd * 2 ^ 7 + imm % 2 ^ 20 * 2 ^ 12)
  | 4 =>
    match bits h 11 10 with
    | 0 => some (mkI 0x13 5 rp rp i6)
    | 1 => some (mkI 0x13 5 rp rp (1024 + i6))
    | 2 => some (mkI 0x13 7 rp rp imm)
    | _ =>
      match bits h 12 12 * 4 + bits h 6 5 with
      | 0 => some (mkR 0x33 0 32 rp rp rq)
      | 1 => some (mkR 0x33 4 0 rp rp rq)
      | 2 => some (mkR 0x33 6 0 rp rp rq)
      | 3 => some (mkR 0x33 7 0 rp rp rq)
      | 4 => some (mkR 0x3B 0 32 rp rp rq)
      | 5 => some (mkR 0x3B 0 0 rp rp rq)
      | _ => none
  | 5 =>
    some (mkJ 0 (sx 12 (bits h 12 12 * 2048 + bits h 11 11 * 16 + bits h 10 9 * 256 + bits h 8 8 * 1024 + bits h 7 7 * 64 +
      bits h 6 6 * 128 + bits h 5 3 * 2 + bits h 2 2 * 32)))
  | 6 => some (mkB 0 rp b)
  | _ => some (mkB 1 rp b)

/-- Quadrant 2 of the compressed instructions. -/
def rvcQ2 (h : Nat) : Option Nat :=
  let rd := bits h 11 7
  let rs2 := bits h 6 2
  let ld := bits h 12 12 * 32 + bits h 6 5 * 8 + bits h 4 2 * 64
  let lw := bits h 12 12 * 32 + bits h 6 4 * 4 + bits h 3 2 * 64
  let sd := bits h 12 10 * 8 + bits h 9 7 * 64
  match bits h 15 13 with
  | 0 => some (mkI 0x13 1 rd rd (bits h 12 12 * 32 + rs2))
  | 1 => some (mkI 0x07 3 rd 2 ld)
  | 2 => if rd = 0 then none else some (mkI 0x03 2 rd 2 lw)
  | 3 => if rd = 0 then none else some (mkI 0x03 3 rd 2 ld)
  | 4 =>
    if bits h 12 12 = 0 then
      if rs2 ≠ 0 then some (mkR 0x33 0 0 rd 0 rs2) else if rd = 0 then none else some (mkI 0x67 0 0 rd 0)
    else if rs2 ≠ 0 then some (mkR 0x33 0 0 rd rd rs2)
    else if rd = 0 then some 0x00100073
    else some (mkI 0x67 0 1 rd 0)
  | 5 => some (mkS 0x27 3 2 rs2 sd)
  | 6 => some (mkS 0x23 2 2 rs2 (bits h 12 9 * 4 + bits h 8 7 * 64))
  | _ => some (mkS 0x23 3 2 rs2 sd)

/-- The word a compressed instruction stands for. -/
def rvc (h : Nat) : Option Nat :=
  match h % 4 with
  | 0 => rvcQ0 h
  | 1 => rvcQ1 h
  | 2 => rvcQ2 h
  | _ => none

end Sys2Proof.Machine
end

