-- ==== Sys2Proof/Machine/RvVec.lean ====
section
/-! DEFINITION. What the vector instructions of a sequencer share: VLEN 512 and ELEN 64 (R446), the configuration, element
access, group and overlap rules, and arithmetic on one element. Tail and masked-off elements stay undisturbed, which the
vector extension allows under every setting (PRESUMED, log entry 24). -/

namespace Sys2Proof.Machine

/-- Vector registers as elements. -/
abbrev VRegs := Table Vec

/-- Element `i` of `n` bits in the group at `r`. -/
def vElem (v : VRegs) (r n i : Nat) : Nat := (tget 0 v (r + i * n / 512)).toNat / 2 ^ (i * n % 512) % 2 ^ n

/-- Write element `i` of `n` bits in the group at `r`. -/
def vPut (v : VRegs) (r n i x : Nat) : VRegs :=
  let old := vElem v r n i
  tmod 0 v (r + i * n / 512) fun w =>
    BitVec.ofNat 512 (w.toNat - old * 2 ^ (i * n % 512) + x % 2 ^ n * 2 ^ (i * n % 512))

/-- The vector configuration an instruction runs under. `lm` is the base-two logarithm of LMUL. -/
structure VCtx where
  v      : VRegs
  sew    : Nat
  lm     : Int
  vl     : Nat
  start  : Nat
  masked : Bool
  frm    : Nat
  vxrm   : Nat

/-- LMUL of a `vtype`, as a logarithm; none where reserved. -/
def lmulOf (k : Nat) : Option Int :=
  match k with
  | 0 => some 0
  | 1 => some 1
  | 2 => some 2
  | 3 => some 3
  | 5 => some (-3)
  | 6 => some (-2)
  | 7 => some (-1)
  | _ => none

/-- 2^k registers or elements for a logarithm that may be negative. -/
def scaleLog (n : Nat) (k : Int) : Nat := if k < 0 then n / 2 ^ (-k).toNat else n * 2 ^ k.toNat

/-- VLMAX of a `vtype`, or none where it is not supported. -/
def vlmaxOf (vt : Nat) : Option Nat :=
  match lmulOf (bits vt 2 0) with
  | none => none
  | some lm =>
    let sew := 8 * 2 ^ bits vt 5 3
    if vt / 256 ≠ 0 ∨ 64 < sew ∨ (lm < 0 ∧ scaleLog 64 lm < sew) then none else some (scaleLog (512 / sew) lm)

/-- The configuration of the hart; none while `vill` is set. -/
def State.vctx (s : State) (w : Nat) : Option VCtx :=
  let x := s.seq s.curSeq
  let vt := x.vtype.toNat
  match vlmaxOf vt, lmulOf (bits vt 2 0) with
  | some _, some lm => some ⟨x.v, 8 * 2 ^ bits vt 5 3, lm, x.vl.toNat, x.vstart.toNat, bits w 25 25 == 0, x.frm.toNat, x.vxrm.toNat⟩
  | _, _ => none

/-- VLMAX of the configuration. -/
def VCtx.vlmax (c : VCtx) : Nat := scaleLog (512 / c.sew) c.lm

/-- A bit of a mask register. -/
def VCtx.bit (c : VCtx) (r i : Nat) : Bool := vElem c.v r 1 i == 1

/-- Is an element active? -/
def VCtx.active (c : VCtx) (i : Nat) : Bool := decide (c.start ≤ i) && (!c.masked || c.bit 0 i)

/-- The logarithm of the group factor of elements of `n` bits. -/
def VCtx.emul (c : VCtx) (n : Nat) : Int := (Nat.log2 n : Int) - Nat.log2 c.sew + c.lm

/-- Registers of a group. -/
def groupRegs (em : Int) : Nat := scaleLog 1 (max em 0)

/-- May the group at `r` hold elements of `n` bits? -/
def VCtx.group (c : VCtx) (r n : Nat) : Bool :=
  let em := c.emul n
  decide (n ≤ 64) && decide (8 ≤ n) && decide (-3 ≤ em) && decide (em ≤ 3) && decide (r % groupRegs em = 0)

/-- May a destination of width `dn` overlap a source of width `sn` as it does? Width 1 is a mask register. -/
def VCtx.overlap (c : VCtx) (d dn r sn : Nat) : Bool :=
  let regs := fun n : Nat => if n = 1 then 1 else groupRegs (c.emul n)
  if d + regs dn ≤ r ∨ r + regs sn ≤ d ∨ dn = sn then true
  else if dn < sn then d == r
  else decide (sn = 1 ∨ 0 ≤ c.emul sn) && r + regs sn == d + regs dn

/-- Do two groups share no register? -/
def VCtx.apart (c : VCtx) (d dn r sn : Nat) : Bool :=
  let regs := fun n : Nat => if n = 1 then 1 else groupRegs (c.emul n)
  decide (d + regs dn ≤ r ∨ r + regs sn ≤ d)

/-- Does a masked instruction leave its mask alone? -/
def VCtx.maskOk (c : VCtx) (d : Nat) : Bool := !c.masked || d != 0

/-- Write every active element below `vl`. -/
def VCtx.each (c : VCtx) (d n : Nat) (f : Nat → Nat × Flags) : VRegs × Flags :=
  (List.range c.vl).foldl (fun a i =>
    if c.active i then
      let r := f i
      (vPut a.1 d n i r.1, a.2 ||| r.2)
    else a) (c.v, 0)

/-- The end of a vector instruction: its registers, its flags and `vstart` 0. -/
def State.vDone (s : State) (nx : Nat) (r : VRegs × Flags) : RvAct :=
  .go ((s.accrue r.2).modSeq s.curSeq fun x => { x with v := r.1, vstart := 0 }) nx

/-- The end of one that writes no vector register. -/
def State.vDoneX (s : State) (w nx v : Nat) : RvAct := ((s.modSeq s.curSeq fun x => { x with vstart := 0 }).rvPut w nx v)

/-- A checked elementwise instruction. -/
def VCtx.run (c : VCtx) (s : State) (nx : Nat) (ok : Bool) (d n : Nat) (f : Nat → Nat × Flags) : RvAct :=
  if ok then s.vDone nx (c.each d n f) else s.rvIllegal

/-! ## Configuration-setting -/

/-- `vsetvli`, `vsetivli` and `vsetvl`. With both registers x0 the length stays, cut at the new VLMAX. -/
def rvVset (s : State) (w nx : Nat) : RvAct :=
  let x := s.seq s.curSeq
  let rs1 := wRs1 w
  let rd := wRd w
  let avlX := if rs1 ≠ 0 then s.gx rs1 else if rd ≠ 0 then 2 ^ 64 - 1 else x.vl.toNat
  let set := fun vt avl : Nat =>
    let (vt, vl) := match vlmaxOf vt with
      | none => (2 ^ 63, 0)
      | some m => (vt, min avl m)
    (s.modSeq s.curSeq fun x => { x with vtype := BitVec.ofNat 64 vt, vl := BitVec.ofNat 64 vl, vstart := 0 }).rvPut w nx vl
  if bits w 31 31 = 0 then set (bits w 30 20) avlX
  else if bits w 30 30 = 1 then set (bits w 29 20) rs1
  else if bits w 30 25 = 0 then set (s.gx (wRs2 w)) avlX
  else s.rvIllegal

/-! ## One element -/

/-- A shift right by `d` with the fixed-point rounding mode. -/
def vRoundoff (vxrm : Nat) (v : Int) (d : Nat) : Int :=
  if d = 0 then v
  else
    let bit := fun k : Nat => (v / 2 ^ k).emod 2 == 1
    let low := fun k : Nat => v.emod (2 ^ k) != 0
    let up := match vxrm with
      | 0 => bit (d - 1)
      | 1 => bit (d - 1) && (low (d - 1) || bit d)
      | 2 => false
      | _ => !bit d && low d
    v / 2 ^ d + (if up then 1 else 0)

/-- An unsigned result clipped at its bounds. -/
def satNat (n : Nat) (v : Int) : Nat × Flags :=
  if v < 0 then (0, .sat) else if 2 ^ n ≤ v then (2 ^ n - 1, .sat) else (v.toNat, 0)

/-- The integer operations of the OPI group by function number, on `n` bits: `a` of vs2, `b` of vs1 or the scalar. -/
def vIntOp (f6 n vxrm a b : Nat) : Option (Nat × Flags) :=
  let sa := sint n a
  let sb := sint n b
  let put := fun v : Nat => some (v % 2 ^ n, (0 : Flags))
  match f6 with
  | 0x00 => put (a + b)
  | 0x02 => put (a + 2 ^ n - b)
  | 0x03 => put (b + 2 ^ n - a)
  | 0x04 => put (min a b)
  | 0x05 => put (if sa < sb then a else b)
  | 0x06 => put (max a b)
  | 0x07 => put (if sa < sb then b else a)
  | 0x09 => put (a &&& b)
  | 0x0A => put (a ||| b)
  | 0x0B => put (a ^^^ b)
  | 0x20 => some (satNat n (a + b : Nat))
  | 0x21 => some (satInt n (sa + sb))
  | 0x22 => some (satNat n ((a : Int) - b))
  | 0x23 => some (satInt n (sa - sb))
  | 0x25 => put (a * 2 ^ (b % n))
  | 0x27 => some (satInt n (vRoundoff vxrm (sa * sb) (n - 1)))
  | 0x28 => put (a / 2 ^ (b % n))
  | 0x29 => put (ofInt n (sa / 2 ^ (b % n)))
  | 0x2A => put (vRoundoff vxrm a (b % n)).toNat
  | 0x2B => put (ofInt n (vRoundoff vxrm sa (b % n)))
  | _ => none

/-- A comparison of the OPI group by function number. -/
def vCmp (f6 n a b : Nat) : Option Bool :=
  let sa := sint n a
  let sb := sint n b
  match f6 with
  | 0x18 => some (a == b)
  | 0x19 => some (a != b)
  | 0x1A => some (decide (a < b))
  | 0x1B => some (decide (sa < sb))
  | 0x1C => some (decide (a ≤ b))
  | 0x1D => some (decide (sa ≤ sb))
  | 0x1E => some (decide (b < a))
  | 0x1F => some (decide (sb < sa))
  | _ => none

/-- A narrowing shift or clip of a `2n`-bit element. -/
def vNarrow (f6 n vxrm a b : Nat) : Nat × Flags :=
  let d := b % (2 * n)
  match f6 with
  | 0x2C => (a / 2 ^ d % 2 ^ n, 0)
  | 0x2D => (ofInt n (sint (2 * n) a / 2 ^ d), 0)
  | 0x2E => satNat n (vRoundoff vxrm a d)
  | _ => satInt n (vRoundoff vxrm (sint (2 * n) a) d)

/-- The multiply, divide and averaging operations of the OPM group; `old` is the destination's element. -/
def vMulOp (f6 n vxrm a b old : Nat) : Option (Nat × Flags) :=
  let sa := sint n a
  let sb := sint n b
  let put := fun v : Nat => some (v % 2 ^ n, (0 : Flags))
  match f6 with
  | 0x08 => put (vRoundoff vxrm (a + b : Nat) 1).toNat
  | 0x09 => put (ofInt n (vRoundoff vxrm (sa + sb) 1))
  | 0x0A => put (ofInt n (vRoundoff vxrm ((a : Int) - b) 1))
  | 0x0B => put (ofInt n (vRoundoff vxrm (sa - sb) 1))
  | 0x20 => put (rvMulDiv n 5 a b)
  | 0x21 => put (rvMulDiv n 4 a b)
  | 0x22 => put (rvMulDiv n 7 a b)
  | 0x23 => put (rvMulDiv n 6 a b)
  | 0x24 => put (rvMulDiv n 3 a b)
  | 0x25 => put (a * b)
  | 0x26 => put (rvMulDiv n 2 a b)
  | 0x27 => put (rvMulDiv n 1 a b)
  | 0x29 => put (b * old + a)
  | 0x2B => put (ofInt n ((a : Int) - b * old))
  | 0x2D => put (b * a + old)
  | 0x2F => put (ofInt n ((old : Int) - b * a))
  | _ => none

/-- The widening operations of the OPM group, to `2n` bits: is vs2 already wide, and the result. -/
def vWideOp (f6 n a b old : Nat) : Option Nat :=
  let sa := sint n a
  let sb := sint n b
  let wa := sint (2 * n) a
  let put := fun v : Int => some (ofInt (2 * n) v)
  match f6 with
  | 0x30 => put ((a : Int) + b)
  | 0x31 => put (sa + sb)
  | 0x32 => put ((a : Int) - b)
  | 0x33 => put (sa - sb)
  | 0x34 => put (wa + b)
  | 0x35 => put (wa + sb)
  | 0x36 => put (wa - b)
  | 0x37 => put (wa - sb)
  | 0x38 => put ((a : Int) * b)
  | 0x3A => put (sa * b)
  | 0x3B => put (sa * sb)
  | 0x3C => put ((b : Int) * a + old)
  | 0x3D => put (sb * sa + old)
  | 0x3E => put ((b : Int) * sa + old)
  | 0x3F => put (sb * a + old)
  | _ => none

/-- A reduction step by function number 0 to 7. -/
def vRedOp (k n a b : Nat) : Nat :=
  match k with
  | 0 => (a + b) % 2 ^ n
  | 1 => a &&& b
  | 2 => a ||| b
  | 3 => a ^^^ b
  | 4 => min a b
  | 5 => if sint n a < sint n b then a else b
  | 6 => max a b
  | _ => if sint n a < sint n b then b else a

/-- A mask operation by function number. -/
def vMaskOp (f6 : Nat) (a b : Bool) : Bool :=
  match f6 with
  | 0x18 => a && !b
  | 0x19 => a && b
  | 0x1A => a || b
  | 0x1B => a != b
  | 0x1C => a || !b
  | 0x1D => !(a && b)
  | 0x1E => !(a || b)
  | _ => a == b

/-- A bit as a result. -/
def bitOut (b : Bool) : Nat × Flags := (if b then 1 else 0, 0)

/-- Convert with round towards odd. -/
def rvConvOdd (src dst : Fmt) (x : Nat) : Nat × Flags :=
  let (b, fl) := roundFmt dst .rtz (src.num x)
  (if fl &&& Flags.nx = 0 then b else b ||| 1, fl ||| snanFlag src [x])

/-- The seven-bit reciprocal table. -/
def rec7Table : List Nat :=
  [127, 125, 123, 121, 119, 117, 116, 114, 112, 110, 109, 107, 105, 104, 102, 100, 99, 97, 96, 94, 93, 91, 90, 88, 87, 85,
   84, 83, 81, 80, 79, 77, 76, 75, 74, 72, 71, 70, 69, 68, 66, 65, 64, 63, 62, 61, 60, 59, 58, 57, 56, 55, 54, 53, 52, 51,
   50, 49, 48, 47, 46, 45, 44, 43] ++
  [42, 41, 40, 40, 39, 38, 37, 36, 35, 35, 34, 33, 32, 31, 31, 30, 29, 28, 28, 27, 26, 25, 25, 24, 23, 23, 22, 21, 21, 20,
   19, 19, 18, 17, 17, 16, 15, 15, 14, 14, 13, 12, 12, 11, 11, 10, 9, 9, 8, 8, 7, 7, 6, 5, 5, 4, 4, 3, 3, 2, 2, 1, 1, 0]

/-- The seven-bit reciprocal square root table, by the exponent's last bit and six bits of the fraction. -/
def rsqrt7Table : List Nat :=
  [52, 51, 50, 48, 47, 46, 44, 43, 42, 41, 40, 39, 38, 36, 35, 34, 33, 32, 31, 30, 30, 29, 28, 27, 26, 25, 24, 23, 23, 22,
   21, 20, 19, 19, 18, 17, 16, 16, 15, 14, 14, 13, 12, 12, 11, 10, 10, 9, 9, 8, 7, 7, 6, 6, 5, 4, 4, 3, 3, 2, 2, 1, 1, 0] ++
  [127, 125, 123, 121, 119, 118, 116, 114, 113, 111, 109, 108, 106, 105, 103, 102, 100, 99, 97, 96, 95, 93, 92, 91, 90, 88,
   87, 86, 85, 84, 83, 82, 80, 79, 78, 77, 76, 75, 74, 73, 72, 71, 70, 70, 69, 68, 67, 66, 65, 64, 63, 63, 62, 61, 60, 59,
   59, 58, 57, 56, 56, 55, 54, 53]

/-- A subnormal's fraction shifted up to its leading one, and the exponent that goes with it. -/
def normalized (f : Fmt) (ex m : Nat) : Int × Nat :=
  if ex ≠ 0 then (ex, m)
  else
    let up := f.mb - Nat.log2 m
    (1 - (up : Int), m * 2 ^ up % 2 ^ f.mb)

/-- The seven-bit estimate of 1/√x. -/
def rvRsqrt7 (f : Fmt) (x : Nat) : Nat × Flags :=
  match f.num x with
  | .nan => (f.nanBits, snanFlag f [x])
  | .inf neg => if neg then (f.nanBits, .nv) else (0, 0)
  | .fin neg m _ =>
    if m = 0 then (f.sign neg + f.infBits, .dz)
    else if neg then (f.nanBits, .nv)
    else
      let (ex, fr) := normalized f (x / 2 ^ f.mb % 2 ^ f.eb) (x % 2 ^ f.mb)
      let k := (ex.emod 2).toNat * 64 + fr / 2 ^ (f.mb - 6)
      let ey := ((3 * f.bias - 1 - ex) / 2).toNat
      (ey * 2 ^ f.mb + rsqrt7Table.getD k 0 * 2 ^ (f.mb - 7), 0)

/-- The seven-bit estimate of 1/x; a result beyond the format is rounded as `rm` says. -/
def rvRec7 (f : Fmt) (rm x : Nat) : Nat × Flags :=
  match f.num x with
  | .nan => (f.nanBits, snanFlag f [x])
  | .inf neg => (f.sign neg, 0)
  | .fin neg m _ =>
    if m = 0 then (f.sign neg + f.infBits, .dz)
    else
      let (ex, fr) := normalized f (x / 2 ^ f.mb % 2 ^ f.eb) (x % 2 ^ f.mb)
      if ex < -1 then
        let toMax := rm = 1 ∨ (rm = 2 ∧ neg = false) ∨ (rm = 3 ∧ neg = true)
        (f.sign neg + (if toMax then f.infBits - 1 else f.infBits), Flags.of ||| Flags.nx)
      else
        let ey := 2 * f.bias - 1 - ex
        let sig := rec7Table.getD (fr / 2 ^ (f.mb - 7)) 0 * 2 ^ (f.mb - 7)
        if 0 < ey then (f.sign neg + ey.toNat * 2 ^ f.mb + sig, 0)
        else (f.sign neg + (2 ^ f.mb + sig) / 2 ^ (1 - ey).toNat, 0)

end Sys2Proof.Machine
end

