-- ==== Sys2Proof/Machine/RvVector.lean ====
section
/-! DEFINITION. The vector instructions of a sequencer (R446; PRESUMED, log entry 24). Encodings the vector extension reserves take
the illegal-instruction exception. -/

namespace Sys2Proof.Machine

/-! ## Loads and stores -/

/-- The user-mode loads of a vector instruction, element by element: the first fault stops them. -/
def vLoads (i : Invocation) (eew : Nat) (reg addr : Nat → Nat → Nat) : State → List (Nat × Nat) → State × Option (Nat × Nat)
  | s, [] => (s, none)
  | s, (e, f) :: es =>
    match s.rvLoad i (addr e f) (eew / 8) with
    | .error c => (s, some (e, c))
    | .ok v => vLoads i eew reg addr (s.modSeq s.curSeq fun x => { x with v := vPut x.v (reg e f) eew e v }) es

/-- The stores of a vector instruction, likewise. -/
def vStores (i : Invocation) (eew : Nat) (v : VRegs) (reg addr : Nat → Nat → Nat) : State → List (Nat × Nat) → State × Option (Nat × Nat)
  | s, [] => (s, none)
  | s, (e, f) :: es =>
    match s.rvStore i (addr e f) (eew / 8) (vElem v (reg e f) eew e) with
    | .error c => (s, some (e, c))
    | .ok s => vStores i eew v reg addr s es

/-- The end of a vector access: a fault leaves its element in `vstart`; a fault-only-first load shortens `vl` instead,
but for element 0. -/
def vAccessEnd (nx : Nat) (first : Bool) (r : State × Option (Nat × Nat)) : RvAct :=
  let s := r.1
  match r.2 with
  | none => .go (s.modSeq s.curSeq fun x => { x with vstart := 0 }) nx
  | some (e, c) =>
    if first && e != 0 then .go (s.modSeq s.curSeq fun x => { x with vl := BitVec.ofNat 64 e, vstart := 0 }) nx
    else .exc (s.modSeq s.curSeq fun x => { x with vstart := BitVec.ofNat 64 e }) c

/-- Element width of a vector access. -/
def vEew (w : Nat) : Nat := if wF3 w = 0 then 8 else 8 * 2 ^ (wF3 w - 4)

/-- Whole-register and mask accesses: `n` elements of `eew` bits, unmasked. -/
def vPlain (s : State) (i : Invocation) (w nx : Nat) (store : Bool) (eew n : Nat) : RvAct :=
  let x := s.seq s.curSeq
  let base := s.gx (wRs1 w)
  let addr := fun e _ : Nat => add64 base (e * eew / 8)
  let es := ((List.range n).filter fun e => decide (x.vstart.toNat ≤ e)).map fun e => (e, 0)
  let reg := fun _ _ : Nat => wRd w
  vAccessEnd nx false (if store then vStores i eew x.v reg addr s es else vLoads i eew reg addr s es)

/-- Vector loads and stores. -/
def rvVmem (s : State) (i : Invocation) (w nx : Nat) (store : Bool) : RvAct :=
  let mop := bits w 27 26
  let nf := bits w 31 29 + 1
  let um := wRs2 w
  let vd := wRd w
  let eew := vEew w
  let whole := mop = 0 ∧ um = 8
  if bits w 28 28 = 1 then s.rvIllegal
  else if whole then
    if bits w 25 25 = 0 ∨ ¬ (nf = 1 ∨ nf = 2 ∨ nf = 4 ∨ nf = 8) ∨ vd % nf ≠ 0 ∨ (store = true ∧ eew ≠ 8) then s.rvIllegal
    else vPlain s i w nx store eew (512 * nf / eew)
  else match s.vctx w with
    | none => s.rvIllegal
    | some c =>
      if mop = 0 ∧ um = 11 then
        if c.masked ∨ nf ≠ 1 ∨ eew ≠ 8 then s.rvIllegal else vPlain s i w nx store 8 ((c.vl + 7) / 8)
      else if mop = 0 ∧ um ≠ 0 ∧ (um ≠ 16 ∨ store = true) then s.rvIllegal
      else
        let indexed := mop % 2 = 1
        let dw := if indexed then c.sew else eew
        let regs := groupRegs (c.emul dw)
        let ok := c.group vd dw && decide (regs * nf ≤ 8) && decide (vd + regs * nf ≤ 32) && (store || c.maskOk vd) &&
          (!indexed || (c.group um eew &&
            (store || (if nf = 1 then c.overlap vd dw um eew
              else (List.range nf).all fun f => c.apart (vd + f * regs) dw um eew))))
        if !ok then s.rvIllegal
        else
          let base := s.gx (wRs1 w)
          let addr := fun e f : Nat =>
            let off := if indexed then vElem c.v um eew e
              else if mop = 2 then e * s.gx um
              else e * nf * dw / 8
            add64 base (off + f * dw / 8)
          let reg := fun _ f : Nat => vd + f * regs
          let es := ((List.range c.vl).filter c.active).flatMap fun e => (List.range nf).map fun f => (e, f)
          vAccessEnd nx (decide (mop = 0 ∧ um = 16)) (if store then vStores i dw c.v reg addr s es else vLoads i dw reg addr s es)

/-! ## Integer arithmetic (OPI) -/

/-- Operand forms the OPI group allows for a function number: vector, scalar, immediate. -/
def opiForm (f6 f3 : Nat) : Bool :=
  let vx := [0x02, 0x04, 0x05, 0x06, 0x07, 0x12, 0x13, 0x1A, 0x1B, 0x22, 0x23, 0x27]
  match f3 with
  | 0 => !([0x03, 0x0F, 0x1E, 0x1F].contains f6)
  | 4 => true
  | _ => !vx.contains f6 || f6 == 0x27

/-- Is the immediate of an OPI instruction unsigned? -/
def opiUnsigned (f6 : Nat) : Bool :=
  [0x0C, 0x0E, 0x0F, 0x25, 0x28, 0x29, 0x2A, 0x2B, 0x2C, 0x2D, 0x2E, 0x2F].contains f6

/-- OPIVV, OPIVX and OPIVI. -/
def rvOpi (s : State) (w nx : Nat) (c : VCtx) : RvAct :=
  let f6 := bits w 31 26
  let f3 := wF3 w
  let vd := wRd w
  let vs1 := wRs1 w
  let vs2 := wRs2 w
  let n := c.sew
  let vv := f3 == 0
  let x := if f3 = 4 then s.gx vs1 else if opiUnsigned f6 then vs1 else sx 5 vs1
  let b := fun e : Nat => if vv then vElem c.v vs1 n e else x % 2 ^ n
  let a := fun e : Nat => vElem c.v vs2 n e
  let srcs := c.group vs2 n && (!vv || c.group vs1 n)
  let toMask := c.overlap vd 1 vs2 n && (!vv || c.overlap vd 1 vs1 n)
  let all := { c with masked := false }
  let carry := fun e : Nat => if c.masked && c.bit 0 e then 1 else 0
  if !opiForm f6 f3 then s.rvIllegal
  else match f6 with
    | 0x0C =>
      c.run s nx (c.maskOk vd && c.group vd n && srcs && c.apart vd n vs2 n && (!vv || c.apart vd n vs1 n)) vd n fun e =>
        let k := if vv then b e else x
        (if k < c.vlmax then a k else 0, 0)
    | 0x0E =>
      if vv then
        c.run s nx (c.maskOk vd && c.group vd n && c.group vs2 n && c.group vs1 16 && c.apart vd n vs2 n && c.apart vd n vs1 16)
          vd n fun e =>
            let k := vElem c.v vs1 16 e
            (if k < c.vlmax then a k else 0, 0)
      else
        { c with start := max c.start x }.run s nx (c.maskOk vd && c.group vd n && srcs && c.apart vd n vs2 n) vd n
          fun e => (a (e - x), 0)
    | 0x0F => c.run s nx (c.maskOk vd && c.group vd n && srcs) vd n fun e => (if e + x < c.vlmax then a (e + x) else 0, 0)
    | 0x10 => all.run s nx (c.masked && vd != 0 && c.group vd n && srcs) vd n fun e => ((a e + b e + carry e) % 2 ^ n, 0)
    | 0x11 => all.run s nx (srcs && toMask) vd 1 fun e => bitOut (decide (2 ^ n ≤ a e + b e + carry e))
    | 0x12 =>
      all.run s nx (c.masked && vd != 0 && c.group vd n && srcs) vd n fun e => ((a e + 2 * 2 ^ n - b e - carry e) % 2 ^ n, 0)
    | 0x13 => all.run s nx (srcs && toMask) vd 1 fun e => bitOut (decide (a e < b e + carry e))
    | 0x17 =>
      if c.masked then all.run s nx (vd != 0 && c.group vd n && srcs) vd n fun e => (if c.bit 0 e then b e else a e, 0)
      else c.run s nx (vs2 == 0 && c.group vd n && (!vv || c.group vs1 n)) vd n fun e => (b e, 0)
    | 0x30 | 0x31 =>
      if !vv ∨ c.start ≠ 0 ∨ !c.group vs2 n ∨ 64 < 2 * n then s.rvIllegal
      else
        let ext := fun v : Nat => if f6 = 0x30 then v else ofInt (2 * n) (sint n v)
        let sum := (List.range c.vl).foldl (fun t e => if c.active e then (t + ext (a e)) % 2 ^ (2 * n) else t)
          (vElem c.v vs1 (2 * n) 0)
        s.vDone nx (if c.vl = 0 then c.v else vPut c.v vd (2 * n) 0 sum, 0)
    | 0x2C | 0x2D | 0x2E | 0x2F =>
      c.run s nx (c.maskOk vd && c.group vd n && c.group vs2 (2 * n) && (!vv || c.group vs1 n) && c.overlap vd n vs2 (2 * n)) vd n
        fun e => vNarrow f6 n c.vxrm (vElem c.v vs2 (2 * n) e) (b e)
    | _ =>
      if f6 = 0x27 ∧ f3 = 3 then
        let k := vs1 + 1
        if c.masked ∨ ¬ (k = 1 ∨ k = 2 ∨ k = 4 ∨ k = 8) ∨ vd % k ≠ 0 ∨ vs2 % k ≠ 0 then s.rvIllegal
        else
          let whole := { c with vl := 512 * k / n }
          s.vDone nx (whole.each vd n fun e => (a e, 0))
      else if (vCmp f6 n 0 0).isSome then
        c.run s nx (srcs && toMask) vd 1 fun e => bitOut ((vCmp f6 n (a e) (b e)).getD false)
      else if (vIntOp f6 n c.vxrm 0 0).isSome then
        c.run s nx (c.maskOk vd && c.group vd n && srcs) vd n fun e => (vIntOp f6 n c.vxrm (a e) (b e)).getD (0, 0)
      else s.rvIllegal

/-! ## Multiplication, reductions and masks (OPM) -/

/-- `vmsbf`, `vmsof` and `vmsif`: is element `e` set, given the first set bit of the source, if any? -/
def firstMask (k e : Nat) (first : Option Nat) : Bool :=
  match first with
  | none => k != 2
  | some p =>
    match k with
    | 1 => decide (e < p)
    | 2 => e == p
    | _ => decide (e ≤ p)

/-- OPMVV and OPMVX. -/
def rvOpm (s : State) (w nx : Nat) (c : VCtx) : RvAct :=
  let f6 := bits w 31 26
  let vd := wRd w
  let vs1 := wRs1 w
  let vs2 := wRs2 w
  let n := c.sew
  let vv := wF3 w == 2
  let x := s.gx vs1
  let b := fun e : Nat => if vv then vElem c.v vs1 n e else x % 2 ^ n
  let a := fun e : Nat => vElem c.v vs2 n e
  let old := fun m e : Nat => vElem c.v vd m e
  let srcs := c.group vs2 n && (!vv || c.group vs1 n)
  let plain := c.maskOk vd && c.group vd n && srcs
  let set := (List.range c.vl).filter fun e => c.active e && c.bit vs2 e
  if f6 < 8 then
    if !vv ∨ c.start ≠ 0 ∨ !c.group vs2 n then s.rvIllegal
    else
      let r := (List.range c.vl).foldl (fun t e => if c.active e then vRedOp f6 n t (a e) else t) (vElem c.v vs1 n 0)
      s.vDone nx (if c.vl = 0 then c.v else vPut c.v vd n 0 r, 0)
  else match f6 with
    | 0x0E =>
      c.run s nx (!vv && c.maskOk vd && c.group vd n && c.group vs2 n && c.apart vd n vs2 n) vd n fun e =>
        (if e = 0 then x % 2 ^ n else a (e - 1), 0)
    | 0x0F =>
      c.run s nx (!vv && c.maskOk vd && c.group vd n && c.group vs2 n) vd n fun e =>
        (if e + 1 = c.vl then x % 2 ^ n else a (e + 1), 0)
    | 0x10 =>
      if vv then
        match vs1 with
        | 0x00 => if c.masked then s.rvIllegal else s.vDoneX w nx (sx n (a 0))
        | 0x10 => if c.start ≠ 0 then s.rvIllegal else s.vDoneX w nx set.length
        | 0x11 => if c.start ≠ 0 then s.rvIllegal else s.vDoneX w nx (set.headD (2 ^ 64 - 1))
        | _ => s.rvIllegal
      else if vs2 ≠ 0 ∨ c.masked then s.rvIllegal
      else s.vDone nx (if c.start < c.vl then vPut c.v vd n 0 x else c.v, 0)
    | 0x12 =>
      let k := 2 ^ (4 - vs1 / 2)
      if !vv ∨ vs1 < 2 ∨ 7 < vs1 ∨ n / k < 8 then s.rvIllegal
      else
        let m := n / k
        c.run s nx (c.maskOk vd && c.group vd n && c.group vs2 m && c.overlap vd n vs2 m) vd n fun e =>
          let v := vElem c.v vs2 m e
          (if vs1 % 2 = 1 then ofInt n (sint m v) else v, 0)
    | 0x14 =>
      match vs1 with
      | 0x01 | 0x02 | 0x03 =>
        c.run s nx (vv && c.start == 0 && c.maskOk vd && vd != vs2) vd 1 fun e => bitOut (firstMask vs1 e set.head?)
      | 0x10 =>
        c.run s nx (vv && c.start == 0 && c.maskOk vd && c.group vd n && c.apart vd n vs2 1) vd n fun e =>
          ((set.filter fun p => decide (p < e)).length, 0)
      | 0x11 => c.run s nx (vv && vs2 == 0 && c.maskOk vd && c.group vd n) vd n fun e => (e, 0)
      | _ => s.rvIllegal
    | 0x17 =>
      if !vv ∨ c.masked ∨ c.start ≠ 0 ∨ !(c.group vd n && c.group vs2 n && c.apart vd n vs2 n && c.apart vd n vs1 1) then s.rvIllegal
      else
        let kept := (List.range c.vl).filter fun e => c.bit vs1 e
        let short := { c with vl := kept.length }
        s.vDone nx (short.each vd n fun e => (a (kept.getD e 0), 0))
    | 0x18 | 0x19 | 0x1A | 0x1B | 0x1C | 0x1D | 0x1E | 0x1F =>
      c.run s nx (vv && !c.masked) vd 1 fun e => bitOut (vMaskOp f6 (c.bit vs2 e) (c.bit vs1 e))
    | _ =>
      if (vMulOp f6 n 0 0 0 0).isSome then c.run s nx plain vd n fun e => (vMulOp f6 n c.vxrm (a e) (b e) (old n e)).getD (0, 0)
      else if (vWideOp f6 n 0 0 0).isNone ∨ (f6 = 0x3E ∧ vv) then s.rvIllegal
      else
        let wide := decide (0x34 ≤ f6 ∧ f6 ≤ 0x37)
        let an := if wide then 2 * n else n
        c.run s nx (c.maskOk vd && c.group vd (2 * n) && c.group vs2 an && (!vv || c.group vs1 n) &&
            c.overlap vd (2 * n) vs2 an && (!vv || c.overlap vd (2 * n) vs1 n)) vd (2 * n) fun e =>
          ((vWideOp f6 n (vElem c.v vs2 an e) (b e) (old (2 * n) e)).getD 0, 0)

/-! ## Floating point (OPF) -/

/-- A format of so many bits. -/
def fmtOf (n : Nat) : Option Fmt :=
  match n with
  | 32 => some .f32
  | 64 => some .f64
  | _ => none

/-- The floating-point operations by function number, in one format: `a` of vs2, `b` of vs1 or the scalar. -/
def vFpOp (f6 : Nat) (f : Fmt) (rm a b old : Nat) : Option (Nat × Flags) :=
  match f6 with
  | 0x00 => some (rvAdd f rm a b)
  | 0x02 => some (rvSub f rm a b)
  | 0x04 => some (rvMinMax f false a b)
  | 0x06 => some (rvMinMax f true a b)
  | 0x08 => some (rvSgnj f 0 a b, 0)
  | 0x09 => some (rvSgnj f 1 a b, 0)
  | 0x0A => some (rvSgnj f 2 a b, 0)
  | 0x20 => some (rvDiv f rm a b)
  | 0x21 => some (rvDiv f rm b a)
  | 0x24 => some (rvMul f rm a b)
  | 0x27 => some (rvSub f rm b a)
  | 0x28 => some (rvFma f rm false false b old a)
  | 0x29 => some (rvFma f rm true true b old a)
  | 0x2A => some (rvFma f rm false true b old a)
  | 0x2B => some (rvFma f rm true false b old a)
  | 0x2C => some (rvFma f rm false false b a old)
  | 0x2D => some (rvFma f rm true true b a old)
  | 0x2E => some (rvFma f rm false true b a old)
  | 0x2F => some (rvFma f rm true false b a old)
  | _ => none

/-- A floating-point comparison by function number. -/
def vFpCmp (f6 : Nat) (f : Fmt) (a b : Nat) : Option (Bool × Flags) :=
  match f6 with
  | 0x18 => some (rvEq f a b)
  | 0x19 => some (rvLe f a b)
  | 0x1B => some (rvLt f a b)
  | 0x1C => let r := rvEq f a b; some (!r.1, r.2)
  | 0x1D => some (rvLt f b a)
  | 0x1F => some (rvLe f b a)
  | _ => none

/-- Function numbers that only a scalar operand has. -/
def opfScalarOnly (f6 : Nat) : Bool := [0x0E, 0x0F, 0x17, 0x1D, 0x1F, 0x21, 0x27].contains f6
/-- Function numbers that only a vector operand has. -/
def opfVectorOnly (f6 : Nat) : Bool := [0x01, 0x03, 0x05, 0x07, 0x12, 0x13, 0x31, 0x33].contains f6

/-- The conversions of VFUNARY0: the source and destination widths and the conversion, for `n` bits. -/
def vFcvt (k n rm : Nat) : Option (Nat × Nat × (Nat → Nat × Flags)) :=
  let toInt := fun (sw dw : Nat) (sgn : Bool) (rm : Nat) =>
    (fmtOf sw).map fun f => (sw, dw, fun x : Nat => rvToInt f dw sgn rm x)
  let ofInt := fun (sw dw : Nat) (sgn : Bool) => (fmtOf dw).map fun f => (sw, dw, fun x : Nat => rvOfInt f sw sgn rm x)
  let conv := fun (sw dw : Nat) => match fmtOf sw, fmtOf dw with
    | some f, some g => some (sw, dw, fun x : Nat => rvConv f g rm x)
    | _, _ => none
  match k with
  | 0x00 => toInt n n false rm
  | 0x01 => toInt n n true rm
  | 0x02 => ofInt n n false
  | 0x03 => ofInt n n true
  | 0x06 => toInt n n false 1
  | 0x07 => toInt n n true 1
  | 0x08 => toInt n (2 * n) false rm
  | 0x09 => toInt n (2 * n) true rm
  | 0x0A => ofInt n (2 * n) false
  | 0x0B => ofInt n (2 * n) true
  | 0x0C => conv n (2 * n)
  | 0x0E => toInt n (2 * n) false 1
  | 0x0F => toInt n (2 * n) true 1
  | 0x10 => toInt (2 * n) n false rm
  | 0x11 => toInt (2 * n) n true rm
  | 0x12 => ofInt (2 * n) n false
  | 0x13 => ofInt (2 * n) n true
  | 0x14 => conv (2 * n) n
  | 0x15 => if n = 32 then some (64, 32, rvConvOdd .f64 .f32) else none
  | 0x16 => toInt (2 * n) n false 1
  | 0x17 => toInt (2 * n) n true 1
  | _ => none

/-- A reduction in element order by the operation `g`. -/
def vFpReduce (c : VCtx) (a : Nat → Nat) (g : Nat → Nat → Nat × Flags) (init : Nat) : Nat × Flags :=
  (List.range c.vl).foldl (fun t e =>
    if c.active e then
      let r := g t.1 (a e)
      (r.1, t.2 ||| r.2)
    else t) (init, 0)

/-- OPFVV and OPFVF. -/
def rvOpf (s : State) (w nx : Nat) (c : VCtx) : RvAct :=
  let f6 := bits w 31 26
  let vd := wRd w
  let vs1 := wRs1 w
  let vs2 := wRs2 w
  let n := c.sew
  let vv := wF3 w == 1
  let a := fun e : Nat => vElem c.v vs2 n e
  if 4 < c.frm ∨ (if vv then opfScalarOnly f6 else opfVectorOnly f6) then s.rvIllegal
  else if f6 = 0x12 then
    match vFcvt vs1 n c.frm with
    | none => s.rvIllegal
    | some (sw, dw, g) =>
      c.run s nx (c.maskOk vd && c.group vd dw && c.group vs2 sw && c.overlap vd dw vs2 sw) vd dw fun e => g (vElem c.v vs2 sw e)
  else match fmtOf n with
    | none => s.rvIllegal
    | some f =>
      let x := s.fval f vs1
      let b := fun e : Nat => if vv then vElem c.v vs1 n e else x
      let srcs := c.group vs2 n && (!vv || c.group vs1 n)
      let plain := c.maskOk vd && c.group vd n && srcs
      let toMask := c.overlap vd 1 vs2 n && (!vv || c.overlap vd 1 vs1 n)
      let put0 := fun (m : Nat) (r : Nat × Flags) => s.vDone nx (if c.vl = 0 then c.v else vPut c.v vd m 0 r.1, r.2)
      match f6 with
      | 0x01 | 0x03 | 0x05 | 0x07 =>
        if c.start ≠ 0 ∨ !c.group vs2 n then s.rvIllegal
        else
          let g := fun t v : Nat => match f6 with
            | 0x05 => rvMinMax f false t v
            | 0x07 => rvMinMax f true t v
            | _ => rvAdd f c.frm t v
          put0 n (vFpReduce c a g (vElem c.v vs1 n 0))
      | 0x0E =>
        c.run s nx (c.maskOk vd && c.group vd n && c.group vs2 n && c.apart vd n vs2 n) vd n fun e =>
          (if e = 0 then x else a (e - 1), 0)
      | 0x0F =>
        c.run s nx (c.maskOk vd && c.group vd n && c.group vs2 n) vd n fun e => (if e + 1 = c.vl then x else a (e + 1), 0)
      | 0x10 =>
        if c.masked then s.rvIllegal
        else if vv then
          if vs1 ≠ 0 then s.rvIllegal
          else .go ((s.modSeq s.curSeq fun x => { x with vstart := 0 }).setGf f vd (a 0)) nx
        else if vs2 ≠ 0 then s.rvIllegal
        else s.vDone nx (if c.start < c.vl then vPut c.v vd n 0 x else c.v, 0)
      | 0x13 =>
        let one := fun g : Nat → Nat × Flags => c.run s nx (c.maskOk vd && c.group vd n && c.group vs2 n) vd n fun e => g (a e)
        match vs1 with
        | 0x00 => one (rvSqrt f c.frm)
        | 0x04 => one (rvRsqrt7 f)
        | 0x05 => one (rvRec7 f c.frm)
        | 0x10 => one fun v => (rvClass f v, 0)
        | _ => s.rvIllegal
      | 0x17 =>
        if c.masked then
          { c with masked := false }.run s nx (vd != 0 && c.group vd n && c.group vs2 n) vd n fun e =>
            (if c.bit 0 e then x else a e, 0)
        else c.run s nx (vs2 == 0 && c.group vd n) vd n fun _ => (x, 0)
      | 0x31 | 0x33 =>
        if c.start ≠ 0 ∨ n ≠ 32 ∨ !c.group vs2 n then s.rvIllegal
        else put0 64 (vFpReduce c a (fun t v =>
          let v := rvConv .f32 .f64 c.frm v
          let r := rvAdd .f64 c.frm t v.1
          (r.1, r.2 ||| v.2)) (vElem c.v vs1 64 0))
      | 0x30 | 0x32 | 0x34 | 0x36 | 0x38 | 0x3C | 0x3D | 0x3E | 0x3F =>
        if n ≠ 32 then s.rvIllegal
        else
          let an := if f6 = 0x34 ∨ f6 = 0x36 then 64 else 32
          let up := fun v : Nat => rvConv .f32 .f64 c.frm v
          let op := match f6 with
            | 0x30 | 0x34 => 0x00
            | 0x32 | 0x36 => 0x02
            | 0x38 => 0x24
            | _ => f6 - 0x10
          c.run s nx (c.maskOk vd && c.group vd 64 && c.group vs2 an && (!vv || c.group vs1 32) && c.overlap vd 64 vs2 an &&
              (!vv || c.overlap vd 64 vs1 32)) vd 64 fun e =>
            let p := if an = 64 then (vElem c.v vs2 64 e, (0 : Flags)) else up (a e)
            let q := up (b e)
            let r := (vFpOp op .f64 c.frm p.1 q.1 (vElem c.v vd 64 e)).getD (0, 0)
            (r.1, r.2 ||| p.2 ||| q.2)
      | _ =>
        if (vFpCmp f6 f 0 0).isSome then c.run s nx (srcs && toMask) vd 1 fun e =>
          let r := (vFpCmp f6 f (a e) (b e)).getD (false, 0)
          (if r.1 then 1 else 0, r.2)
        else if (vFpOp f6 f 0 0 0 0).isSome then
          c.run s nx plain vd n fun e => (vFpOp f6 f c.frm (a e) (b e) (vElem c.v vd n e)).getD (0, 0)
        else s.rvIllegal

/-- OP-V. -/
def rvOpv (s : State) (w nx : Nat) : RvAct :=
  if wF3 w = 7 then rvVset s w nx
  else match s.vctx w with
    | none => s.rvIllegal
    | some c =>
      match wF3 w with
      | 0 | 3 | 4 => rvOpi s w nx c
      | 1 | 5 => rvOpf s w nx c
      | _ => rvOpm s w nx c

end Sys2Proof.Machine
end

