-- ==== Sys2Proof/Machine/Rv64.lean ====
section
/-! DEFINITION. The RISC-V instruction of a sequencer's hart (R446, R447). -/

namespace Sys2Proof.Machine

/-- An instruction word of 32 bits: an opcode no extension of R446 defines is illegal. -/
def rvWord (s : State) (i : Invocation) (w pc nx : Nat) : RvAct :=
  match w % 128 with
  | 0x03 => rvLoadOp s i w nx
  | 0x07 => if wF3 w = 2 ∨ wF3 w = 3 then rvFload s i w nx else if wF3 w = 1 ∨ wF3 w = 4 then s.rvIllegal else rvVmem s i w nx false
  | 0x0F => if wF3 w ≤ 1 then .go s nx else s.rvIllegal
  | 0x13 => rvOpImm s w nx
  | 0x17 => s.rvPut w nx (add64 pc (immU w))
  | 0x1B => rvOpImm32 s w nx
  | 0x23 => rvStoreOp s i w nx
  | 0x27 => if wF3 w = 2 ∨ wF3 w = 3 then rvFstore s i w nx else if wF3 w = 1 ∨ wF3 w = 4 then s.rvIllegal else rvVmem s i w nx true
  | 0x2F => rvAtomic s i w nx
  | 0x33 => rvOp s w nx
  | 0x37 => s.rvPut w nx (immU w)
  | 0x3B => rvOp32 s w nx
  | 0x43 | 0x47 | 0x4B | 0x4F => rvFmadd s w nx
  | 0x53 => rvOpFp s w nx
  | 0x57 => rvOpv s w nx
  | 0x63 => rvBranch s w pc nx
  | 0x67 => rvJalr s w nx
  | 0x6F => .go (s.setGx (wRd w) nx) (add64 pc (immJ w))
  | 0x73 => rvSystem s w nx
  | _ => s.rvIllegal

/-- SEQUENCER_RV64_INSTRUCTION (R446): one instruction of tack code that is no tack instruction; `bits` is its word, and a
compressed instruction stands in the low half. An exception ends the invocation (R466). -/
def execSequencerRv64Instruction (bits : BitVec 32) (s : State) : Ans :=
  rvRun s fun i =>
    let pc := (s.seq s.curSeq).pc.toNat
    let w := bits.toNat
    if w % 4 = 3 then rvWord s i w pc (add64 pc 4)
    else match rvc (w % 2 ^ 16) with
      | none => s.rvIllegal
      | some w => rvWord s i w pc (add64 pc 2)

end Sys2Proof.Machine
end

