-- ==== Sys2Proof/Machine/Scalar.lean ====
section
/-! DEFINITION. Scalar arithmetic and bit manipulation: the majors OPR, ADDI to SLTI, SHI, LHI and ADDPC (R155-R164). -/

namespace Sys2Proof.Machine

/-- A scalar instruction that writes `v` to register d (R155). -/
def scalar (s : State) (i : Instr) (p : PredNo) (d : RegNo) (uses : List RegNo) (v : State → Word) : Ans :=
  issue s ⟨i, p, false, false, .issue, uses.map fun r => .s r.toNat, [.s d.toNat]⟩ fun s => .retire (s.setS d (v s))

/-- A two-operand register instruction. -/
def binary (s : State) (i : Instr) (p : PredNo) (d a b : RegNo) (f : Word → Word → Word) : Ans :=
  scalar s i p d [a, b] fun s => f (s.sv a) (s.sv b)

/-- A one-operand register instruction. -/
def unary (s : State) (i : Instr) (p : PredNo) (d a : RegNo) (f : Word → Word) : Ans :=
  scalar s i p d [a] fun s => f (s.sv a)

/-- An immediate instruction; it has no predicate (R162). -/
def immediate (s : State) (i : Instr) (d a : RegNo) (f : Word → Word) : Ans :=
  scalar s i 0 d [a] fun s => f (s.sv a)

/-- The .d form of an operation, or its .w form sign-extended (R159). -/
def wide (w : Bool) (f : (n : Nat) → BitVec n → BitVec n → BitVec n) (x y : Word) : Word :=
  if w then sextWord (f 32 (lowWord x) (lowWord y)) else f 64 x y

/-- One if the condition holds, else zero. -/
def flagBit (n : Nat) (b : Bool) : BitVec n := if b then BitVec.ofNat n 1 else BitVec.ofNat n 0

/-- Number of one bits among the `k` low bits. -/
def ones (x : Nat) : Nat → Nat
  | 0 => 0
  | k + 1 => x / 2 ^ k % 2 + ones x k

/-- Number of zero bits below the lowest one of the `k` bits from bit `i` on; `i + k` if there is none. -/
def lowestFrom (x i : Nat) : Nat → Nat
  | 0 => i
  | k + 1 => if x / 2 ^ i % 2 = 1 then i else lowestFrom x (i + 1) k

/-- The `k` low bits reversed. -/
def reverseBits (x : Nat) : Nat → Nat
  | 0 => 0
  | k + 1 => x / 2 ^ k % 2 + 2 * reverseBits x k

/-- The `k` low bytes reversed. -/
def reverseBytes (x : Nat) : Nat → Nat
  | 0 => 0
  | k + 1 => x / 256 ^ k % 256 + 256 * reverseBytes x k

/-- `shl` (R158). -/
def shlOp (n : Nat) (x y : BitVec n) : BitVec n := x <<< (y.toNat % n)
/-- `shr` (R158). -/
def shrOp (n : Nat) (x y : BitVec n) : BitVec n := x >>> (y.toNat % n)
/-- `sar` (R158). -/
def sarOp (n : Nat) (x y : BitVec n) : BitVec n := x.sshiftRight (y.toNat % n)
/-- `rol` (R158). -/
def rolOp (n : Nat) (x y : BitVec n) : BitVec n := x.rotateLeft (y.toNat % n)
/-- `ror` (R158). -/
def rorOp (n : Nat) (x y : BitVec n) : BitVec n := x.rotateRight (y.toNat % n)
/-- `clz` (R158). -/
def clzOp (n : Nat) (x : BitVec n) : BitVec n := BitVec.ofNat n (if x.toNat = 0 then n else n - 1 - Nat.log2 x.toNat)
/-- `ctz` (R158). -/
def ctzOp (n : Nat) (x : BitVec n) : BitVec n := BitVec.ofNat n (lowestFrom x.toNat 0 n)
/-- `popc` (R158). -/
def popcOp (n : Nat) (x : BitVec n) : BitVec n := BitVec.ofNat n (ones x.toNat n)

/-- `div` (R160). -/
def divOp (x y : Word) : Word := if y = 0 then BitVec.allOnes 64 else x.sdiv y
/-- `divu` (R160). -/
def divuOp (x y : Word) : Word := if y = 0 then BitVec.allOnes 64 else x / y
/-- `rem` (R160). -/
def remOp (x y : Word) : Word := if y = 0 then x else x.srem y
/-- `remu` (R160). -/
def remuOp (x y : Word) : Word := if y = 0 then x else x % y
/-- `mulh` (R158). -/
def mulhOp (x y : Word) : Word := BitVec.ofInt 64 (x.toInt * y.toInt / 2 ^ 64)
/-- `mulhu` (R158). -/
def mulhuOp (x y : Word) : Word := BitVec.ofNat 64 (x.toNat * y.toNat / 2 ^ 64)

/-- Position and width of a field descriptor (R161). -/
def fieldOf (b : Word) : Nat × Nat := (b.toNat % 64, b.toNat / 256 % 64 + 1)
/-- `bfx` (R161). -/
def bfxOp (a b : Word) : Word := BitVec.ofNat 64 (a.toNat / 2 ^ (fieldOf b).1 % 2 ^ (fieldOf b).2)
/-- `bfi` (R161): `d` is the old destination. -/
def bfiOp (d a b : Word) : Word :=
  let m := BitVec.ofNat 64 ((2 ^ (fieldOf b).2 - 1) * 2 ^ (fieldOf b).1)
  (d &&& ~~~m) ||| (a <<< (fieldOf b).1 &&& m)


/-- `add` (R158, R159). -/
def execAdd (w : Bool) (p : PredNo) (d a b : RegNo) (s : State) : Ans :=
  binary s (.add w p d a b) p d a b (wide w (fun _ x y => x + y))

/-- `sub` (R158, R159). -/
def execSub (w : Bool) (p : PredNo) (d a b : RegNo) (s : State) : Ans :=
  binary s (.sub w p d a b) p d a b (wide w (fun _ x y => x - y))

/-- `and` (R158, R159). -/
def execAnd (w : Bool) (p : PredNo) (d a b : RegNo) (s : State) : Ans :=
  binary s (.and w p d a b) p d a b (wide w (fun _ x y => x &&& y))

/-- `or` (R158, R159). -/
def execOr (w : Bool) (p : PredNo) (d a b : RegNo) (s : State) : Ans :=
  binary s (.or w p d a b) p d a b (wide w (fun _ x y => x ||| y))

/-- `xor` (R158, R159). -/
def execXor (w : Bool) (p : PredNo) (d a b : RegNo) (s : State) : Ans :=
  binary s (.xor w p d a b) p d a b (wide w (fun _ x y => x ^^^ y))

/-- `shl` (R158, R159). -/
def execShl (w : Bool) (p : PredNo) (d a b : RegNo) (s : State) : Ans :=
  binary s (.shl w p d a b) p d a b (wide w shlOp)

/-- `shr` (R158, R159). -/
def execShr (w : Bool) (p : PredNo) (d a b : RegNo) (s : State) : Ans :=
  binary s (.shr w p d a b) p d a b (wide w shrOp)

/-- `sar` (R158, R159). -/
def execSar (w : Bool) (p : PredNo) (d a b : RegNo) (s : State) : Ans :=
  binary s (.sar w p d a b) p d a b (wide w sarOp)

/-- `slt` (R158, R159). -/
def execSlt (w : Bool) (p : PredNo) (d a b : RegNo) (s : State) : Ans :=
  binary s (.slt w p d a b) p d a b (wide w (fun n x y => flagBit n (x.slt y)))

/-- `sltu` (R158, R159). -/
def execSltu (w : Bool) (p : PredNo) (d a b : RegNo) (s : State) : Ans :=
  binary s (.sltu w p d a b) p d a b (wide w (fun n x y => flagBit n (x.ult y)))

/-- `mul` (R158). -/
def execMul (p : PredNo) (d a b : RegNo) (s : State) : Ans :=
  binary s (.mul p d a b) p d a b (· * ·)

/-- `mulh` (R158). -/
def execMulh (p : PredNo) (d a b : RegNo) (s : State) : Ans :=
  binary s (.mulh p d a b) p d a b mulhOp

/-- `mulhu` (R158). -/
def execMulhu (p : PredNo) (d a b : RegNo) (s : State) : Ans :=
  binary s (.mulhu p d a b) p d a b mulhuOp

/-- `div` (R160). -/
def execDiv (p : PredNo) (d a b : RegNo) (s : State) : Ans :=
  binary s (.div p d a b) p d a b divOp

/-- `divu` (R160). -/
def execDivu (p : PredNo) (d a b : RegNo) (s : State) : Ans :=
  binary s (.divu p d a b) p d a b divuOp

/-- `rem` (R160). -/
def execRem (p : PredNo) (d a b : RegNo) (s : State) : Ans :=
  binary s (.rem p d a b) p d a b remOp

/-- `remu` (R160). -/
def execRemu (p : PredNo) (d a b : RegNo) (s : State) : Ans :=
  binary s (.remu p d a b) p d a b remuOp

/-- `min` (R158). -/
def execMin (p : PredNo) (d a b : RegNo) (s : State) : Ans :=
  binary s (.min p d a b) p d a b (fun x y => if x.slt y then x else y)

/-- `max` (R158). -/
def execMax (p : PredNo) (d a b : RegNo) (s : State) : Ans :=
  binary s (.max p d a b) p d a b (fun x y => if x.slt y then y else x)

/-- `minu` (R158). -/
def execMinu (p : PredNo) (d a b : RegNo) (s : State) : Ans :=
  binary s (.minu p d a b) p d a b (fun x y => if x < y then x else y)

/-- `maxu` (R158). -/
def execMaxu (p : PredNo) (d a b : RegNo) (s : State) : Ans :=
  binary s (.maxu p d a b) p d a b (fun x y => if x < y then y else x)

/-- `popc` (R158, R159). -/
def execPopc (w : Bool) (p : PredNo) (d a : RegNo) (s : State) : Ans :=
  unary s (.popc w p d a) p d a fun x => wide w (fun n y _ => popcOp n y) x x

/-- `clz` (R158, R159). -/
def execClz (w : Bool) (p : PredNo) (d a : RegNo) (s : State) : Ans :=
  unary s (.clz w p d a) p d a fun x => wide w (fun n y _ => clzOp n y) x x

/-- `ctz` (R158, R159). -/
def execCtz (w : Bool) (p : PredNo) (d a : RegNo) (s : State) : Ans :=
  unary s (.ctz w p d a) p d a fun x => wide w (fun n y _ => ctzOp n y) x x

/-- `brev` (R158). -/
def execBrev (p : PredNo) (d a : RegNo) (s : State) : Ans :=
  unary s (.brev p d a) p d a fun x => BitVec.ofNat 64 (reverseBits x.toNat 64)

/-- `bfx` (R161). -/
def execBfx (p : PredNo) (d a b : RegNo) (s : State) : Ans := binary s (.bfx p d a b) p d a b bfxOp

/-- `bfi` reads d as well (R161). -/
def execBfi (p : PredNo) (d a b : RegNo) (s : State) : Ans :=
  scalar s (.bfi p d a b) p d [a, b, d] fun s => bfiOp (s.sv d) (s.sv a) (s.sv b)

/-- `andn` (R158). -/
def execAndn (p : PredNo) (d a b : RegNo) (s : State) : Ans := binary s (.andn p d a b) p d a b fun x y => x &&& ~~~y

/-- `orn` (R158). -/
def execOrn (p : PredNo) (d a b : RegNo) (s : State) : Ans := binary s (.orn p d a b) p d a b fun x y => x ||| ~~~y

/-- `rol` (R158, R159). -/
def execRol (w : Bool) (p : PredNo) (d a b : RegNo) (s : State) : Ans :=
  binary s (.rol w p d a b) p d a b (wide w rolOp)

/-- `ror` (R158, R159). -/
def execRor (w : Bool) (p : PredNo) (d a b : RegNo) (s : State) : Ans :=
  binary s (.ror w p d a b) p d a b (wide w rorOp)

/-- `bswap` (R158). -/
def execBswap (p : PredNo) (d a : RegNo) (s : State) : Ans :=
  unary s (.bswap p d a) p d a fun x => BitVec.ofNat 64 (reverseBytes x.toNat 8)

/-- `addi` (R162). -/
def execAddi (d a : RegNo) (imm : BitVec 16) (s : State) : Ans := immediate s (.addi d a imm) d a (· + sext16 imm)

/-- `andi` (R162). -/
def execAndi (d a : RegNo) (imm : BitVec 16) (s : State) : Ans := immediate s (.andi d a imm) d a (· &&& sext16 imm)

/-- `ori` (R162). -/
def execOri (d a : RegNo) (imm : BitVec 16) (s : State) : Ans := immediate s (.ori d a imm) d a (· ||| zext16 imm)

/-- `xori` (R162). -/
def execXori (d a : RegNo) (imm : BitVec 16) (s : State) : Ans := immediate s (.xori d a imm) d a (· ^^^ zext16 imm)

/-- `slti` (R162). -/
def execSlti (d a : RegNo) (imm : BitVec 16) (s : State) : Ans :=
  immediate s (.slti d a imm) d a fun x => ofBool (x.slt (sext16 imm))

/-- A shift by an immediate (R163). -/
def shiftImm (s : State) (i : Instr) (w : Bool) (amt : BitVec 6) (d a : RegNo)
    (f : (n : Nat) → BitVec n → BitVec n → BitVec n) : Ans :=
  immediate s i d a fun x => wide w f x (amt.setWidth 64)

/-- `shli` (R163). -/
def execShli (w : Bool) (amt : BitVec 6) (d a : RegNo) (s : State) : Ans := shiftImm s (.shli w amt d a) w amt d a shlOp

/-- `shri` (R163). -/
def execShri (w : Bool) (amt : BitVec 6) (d a : RegNo) (s : State) : Ans := shiftImm s (.shri w amt d a) w amt d a shrOp

/-- `sari` (R163). -/
def execSari (w : Bool) (amt : BitVec 6) (d a : RegNo) (s : State) : Ans := shiftImm s (.sari w amt d a) w amt d a sarOp

/-- `rori` (R163). -/
def execRori (w : Bool) (amt : BitVec 6) (d a : RegNo) (s : State) : Ans := shiftImm s (.rori w amt d a) w amt d a rorOp

/-- `lhi` (R164). -/
def execLhi (d : RegNo) (imm : BitVec 21) (s : State) : Ans :=
  scalar s (.lhi d imm) 0 d [] fun _ => sext21 imm <<< 16

/-- `addpc` (R164). -/
def execAddpc (d : RegNo) (imm : BitVec 21) (s : State) : Ans :=
  scalar s (.addpc d imm) 0 d [] fun s => s.th.pc + sext21 imm

end Sys2Proof.Machine
end

