-- ==== Sys2Proof/Machine/Vector.lean ====
section
/-! DEFINITION. Vector lanes: the majors VOP and VFMA (R174-R186) and the 16-bit lane forms (R133). -/

namespace Sys2Proof.Machine

/-- A vector instruction that writes vector register d, lane by lane under p (R175, R176): `f` answers lane i. A pending
source is waited for and a poisoned one traps though every lane is off (DESIGN CHOICE, log entry 29). -/
def vector (s : State) (i : Instr) (p : PredNo) (w : Nat) (d : Nat) (uses : List Nat)
    (f : Thread → Nat → Nat × Flags) : Ans :=
  issue s ⟨i, 0, false, false, .issue, (uses ++ [d]).map .v, []⟩ fun s =>
    let t := s.th
    let (v, fl) := lanes w (t.pred p.toNat) (t.vreg d).val (f t)
    .retire (s.modTh fun t => (t.setV d v).flag fl)

/-- A lane of a vector register of a thread. -/
def Thread.lane (t : Thread) (w r i : Nat) : Nat := Machine.lane w (t.vreg r).val i

/-- A two-operand lane operation. -/
def vbinary (s : State) (i : Instr) (p : PredNo) (ty : VType) (d a b : Nat) (f : Nat → Nat → Nat × Flags) : Ans :=
  vector s i p ty.bytes d [a, b] fun t k => f (t.lane ty.bytes a k) (t.lane ty.bytes b k)

/-- A one-operand lane operation. -/
def vunary (s : State) (i : Instr) (p : PredNo) (ty : VType) (d a : Nat) (f : Nat → Nat × Flags) : Ans :=
  vector s i p ty.bytes d [a] fun t k => f (t.lane ty.bytes a k)

/-- A bitwise operation, its predicate per byte lane (R183). -/
def vbitwise (s : State) (i : Instr) (p : PredNo) (d a b : Nat) (f : Nat → Nat → Nat) : Ans :=
  vector s i p 1 d [a, b] fun t k => (f (t.lane 1 a k) (t.lane 1 b k), 0)

/-- A copy, its predicate per byte lane (R183). -/
def vcopy (s : State) (i : Instr) (p : PredNo) (d a : Nat) : Ans :=
  vector s i p 1 d [a] fun t k => (t.lane 1 a k, 0)

/-- A fused multiply-add in mode `rm` (R184-R186); DYN with a reserved FRM traps (R69). -/
def vfused (s : State) (i : Instr) (p : PredNo) (rm : Rm) (ty : VType) (d a b : Nat) (negProd negAdd : Bool) : Ans :=
  match s.th.rounding rm with
  | none => issue s ⟨i, 0, false, false, .issue, [], []⟩ fun _ => .trap 2 (bitsVal i)
  | some m => vector s i p ty.bytes d [a, b] fun t k =>
      laneFma ty m negProd negAdd (t.lane ty.bytes a k) (t.lane ty.bytes b k) (t.lane ty.bytes d k)

/-- `vadd` (R180). -/
def execVadd (p : PredNo) (ty : VType) (d a b : RegNo) (s : State) : Ans :=
  vbinary s (.vadd p ty d a b) p ty d.toNat a.toNat b.toNat (laneAdd ty)

/-- `vsub` (R180). -/
def execVsub (p : PredNo) (ty : VType) (d a b : RegNo) (s : State) : Ans :=
  vbinary s (.vsub p ty d a b) p ty d.toNat a.toNat b.toNat (laneSub ty)

/-- `vmul` (R180). -/
def execVmul (p : PredNo) (ty : VType) (d a b : RegNo) (s : State) : Ans :=
  vbinary s (.vmul p ty d a b) p ty d.toNat a.toNat b.toNat (laneMul ty)

/-- `vmax` (R180). -/
def execVmax (p : PredNo) (ty : VType) (d a b : RegNo) (s : State) : Ans :=
  vbinary s (.vmax p ty d a b) p ty d.toNat a.toNat b.toNat (laneMax ty)

/-- `vmin` (R180). -/
def execVmin (p : PredNo) (ty : VType) (d a b : RegNo) (s : State) : Ans :=
  vbinary s (.vmin p ty d a b) p ty d.toNat a.toNat b.toNat (laneMin ty)

/-- `vmaxUnsigned` (R180). -/
def execVmaxUnsigned (p : PredNo) (ty : VType) (d a b : RegNo) (s : State) : Ans :=
  vbinary s (.vmaxUnsigned p ty d a b) p ty d.toNat a.toNat b.toNat (laneMaxU ty)

/-- `vminUnsigned` (R180). -/
def execVminUnsigned (p : PredNo) (ty : VType) (d a b : RegNo) (s : State) : Ans :=
  vbinary s (.vminUnsigned p ty d a b) p ty d.toNat a.toNat b.toNat (laneMinU ty)

/-- `vshl` (R180). -/
def execVshl (p : PredNo) (ty : VType) (d a b : RegNo) (s : State) : Ans :=
  vbinary s (.vshl p ty d a b) p ty d.toNat a.toNat b.toNat (laneShl ty)

/-- `vshr` (R180). -/
def execVshr (p : PredNo) (ty : VType) (d a b : RegNo) (s : State) : Ans :=
  vbinary s (.vshr p ty d a b) p ty d.toNat a.toNat b.toNat (laneShr ty)

/-- `vsar` (R180). -/
def execVsar (p : PredNo) (ty : VType) (d a b : RegNo) (s : State) : Ans :=
  vbinary s (.vsar p ty d a b) p ty d.toNat a.toNat b.toNat (laneSar ty)

/-- `vdiv` (R180). -/
def execVdiv (p : PredNo) (ty : VType) (d a b : RegNo) (s : State) : Ans :=
  vbinary s (.vdiv p ty d a b) p ty d.toNat a.toNat b.toNat (laneDiv ty)

/-- `vadds` (R180). -/
def execVadds (p : PredNo) (ty : VType) (d a b : RegNo) (s : State) : Ans :=
  vbinary s (.vadds p ty d a b) p ty d.toNat a.toNat b.toNat (laneAdds ty)

/-- `vsubs` (R180). -/
def execVsubs (p : PredNo) (ty : VType) (d a b : RegNo) (s : State) : Ans :=
  vbinary s (.vsubs p ty d a b) p ty d.toNat a.toNat b.toNat (laneSubs ty)

/-- `vneg` (R180, R181). -/
def execVneg (p : PredNo) (ty : VType) (d a : RegNo) (s : State) : Ans :=
  vunary s (.vneg p ty d a) p ty d.toNat a.toNat (laneNeg ty)

/-- `vabs` (R180, R181). -/
def execVabs (p : PredNo) (ty : VType) (d a : RegNo) (s : State) : Ans :=
  vunary s (.vabs p ty d a) p ty d.toNat a.toNat (laneAbs ty)

/-- `vsqrt` (R180, R181). -/
def execVsqrt (p : PredNo) (ty : VType) (d a : RegNo) (s : State) : Ans :=
  vunary s (.vsqrt p ty d a) p ty d.toNat a.toNat (laneSqrt ty)

/-- `vcmul`: `cmac` from a zero accumulator (R180). -/
def execVcmul (p : PredNo) (d a b : RegNo) (s : State) : Ans :=
  vbinary s (.vcmul p d a b) p .c64 d.toNat a.toNat b.toNat fun x y => cmac x y 0

/-- `vconj` (R180, R181). -/
def execVconj (p : PredNo) (d a : RegNo) (s : State) : Ans :=
  vunary s (.vconj p d a) p .c64 d.toNat a.toNat laneConj

/-- `vand` (R183). -/
def execVand (p : PredNo) (d a b : RegNo) (s : State) : Ans :=
  vbitwise s (.vand p d a b) p d.toNat a.toNat b.toNat (· &&& ·)

/-- `vor` (R183). -/
def execVor (p : PredNo) (d a b : RegNo) (s : State) : Ans :=
  vbitwise s (.vor p d a b) p d.toNat a.toNat b.toNat (· ||| ·)

/-- `vxor` (R183). -/
def execVxor (p : PredNo) (d a b : RegNo) (s : State) : Ans :=
  vbitwise s (.vxor p d a b) p d.toNat a.toNat b.toNat (· ^^^ ·)

/-- `vmov` (R183). -/
def execVmov (p : PredNo) (d a : RegNo) (s : State) : Ans := vcopy s (.vmov p d a) p d.toNat a.toNat

/-- `vfma` (R185). -/
def execVfma (p : PredNo) (rm : Rm) (ty : VType) (d a b : RegNo) (s : State) : Ans :=
  vfused s (.vfma p rm ty d a b) p rm ty d.toNat a.toNat b.toNat false false

/-- `vfms` (R185). -/
def execVfms (p : PredNo) (rm : Rm) (ty : VType) (d a b : RegNo) (s : State) : Ans :=
  vfused s (.vfms p rm ty d a b) p rm ty d.toNat a.toNat b.toNat false true

/-- `vfnma` (R185). -/
def execVfnma (p : PredNo) (rm : Rm) (ty : VType) (d a b : RegNo) (s : State) : Ans :=
  vfused s (.vfnma p rm ty d a b) p rm ty d.toNat a.toNat b.toNat true false

/-- `vfnms` (R185). -/
def execVfnms (p : PredNo) (rm : Rm) (ty : VType) (d a b : RegNo) (s : State) : Ans :=
  vfused s (.vfnms p rm ty d a b) p rm ty d.toNat a.toNat b.toNat true true

/-! ## The 16-bit lane forms (R133) -/

/-- The lane form `vaddN` (R133). -/
def execVaddN (p : PredNo) (vd va : BitVec 4) (s : State) : Ans :=
  vbinary s (.vaddN p vd va) p .f32 vd.toNat vd.toNat va.toNat (laneAdd .f32)

/-- The lane form `vsubN` (R133). -/
def execVsubN (p : PredNo) (vd va : BitVec 4) (s : State) : Ans :=
  vbinary s (.vsubN p vd va) p .f32 vd.toNat vd.toNat va.toNat (laneSub .f32)

/-- The lane form `vmulN` (R133). -/
def execVmulN (p : PredNo) (vd va : BitVec 4) (s : State) : Ans :=
  vbinary s (.vmulN p vd va) p .f32 vd.toNat vd.toNat va.toNat (laneMul .f32)

/-- The lane form `vmaxN` (R133). -/
def execVmaxN (p : PredNo) (vd va : BitVec 4) (s : State) : Ans :=
  vbinary s (.vmaxN p vd va) p .f32 vd.toNat vd.toNat va.toNat (laneMax .f32)

/-- The lane form `vminN` (R133). -/
def execVminN (p : PredNo) (vd va : BitVec 4) (s : State) : Ans :=
  vbinary s (.vminN p vd va) p .f32 vd.toNat vd.toNat va.toNat (laneMin .f32)

/-- The lane form `vaddI32N` (R133). -/
def execVaddI32N (p : PredNo) (vd va : BitVec 4) (s : State) : Ans :=
  vbinary s (.vaddI32N p vd va) p .i32 vd.toNat vd.toNat va.toNat (laneAdd .i32)

/-- The lane form `vsubI32N` (R133). -/
def execVsubI32N (p : PredNo) (vd va : BitVec 4) (s : State) : Ans :=
  vbinary s (.vsubI32N p vd va) p .i32 vd.toNat vd.toNat va.toNat (laneSub .i32)

/-- The lane form `vmulI32N` (R133). -/
def execVmulI32N (p : PredNo) (vd va : BitVec 4) (s : State) : Ans :=
  vbinary s (.vmulI32N p vd va) p .i32 vd.toNat vd.toNat va.toNat (laneMul .i32)

/-- The lane form `vshlI32N` (R133). -/
def execVshlI32N (p : PredNo) (vd va : BitVec 4) (s : State) : Ans :=
  vbinary s (.vshlI32N p vd va) p .i32 vd.toNat vd.toNat va.toNat (laneShl .i32)

/-- The lane form `vnegN` (R133). -/
def execVnegN (p : PredNo) (vd va : BitVec 4) (s : State) : Ans :=
  vunary s (.vnegN p vd va) p .f32 vd.toNat va.toNat (laneNeg .f32)

/-- The lane form `vabsN` (R133). -/
def execVabsN (p : PredNo) (vd va : BitVec 4) (s : State) : Ans :=
  vunary s (.vabsN p vd va) p .f32 vd.toNat va.toNat (laneAbs .f32)

/-- The lane form `vandN` (R133). -/
def execVandN (p : PredNo) (vd va : BitVec 4) (s : State) : Ans :=
  vbitwise s (.vandN p vd va) p vd.toNat vd.toNat va.toNat (· &&& ·)

/-- The lane form `vorN` (R133). -/
def execVorN (p : PredNo) (vd va : BitVec 4) (s : State) : Ans :=
  vbitwise s (.vorN p vd va) p vd.toNat vd.toNat va.toNat (· ||| ·)

/-- The lane form `vxorN` (R133). -/
def execVxorN (p : PredNo) (vd va : BitVec 4) (s : State) : Ans :=
  vbitwise s (.vxorN p vd va) p vd.toNat vd.toNat va.toNat (· ^^^ ·)

/-- The lane form `vmov.n` (R133). -/
def execVmovN (p : PredNo) (vd va : BitVec 4) (s : State) : Ans := vcopy s (.vmovN p vd va) p vd.toNat va.toNat

/-- The lane form `vcmul.c64.n` (R133). -/
def execVcmulC64N (p : PredNo) (vd va : BitVec 4) (s : State) : Ans :=
  vbinary s (.vcmulC64N p vd va) p .c64 vd.toNat vd.toNat va.toNat fun x y => cmac x y 0

end Sys2Proof.Machine
end

