-- ==== Sys2Proof/Machine/VectorMisc.lean ====
section
/-! DEFINITION. Compares, conversions, MX pack and unpack, reductions, lane moves and predicate operations: the major
VMISC (R187-R198). -/

namespace Sys2Proof.Machine

/-- A compare into predicate d (R188). -/
def vcompare (s : State) (i : Instr) (p : PredNo) (ty : VType) (d : PredNo) (a b : RegNo)
    (f : Nat → Nat → Bool × Flags) : Ans :=
  issue s ⟨i, 0, false, false, .issue, [.v a.toNat, .v b.toNat], []⟩ fun s =>
    let t := s.th
    let w := ty.bytes
    let (m, fl) := maskLanes w (t.pred p.toNat) (t.pred d.toNat)
      (fun k => f (t.lane w a.toNat k) (t.lane w b.toNat k)) (64 / w)
    .retire (s.modTh fun t => (t.setP d.toNat m).flag fl)

/-- `vcmpeq` (R187, R188). -/
def execVcmpeq (p : PredNo) (ty : VType) (d : PredNo) (a b : RegNo) (s : State) : Ans :=
  vcompare s (.vcmpeq p ty d a b) p ty d a b (laneEq ty)

/-- `vcmpne` (R187, R188). -/
def execVcmpne (p : PredNo) (ty : VType) (d : PredNo) (a b : RegNo) (s : State) : Ans :=
  vcompare s (.vcmpne p ty d a b) p ty d a b (fun x y => let r := laneEq ty x y; (!r.1, r.2))

/-- `vcmplt` (R187, R188). -/
def execVcmplt (p : PredNo) (ty : VType) (d : PredNo) (a b : RegNo) (s : State) : Ans :=
  vcompare s (.vcmplt p ty d a b) p ty d a b (laneLt ty false)

/-- `vcmple` (R187, R188). -/
def execVcmple (p : PredNo) (ty : VType) (d : PredNo) (a b : RegNo) (s : State) : Ans :=
  vcompare s (.vcmple p ty d a b) p ty d a b (laneLt ty true)

/-- `vcmpltUnsigned` (R187, R188). -/
def execVcmpltUnsigned (p : PredNo) (ty : VType) (d : PredNo) (a b : RegNo) (s : State) : Ans :=
  vcompare s (.vcmpltUnsigned p ty d a b) p ty d a b (fun x y => (decide (x < y), 0))

/-- `vcmpleUnsigned` (R187, R188). -/
def execVcmpleUnsigned (p : PredNo) (ty : VType) (d : PredNo) (a b : RegNo) (s : State) : Ans :=
  vcompare s (.vcmpleUnsigned p ty d a b) p ty d a b (fun x y => (decide (x ≤ y), 0))

/-- `vcmpun` (R187, R188). -/
def execVcmpun (p : PredNo) (ty : VType) (d : PredNo) (a b : RegNo) (s : State) : Ans :=
  vcompare s (.vcmpun p ty d a b) p ty d a b (laneUn ty)

/-- The lanes a conversion writes (R190): the on lanes below `n` converted, zeros above `n`. -/
def convertLanes (dst src : VType) (rm : Rm) (p : Word) (old a : Vec) (n : Nat) : Vec × Flags :=
  let (v, fl) := lanesUpTo dst.bytes p old (fun k => laneCvt src dst rm (lane src.bytes a k)) n
  (BitVec.ofNat 512 v, fl)

/-- `vcvt` (R189-R191). -/
def execVcvt (p : PredNo) (dt st : VType) (rm : Rm) (d a : RegNo) (s : State) : Ans :=
  match s.th.rounding rm with
  | none => issue s ⟨.vcvt p dt st rm d a, 0, false, false, .issue, [], []⟩ fun _ => .trap 2 (bitsVal (.vcvt p dt st rm d a))
  | some m =>
    issue s ⟨.vcvt p dt st rm d a, 0, false, false, .issue, [.v a.toNat, .v d.toNat], []⟩ fun s =>
      let n := 64 / max dt.bytes st.bytes
      let (v, fl) := convertLanes dt st m (s.pv p) (s.vv d) (s.vv a) n
      .retire (s.modTh fun t => (t.setV d.toNat v).flag fl)

/-- An instruction whose scalar result goes to register d, with its flags; off when bit 0 of p is 0. -/
def vtoScalar (s : State) (i : Instr) (p : PredNo) (d : RegNo) (uses : List RName) (f : State → Word × Flags) : Ans :=
  issue s ⟨i, p, false, false, .issue, uses, [.s d.toNat]⟩ fun s =>
    let (v, fl) := f s
    .retire (s.modTh fun t => (t.setS d.toNat v).flag fl)

/-- `vbcast` (R197). -/
def execVbcast (p : PredNo) (w : Width) (d a : RegNo) (s : State) : Ans :=
  issue s ⟨.vbcast p w d a, 0, false, false, .issue, [.s a.toNat, .v d.toNat], []⟩ fun s =>
    .retire (s.setV d (lanes w.bytes (s.pv p) (s.vv d) fun _ => (lowBytes (s.sv a) w.bytes, 0)).1)

/-- `vext` (R197): its predicate acts as on a scalar instruction. -/
def execVext (p : PredNo) (w : Width) (d a b : RegNo) (s : State) : Ans :=
  vtoScalar s (.vext p w d a b) p d [.v a.toNat, .s b.toNat] fun s =>
    (BitVec.ofNat 64 (lane w.bytes (s.vv a) ((s.sv b).toNat % (64 / w.bytes))), 0)

/-- `vins` (R197). -/
def execVins (p : PredNo) (w : Width) (d a b : RegNo) (s : State) : Ans :=
  issue s ⟨.vins p w d a b, 0, false, false, .issue, [.s a.toNat, .s b.toNat, .v d.toNat], []⟩ fun s =>
    let k := (s.sv b).toNat % (64 / w.bytes)
    .retire (s.setV d (lanes w.bytes (s.pv p) (s.vv d) fun j =>
      (if j = k then lowBytes (s.sv a) w.bytes else lane w.bytes (s.vv d) j, 0)).1)

/-- `vperm` (R197). -/
def execVperm (p : PredNo) (d a b : RegNo) (s : State) : Ans :=
  vector s (.vperm p d a b) p 1 d.toNat [a.toNat, b.toNat] fun t i =>
    (t.lane 1 a.toNat (t.lane 1 b.toNat i % 64), 0)

/-- `vsel` (R197): every byte is written, so d is not read. -/
def execVsel (p : PredNo) (d a b : RegNo) (s : State) : Ans :=
  issue s ⟨.vsel p d a b, 0, false, false, .issue, [.v a.toNat, .v b.toNat], [.v d.toNat]⟩ fun s =>
    .retire (s.setV d (lanes 1 (s.pv p) (s.vv b) fun i => (lane 1 (s.vv a) i, 0)).1)

/-- `vslideup` (R197). -/
def execVslideup (p : PredNo) (d a b : RegNo) (s : State) : Ans :=
  issue s ⟨.vslideup p d a b, 0, false, false, .issue, [.v a.toNat, .s b.toNat, .v d.toNat], []⟩ fun s =>
    let k := (s.sv b).toNat
    .retire (s.setV d (lanes 1 (s.pv p) (s.vv d) fun i => (if k ≤ i then lane 1 (s.vv a) (i - k) else 0, 0)).1)

/-- `vslidedn` (R197). -/
def execVslidedn (p : PredNo) (d a b : RegNo) (s : State) : Ans :=
  issue s ⟨.vslidedn p d a b, 0, false, false, .issue, [.v a.toNat, .s b.toNat, .v d.toNat], []⟩ fun s =>
    let k := (s.sv b).toNat
    .retire (s.setV d (lanes 1 (s.pv p) (s.vv d) fun i => (if i + k < 64 then lane 1 (s.vv a) (i + k) else 0, 0)).1)

/-- A predicate operation; it has no predicate of its own and raises no flag (R198). -/
def predicateOp (s : State) (i : Instr) (d : PredNo) (uses : List RName) (f : State → Word) : Ans :=
  issue s ⟨i, 0, false, false, .issue, uses, []⟩ fun s => .retire (s.setP d (f s))

/-- `pand` (R198). -/
def execPand (d a b : PredNo) (s : State) : Ans := predicateOp s (.pand d a b) d [] fun s => s.pv a &&& s.pv b

/-- `por` (R198). -/
def execPor (d a b : PredNo) (s : State) : Ans := predicateOp s (.por d a b) d [] fun s => s.pv a ||| s.pv b

/-- `pxor` (R198). -/
def execPxor (d a b : PredNo) (s : State) : Ans := predicateOp s (.pxor d a b) d [] fun s => s.pv a ^^^ s.pv b

/-- `pnot` (R198). -/
def execPnot (d a : PredNo) (s : State) : Ans := predicateOp s (.pnot d a) d [] fun s => ~~~s.pv a

/-- `pmov` (R198). -/
def execPmov (d : PredNo) (a : RegNo) (s : State) : Ans := predicateOp s (.pmov d a) d [.s a.toNat] fun s => s.sv a

/-- `pget` (R198). -/
def execPget (d : RegNo) (a : PredNo) (s : State) : Ans := vtoScalar s (.pget d a) 0 d [] fun s => (s.pv a, 0)

/-- Number of one bits of a predicate. -/
def predCount (p : Word) : Nat → Nat
  | 0 => 0
  | n + 1 => (if p.getLsbD n then 1 else 0) + predCount p n

/-- Index of the lowest one bit from bit `i` on, `n` bits looked at; `i + n` if there is none. -/
def predFirst (p : Word) (i : Nat) : Nat → Nat
  | 0 => i
  | n + 1 => if p.getLsbD i then i else predFirst p (i + 1) n

/-- `pcnt` (R198). -/
def execPcnt (d : RegNo) (a : PredNo) (s : State) : Ans :=
  vtoScalar s (.pcnt d a) 0 d [] fun s => (BitVec.ofNat 64 (predCount (s.pv a) 64), 0)

/-- `pfirst` (R198). -/
def execPfirst (d : RegNo) (a : PredNo) (s : State) : Ans :=
  vtoScalar s (.pfirst d a) 0 d [] fun s => (BitVec.ofNat 64 (predFirst (s.pv a) 0 64), 0)

/-- One step of `vredadd` on an accumulator and its flags (R196). -/
def redAddStep (ty : VType) (acc : Nat × Flags) (x : Nat) : Nat × Flags :=
  match ty with
  | .f32 => let (r, f) := fadd .f32 .rne acc.1 x; (r, acc.2 ||| f)
  | .bf16 | .f16 =>
    let (r, f) := fadd .f32 .rne acc.1 (widen ty.fmt x)
    (r, acc.2 ||| f ||| snanFlag ty.fmt [x])
  | .c64 => let (r, f) := onParts (fadd .f32 .rne) acc.1 x; (r, acc.2 ||| f)
  | .i8 | .i16 | .i32 | .i64 => (ofInt 64 (sint 64 acc.1 + sint ty.width x), acc.2)

/-- `vredadd` (R195, R196). -/
def execVredadd (p : PredNo) (ty : VType) (d a : RegNo) (s : State) : Ans :=
  vtoScalar s (.vredadd p ty d a) 0 d [.v a.toNat] fun s =>
    let r := foldLanes ty.bytes (s.pv p) (fun acc k => redAddStep ty acc (lane ty.bytes (s.vv a) k)) (0, 0) (64 / ty.bytes)
    (BitVec.ofNat 64 r.1, r.2)

/-- The starting value of `vredmax` (`up`) or `vredmin` (R196). -/
def redStart (ty : VType) (up : Bool) : Nat :=
  if ty.isInt then ofInt 64 (if up then -(2 ^ (ty.width - 1) : Int) else 2 ^ (ty.width - 1) - 1)
  else if up then Fmt.f32.signBit + Fmt.f32.infBits else Fmt.f32.infBits

/-- One step of `vredmax` or `vredmin` (R196); floats of 16 bits are widened first. -/
def redMaxStep (ty : VType) (up : Bool) (acc : Nat × Flags) (x : Nat) : Nat × Flags :=
  if ty.isInt then
    let y := sint ty.width x
    let z := sint 64 acc.1
    (ofInt 64 (if up then max z y else min z y), acc.2)
  else
    let y := if ty == .f32 then x else widen ty.fmt x
    let (r, f) := if up then fmax .f32 acc.1 y else fmin .f32 acc.1 y
    (r, acc.2 ||| f ||| snanFlag ty.fmt [x])

/-- A reduction by the max and min rule (R195, R196). -/
def reduceMax (s : State) (i : Instr) (up : Bool) (p : PredNo) (ty : VType) (d a : RegNo) : Ans :=
  vtoScalar s i 0 d [.v a.toNat] fun s =>
    let r := foldLanes ty.bytes (s.pv p) (fun acc k => redMaxStep ty up acc (lane ty.bytes (s.vv a) k))
      (redStart ty up, 0) (64 / ty.bytes)
    (BitVec.ofNat 64 r.1, r.2)

/-- `vredmax` (R195, R196). -/
def execVredmax (p : PredNo) (ty : VType) (d a : RegNo) (s : State) : Ans := reduceMax s (.vredmax p ty d a) true p ty d a

/-- `vredmin` (R195, R196). -/
def execVredmin (p : PredNo) (ty : VType) (d a : RegNo) (s : State) : Ans := reduceMax s (.vredmin p ty d a) false p ty d a

/-- The 16 FP32 lanes of a vector, in lane order. -/
def floatLanes (v : Vec) : List Nat := (List.range 16).map (lane 4 v)

/-- `vpack` (R192, R193). -/
def execVpack (p : PredNo) (fmt : MxFmt) (rm : Rm) (d a : RegNo) (s : State) : Ans :=
  let good := (s.th.rounding rm).isSome
  issue s ⟨.vpack p fmt rm d a, p, false, false, .issue, (if good then [.v a.toNat, .v (a.toNat + 1)] else []),
    (if good then [.v d.toNat] else [])⟩ fun s =>
    match s.th.rounding rm with
    | none => .trap 2 (bitsVal (.vpack p fmt rm d a))
    | some m =>
      let (scale, codes, fl) := mxEncode fmt m (floatLanes (s.vv a) ++ floatLanes (s.th.vreg (a.toNat + 1)).val)
      .retire (s.modTh fun t => (t.setV d.toNat (BitVec.ofNat 512 (codes + scale * 2 ^ 256))).flag fl)

/-- Elements `lo` to `lo + n - 1` of an unpacked block as FP32 lanes, with the flags (R194). -/
def unpackLanes (fmt : MxFmt) (stream scale lo : Nat) : Nat → Nat × Flags
  | 0 => (0, 0)
  | n + 1 =>
    let (v, fl) := unpackLanes fmt stream scale lo n
    let (x, g) := roundFmt .f32 .rne (mxDecode fmt (mxElem fmt stream (lo + n)) scale)
    (v + x * 2 ^ (32 * n), fl ||| g)

/-- `vunpk` (R192, R194): it writes d and d + 1. -/
def execVunpk (p : PredNo) (fmt : MxFmt) (d a b : RegNo) (s : State) : Ans :=
  issue s ⟨.vunpk p fmt d a b, p, false, false, .issue, [.v a.toNat, .s b.toNat], [.v d.toNat, .v (d.toNat + 1)]⟩ fun s =>
    let scale := (s.sv b).toNat % 256
    let (x, f1) := unpackLanes fmt (s.vv a).toNat scale 0 16
    let (y, f2) := unpackLanes fmt (s.vv a).toNat scale 16 16
    .retire (s.modTh fun t =>
      ((t.setV d.toNat (BitVec.ofNat 512 x)).setV (d.toNat + 1) (BitVec.ofNat 512 y)).flag (f1 ||| f2))

end Sys2Proof.Machine
end

