-- ==== Sys2Proof/Machine/Dispatch.lean ====
section
/-! DEFINITION. The meaning of every row of the opcode table: one arm per constructor, one meaning per arm. -/

namespace Sys2Proof.Machine

open Sys2Proof

def exec (i : Instr) (s : State) : Host.Outcome State Fault Refusal :=
  match i with
  | .add w p d a b => Sys2Proof.Machine.execAdd w p d a b s
  | .sub w p d a b => Sys2Proof.Machine.execSub w p d a b s
  | .and w p d a b => Sys2Proof.Machine.execAnd w p d a b s
  | .or w p d a b => Sys2Proof.Machine.execOr w p d a b s
  | .xor w p d a b => Sys2Proof.Machine.execXor w p d a b s
  | .shl w p d a b => Sys2Proof.Machine.execShl w p d a b s
  | .shr w p d a b => Sys2Proof.Machine.execShr w p d a b s
  | .sar w p d a b => Sys2Proof.Machine.execSar w p d a b s
  | .slt w p d a b => Sys2Proof.Machine.execSlt w p d a b s
  | .sltu w p d a b => Sys2Proof.Machine.execSltu w p d a b s
  | .mul p d a b => Sys2Proof.Machine.execMul p d a b s
  | .mulh p d a b => Sys2Proof.Machine.execMulh p d a b s
  | .mulhu p d a b => Sys2Proof.Machine.execMulhu p d a b s
  | .div p d a b => Sys2Proof.Machine.execDiv p d a b s
  | .divu p d a b => Sys2Proof.Machine.execDivu p d a b s
  | .rem p d a b => Sys2Proof.Machine.execRem p d a b s
  | .remu p d a b => Sys2Proof.Machine.execRemu p d a b s
  | .min p d a b => Sys2Proof.Machine.execMin p d a b s
  | .max p d a b => Sys2Proof.Machine.execMax p d a b s
  | .minu p d a b => Sys2Proof.Machine.execMinu p d a b s
  | .maxu p d a b => Sys2Proof.Machine.execMaxu p d a b s
  | .popc w p d a => Sys2Proof.Machine.execPopc w p d a s
  | .clz w p d a => Sys2Proof.Machine.execClz w p d a s
  | .ctz w p d a => Sys2Proof.Machine.execCtz w p d a s
  | .brev p d a => Sys2Proof.Machine.execBrev p d a s
  | .bfx p d a b => Sys2Proof.Machine.execBfx p d a b s
  | .bfi p d a b => Sys2Proof.Machine.execBfi p d a b s
  | .andn p d a b => Sys2Proof.Machine.execAndn p d a b s
  | .orn p d a b => Sys2Proof.Machine.execOrn p d a b s
  | .rol w p d a b => Sys2Proof.Machine.execRol w p d a b s
  | .ror w p d a b => Sys2Proof.Machine.execRor w p d a b s
  | .bswap p d a => Sys2Proof.Machine.execBswap p d a s
  | .addi d a imm => Sys2Proof.Machine.execAddi d a imm s
  | .andi d a imm => Sys2Proof.Machine.execAndi d a imm s
  | .ori d a imm => Sys2Proof.Machine.execOri d a imm s
  | .xori d a imm => Sys2Proof.Machine.execXori d a imm s
  | .slti d a imm => Sys2Proof.Machine.execSlti d a imm s
  | .shli w amt d a => Sys2Proof.Machine.execShli w amt d a s
  | .shri w amt d a => Sys2Proof.Machine.execShri w amt d a s
  | .sari w amt d a => Sys2Proof.Machine.execSari w amt d a s
  | .rori w amt d a => Sys2Proof.Machine.execRori w amt d a s
  | .lhi d imm => Sys2Proof.Machine.execLhi d imm s
  | .addpc d imm => Sys2Proof.Machine.execAddpc d imm s
  | .jal d imm => Sys2Proof.Machine.execJal d imm s
  | .jalr d a imm => Sys2Proof.Machine.execJalr d a imm s
  | .beq a b off => Sys2Proof.Machine.execBeq a b off s
  | .bne a b off => Sys2Proof.Machine.execBne a b off s
  | .blt a b off => Sys2Proof.Machine.execBlt a b off s
  | .bge a b off => Sys2Proof.Machine.execBge a b off s
  | .bltu a b off => Sys2Proof.Machine.execBltu a b off s
  | .bgeu a b off => Sys2Proof.Machine.execBgeu a b off s
  | .bbs a b off => Sys2Proof.Machine.execBbs a b off s
  | .bbc a b off => Sys2Proof.Machine.execBbc a b off s
  | .bany a off => Sys2Proof.Machine.execBany a off s
  | .ball a off => Sys2Proof.Machine.execBall a off s
  | .bnone a off => Sys2Proof.Machine.execBnone a off s
  | .loopi len count => Sys2Proof.Machine.execLoopi len count s
  | .loops len dim d a => Sys2Proof.Machine.execLoops len dim d a s
  | .ld p off ord zx w d base => Sys2Proof.Machine.execLd p off ord zx w d base s
  | .st p off ord w a base => Sys2Proof.Machine.execSt p off ord w a base s
  | .amoswap p posted ord w d a base => Sys2Proof.Machine.execAmoswap p posted ord w d a base s
  | .amoadd p posted ord w d a base => Sys2Proof.Machine.execAmoadd p posted ord w d a base s
  | .amoand p posted ord w d a base => Sys2Proof.Machine.execAmoand p posted ord w d a base s
  | .amoor p posted ord w d a base => Sys2Proof.Machine.execAmoor p posted ord w d a base s
  | .amoxor p posted ord w d a base => Sys2Proof.Machine.execAmoxor p posted ord w d a base s
  | .amomin p posted ord w d a base => Sys2Proof.Machine.execAmomin p posted ord w d a base s
  | .amomax p posted ord w d a base => Sys2Proof.Machine.execAmomax p posted ord w d a base s
  | .amominu p posted ord w d a base => Sys2Proof.Machine.execAmominu p posted ord w d a base s
  | .amomaxu p posted ord w d a base => Sys2Proof.Machine.execAmomaxu p posted ord w d a base s
  | .amocas p ord w d a base => Sys2Proof.Machine.execAmocas p ord w d a base s
  | .amofadd p posted ord d a base => Sys2Proof.Machine.execAmofadd p posted ord d a base s
  | .fence p a => Sys2Proof.Machine.execFence p a s
  | .fenceLb p => Sys2Proof.Machine.execFenceLb p s
  | .watch p cmp a b => Sys2Proof.Machine.execWatch p cmp a b s
  | .barArr p a => Sys2Proof.Machine.execBarArr p a s
  | .barWait p a b => Sys2Proof.Machine.execBarWait p a b s
  | .mput p a mbox => Sys2Proof.Machine.execMput p a mbox s
  | .mget p d mbox => Sys2Proof.Machine.execMget p d mbox s
  | .wait p cls => Sys2Proof.Machine.execWait p cls s
  | .twaitSrc p a => Sys2Proof.Machine.execTwaitSrc p a s
  | .twaitVis p a => Sys2Proof.Machine.execTwaitVis p a s
  | .vadd p ty d a b => Sys2Proof.Machine.execVadd p ty d a b s
  | .vsub p ty d a b => Sys2Proof.Machine.execVsub p ty d a b s
  | .vmul p ty d a b => Sys2Proof.Machine.execVmul p ty d a b s
  | .vcmul p d a b => Sys2Proof.Machine.execVcmul p d a b s
  | .vmax p ty d a b => Sys2Proof.Machine.execVmax p ty d a b s
  | .vmin p ty d a b => Sys2Proof.Machine.execVmin p ty d a b s
  | .vmaxUnsigned p ty d a b => Sys2Proof.Machine.execVmaxUnsigned p ty d a b s
  | .vminUnsigned p ty d a b => Sys2Proof.Machine.execVminUnsigned p ty d a b s
  | .vneg p ty d a => Sys2Proof.Machine.execVneg p ty d a s
  | .vabs p ty d a => Sys2Proof.Machine.execVabs p ty d a s
  | .vshl p ty d a b => Sys2Proof.Machine.execVshl p ty d a b s
  | .vshr p ty d a b => Sys2Proof.Machine.execVshr p ty d a b s
  | .vsar p ty d a b => Sys2Proof.Machine.execVsar p ty d a b s
  | .vand p d a b => Sys2Proof.Machine.execVand p d a b s
  | .vor p d a b => Sys2Proof.Machine.execVor p d a b s
  | .vxor p d a b => Sys2Proof.Machine.execVxor p d a b s
  | .vmov p d a => Sys2Proof.Machine.execVmov p d a s
  | .vdiv p ty d a b => Sys2Proof.Machine.execVdiv p ty d a b s
  | .vsqrt p ty d a => Sys2Proof.Machine.execVsqrt p ty d a s
  | .vconj p d a => Sys2Proof.Machine.execVconj p d a s
  | .vadds p ty d a b => Sys2Proof.Machine.execVadds p ty d a b s
  | .vsubs p ty d a b => Sys2Proof.Machine.execVsubs p ty d a b s
  | .vfma p rm ty d a b => Sys2Proof.Machine.execVfma p rm ty d a b s
  | .vfms p rm ty d a b => Sys2Proof.Machine.execVfms p rm ty d a b s
  | .vfnma p rm ty d a b => Sys2Proof.Machine.execVfnma p rm ty d a b s
  | .vfnms p rm ty d a b => Sys2Proof.Machine.execVfnms p rm ty d a b s
  | .vld p w ord d base x => Sys2Proof.Machine.execVld p w ord d base x s
  | .vlds p w ord d base x => Sys2Proof.Machine.execVlds p w ord d base x s
  | .vldx p w ord d base x => Sys2Proof.Machine.execVldx p w ord d base x s
  | .vst p w ord a base x => Sys2Proof.Machine.execVst p w ord a base x s
  | .vsts p w ord a base x => Sys2Proof.Machine.execVsts p w ord a base x s
  | .vstx p w ord a base x => Sys2Proof.Machine.execVstx p w ord a base x s
  | .vcmpeq p ty d a b => Sys2Proof.Machine.execVcmpeq p ty d a b s
  | .vcmpne p ty d a b => Sys2Proof.Machine.execVcmpne p ty d a b s
  | .vcmplt p ty d a b => Sys2Proof.Machine.execVcmplt p ty d a b s
  | .vcmple p ty d a b => Sys2Proof.Machine.execVcmple p ty d a b s
  | .vcmpltUnsigned p ty d a b => Sys2Proof.Machine.execVcmpltUnsigned p ty d a b s
  | .vcmpleUnsigned p ty d a b => Sys2Proof.Machine.execVcmpleUnsigned p ty d a b s
  | .vcmpun p ty d a b => Sys2Proof.Machine.execVcmpun p ty d a b s
  | .vcvt p dt st rm d a => Sys2Proof.Machine.execVcvt p dt st rm d a s
  | .vbcast p w d a => Sys2Proof.Machine.execVbcast p w d a s
  | .vext p w d a b => Sys2Proof.Machine.execVext p w d a b s
  | .vins p w d a b => Sys2Proof.Machine.execVins p w d a b s
  | .vperm p d a b => Sys2Proof.Machine.execVperm p d a b s
  | .vsel p d a b => Sys2Proof.Machine.execVsel p d a b s
  | .vslideup p d a b => Sys2Proof.Machine.execVslideup p d a b s
  | .vslidedn p d a b => Sys2Proof.Machine.execVslidedn p d a b s
  | .pand d a b => Sys2Proof.Machine.execPand d a b s
  | .por d a b => Sys2Proof.Machine.execPor d a b s
  | .pxor d a b => Sys2Proof.Machine.execPxor d a b s
  | .pnot d a => Sys2Proof.Machine.execPnot d a s
  | .pmov d a => Sys2Proof.Machine.execPmov d a s
  | .pget d a => Sys2Proof.Machine.execPget d a s
  | .pcnt d a => Sys2Proof.Machine.execPcnt d a s
  | .pfirst d a => Sys2Proof.Machine.execPfirst d a s
  | .vredadd p ty d a => Sys2Proof.Machine.execVredadd p ty d a s
  | .vredmax p ty d a => Sys2Proof.Machine.execVredmax p ty d a s
  | .vredmin p ty d a => Sys2Proof.Machine.execVredmin p ty d a s
  | .vpack p fmt rm d a => Sys2Proof.Machine.execVpack p fmt rm d a s
  | .vunpk p fmt d a b => Sys2Proof.Machine.execVunpk p fmt d a b s
  | .vaddN p vd va => Sys2Proof.Machine.execVaddN p vd va s
  | .vsubN p vd va => Sys2Proof.Machine.execVsubN p vd va s
  | .vmulN p vd va => Sys2Proof.Machine.execVmulN p vd va s
  | .vmaxN p vd va => Sys2Proof.Machine.execVmaxN p vd va s
  | .vminN p vd va => Sys2Proof.Machine.execVminN p vd va s
  | .vnegN p vd va => Sys2Proof.Machine.execVnegN p vd va s
  | .vabsN p vd va => Sys2Proof.Machine.execVabsN p vd va s
  | .vaddI32N p vd va => Sys2Proof.Machine.execVaddI32N p vd va s
  | .vsubI32N p vd va => Sys2Proof.Machine.execVsubI32N p vd va s
  | .vmulI32N p vd va => Sys2Proof.Machine.execVmulI32N p vd va s
  | .vshlI32N p vd va => Sys2Proof.Machine.execVshlI32N p vd va s
  | .vandN p vd va => Sys2Proof.Machine.execVandN p vd va s
  | .vorN p vd va => Sys2Proof.Machine.execVorN p vd va s
  | .vxorN p vd va => Sys2Proof.Machine.execVxorN p vd va s
  | .vmovN p vd va => Sys2Proof.Machine.execVmovN p vd va s
  | .vcmulC64N p vd va => Sys2Proof.Machine.execVcmulC64N p vd va s
  | .sendm p a b => Sys2Proof.Machine.execSendm p a b s
  | .recvm p d a => Sys2Proof.Machine.execRecvm p d a s
  | .rcall p d a b => Sys2Proof.Machine.execRcall p d a b s
  | .rret p d a b => Sys2Proof.Machine.execRret p d a b s
  | .rgrab p d a => Sys2Proof.Machine.execRgrab p d a s
  | .gjoin slot a b => Sys2Proof.Machine.execGjoin slot a b s
  | .gleave slot => Sys2Proof.Machine.execGleave slot s
  | .ginfo slot d => Sys2Proof.Machine.execGinfo slot d s
  | .gabsent slot => Sys2Proof.Machine.execGabsent slot s
  | .cbrAll off hint bit p slot => Sys2Proof.Machine.execCbrAll off hint bit p slot s
  | .cbrAny off hint bit p slot => Sys2Proof.Machine.execCbrAny off hint bit p slot s
  | .cpy p ctl base scope => Sys2Proof.Machine.execCpy p ctl base scope s
  | .cpyBar p ctl base scope => Sys2Proof.Machine.execCpyBar p ctl base scope s
  | .mma p fmt pb a b => Sys2Proof.Machine.execMma p fmt pb a b s
  | .msacc p z pb b => Sys2Proof.Machine.execMsacc p z pb b s
  | .msaccV p z pb b => Sys2Proof.Machine.execMsaccV p z pb b s
  | .mzero p z => Sys2Proof.Machine.execMzero p z s
  | .mldz p z a => Sys2Proof.Machine.execMldz p z a s
  | .mstz p bf rm z a => Sys2Proof.Machine.execMstz p bf rm z a s
  | .mcommit p => Sys2Proof.Machine.execMcommit p s
  | .mwait p n => Sys2Proof.Machine.execMwait p n s
  | .mresume p a => Sys2Proof.Machine.execMresume p a s
  | .mvs p fmt pb a b => Sys2Proof.Machine.execMvs p fmt pb a b s
  | .ycfg a => Sys2Proof.Machine.execYcfg a s
  | .yswap r l => Sys2Proof.Machine.execYswap r l s
  | .ywant two b0 b1 => Sys2Proof.Machine.execYwant two b0 b1 s
  | .ysync => Sys2Proof.Machine.execYsync s
  | .ygen d => Sys2Proof.Machine.execYgen d s
  | .axa ty d a b => Sys2Proof.Machine.execAxa ty d a b s
  | .axd ty a b => Sys2Proof.Machine.execAxd ty a b s
  | .axs ty axpy a b => Sys2Proof.Machine.execAxs ty axpy a b s
  | .axn ty d => Sys2Proof.Machine.execAxn ty d s
  | .put p d a => Sys2Proof.Machine.execPut p d a s
  | .puts p d a b => Sys2Proof.Machine.execPuts p d a b s
  | .get p d a => Sys2Proof.Machine.execGet p d a s
  | .radd p d a b => Sys2Proof.Machine.execRadd p d a b s
  | .coll p d a b => Sys2Proof.Machine.execColl p d a b s
  | .exit p => Sys2Proof.Machine.execExit p s
  | .trap p => Sys2Proof.Machine.execTrap p s
  | .tret p => Sys2Proof.Machine.execTret p s
  | .srd p d num => Sys2Proof.Machine.execSrd p d num s
  | .swr p a num => Sys2Proof.Machine.execSwr p a num s
  | .ctxs p a => Sys2Proof.Machine.execCtxs p a s
  | .ctxr p halt a => Sys2Proof.Machine.execCtxr p halt a s
  | .tinv p a b => Sys2Proof.Machine.execTinv p a b s
  | .tkSend rs1 rs2 => Sys2Proof.Machine.execTkSend rs1 rs2 s
  | .tkRecv rd rs1 rs2 => Sys2Proof.Machine.execTkRecv rd rs1 rs2 s
  | .tkRecvAny rd rs1 => Sys2Proof.Machine.execTkRecvAny rd rs1 s
  | .tkCopy rs1 rs2 => Sys2Proof.Machine.execTkCopy rs1 rs2 s
  | .tkWait rs1 rs2 => Sys2Proof.Machine.execTkWait rs1 rs2 s
  | .tkSig rs1 rs2 => Sys2Proof.Machine.execTkSig rs1 rs2 s
  | .tkFlush => Sys2Proof.Machine.execTkFlush s
  | .tkDone rs1 => Sys2Proof.Machine.execTkDone rs1 s
  | .tkRed op fmt rs1 rs2 => Sys2Proof.Machine.execTkRed op fmt rs1 rs2 s
  | .tkReds op fmt rs1 => Sys2Proof.Machine.execTkReds op fmt rs1 s
  | .ingressDoorbell slot => Sys2Proof.Machine.execIngressDoorbell slot s
  | .activeMessageArrival src core => Sys2Proof.Machine.execActiveMessageArrival src core s
  | .contextStart core => Sys2Proof.Machine.execContextStart core s
  | .acceptWordWrite slot => Sys2Proof.Machine.execAcceptWordWrite slot s
  | .contextEnd tid => Sys2Proof.Machine.execContextEnd tid s
  | .joinComplete gid news => Sys2Proof.Machine.execJoinComplete gid news s
  | .groupTimeout gid => Sys2Proof.Machine.execGroupTimeout gid s
  | .groupDissolved gid left => Sys2Proof.Machine.execGroupDissolved gid left s
  | .feedBinArm id part => Sys2Proof.Machine.execFeedBinArm id part s
  | .feedBinDisarm id part => Sys2Proof.Machine.execFeedBinDisarm id part s
  | .feedBinGrab src => Sys2Proof.Machine.execFeedBinGrab src s
  | .registerWrite r => Sys2Proof.Machine.execRegisterWrite r s
  | .accessPerform id part host => Sys2Proof.Machine.execAccessPerform id part host s
  | .remoteResultArrival id ext => Sys2Proof.Machine.execRemoteResultArrival id ext s
  | .remoteRefusal id r => Sys2Proof.Machine.execRemoteRefusal id r s
  | .messageDelivery id => Sys2Proof.Machine.execMessageDelivery id s
  | .callDelivery id => Sys2Proof.Machine.execCallDelivery id s
  | .callReply id => Sys2Proof.Machine.execCallReply id s
  | .agreementContribution gid ordinal members any value hdr => Sys2Proof.Machine.execAgreementContribution gid ordinal members any value hdr s
  | .agreementResolution tid out => Sys2Proof.Machine.execAgreementResolution tid out s
  | .penDrain tid => Sys2Proof.Machine.execPenDrain tid s
  | .commitBufferRelease tid => Sys2Proof.Machine.execCommitBufferRelease tid s
  | .specLimit tid => Sys2Proof.Machine.execSpecLimit tid s
  | .interruptTake => Sys2Proof.Machine.execInterruptTake s
  | .timerTick paddock => Sys2Proof.Machine.execTimerTick paddock s
  | .receiveThreshold tid => Sys2Proof.Machine.execReceiveThreshold tid s
  | .recvProbe id => Sys2Proof.Machine.execRecvProbe id s
  | .recvStrike id => Sys2Proof.Machine.execRecvStrike id s
  | .spill core => Sys2Proof.Machine.execSpill core s
  | .pageWalk core va => Sys2Proof.Machine.execPageWalk core va s
  | .tlbInvalidation core m => Sys2Proof.Machine.execTlbInvalidation core m s
  | .bar4WindowAccess a => Sys2Proof.Machine.execBar4WindowAccess a s
  | .copyStart core => Sys2Proof.Machine.execCopyStart core s
  | .copySrc core => Sys2Proof.Machine.execCopySrc core s
  | .copyVis core id => Sys2Proof.Machine.execCopyVis core id s
  | .copyFault core id => Sys2Proof.Machine.execCopyFault core id s
  | .tileCommandStart core entry => Sys2Proof.Machine.execTileCommandStart core entry s
  | .tileCommandComplete core entry => Sys2Proof.Machine.execTileCommandComplete core entry s
  | .tileCommandStop core entry done => Sys2Proof.Machine.execTileCommandStop core entry done s
  | .tileFault => Sys2Proof.Machine.execTileFault s
  | .swapHandshake core partner => Sys2Proof.Machine.execSwapHandshake core partner s
  | .exchangeUnitStart core => Sys2Proof.Machine.execExchangeUnitStart core s
  | .exchangeUnitComplete core remote => Sys2Proof.Machine.execExchangeUnitComplete core remote s
  | .yardAccessForward req => Sys2Proof.Machine.execYardAccessForward req s
  | .axisCommandComplete core => Sys2Proof.Machine.execAxisCommandComplete core s
  | .yardEnd core => Sys2Proof.Machine.execYardEnd core s
  | .fabricPutArrival src => Sys2Proof.Machine.execFabricPutArrival src s
  | .fabricPutsArrival src => Sys2Proof.Machine.execFabricPutsArrival src s
  | .fabricGetArrival src => Sys2Proof.Machine.execFabricGetArrival src s
  | .fabricRaddArrival src => Sys2Proof.Machine.execFabricRaddArrival src s
  | .fabricResponse id r => Sys2Proof.Machine.execFabricResponse id r s
  | .fabricTimeout id => Sys2Proof.Machine.execFabricTimeout id s
  | .multicastReplica group off src reqId data => Sys2Proof.Machine.execMulticastReplica group off src reqId data s
  | .multicastAck id n naks hdr => Sys2Proof.Machine.execMulticastAck id n naks hdr s
  | .multicastLoadCollect group off src reqId => Sys2Proof.Machine.execMulticastLoadCollect group off src reqId s
  | .multicastLoadResult id r hdr => Sys2Proof.Machine.execMulticastLoadResult id r hdr s
  | .capabilityExchange peer rev cap hdr => Sys2Proof.Machine.execCapabilityExchange peer rev cap hdr s
  | .invocationStart seq => Sys2Proof.Machine.execInvocationStart seq s
  | .chunkArrival seq peer peerSeq tag buf chunk data hs => Sys2Proof.Machine.execChunkArrival seq peer peerSeq tag buf chunk data hs s
  | .tackSendRetry seq op => Sys2Proof.Machine.execTackSendRetry seq op s
  | .tackSendTimeout seq op => Sys2Proof.Machine.execTackSendTimeout seq op s
  | .signalArrival seq peer peerSeq tag buf chunk inc hdr => Sys2Proof.Machine.execSignalArrival seq peer peerSeq tag buf chunk inc hdr s
  | .paddockSet => Sys2Proof.Machine.execPaddockSet s
  | .paddockClear => Sys2Proof.Machine.execPaddockClear s
  | .preempt => Sys2Proof.Machine.execPreempt s
  | .swap => Sys2Proof.Machine.execSwap s
  | .resume => Sys2Proof.Machine.execResume s
  | .threadEnd => Sys2Proof.Machine.execThreadEnd s
  | .interrupt => Sys2Proof.Machine.execInterrupt s
  | .hashgrpSet => Sys2Proof.Machine.execHashgrpSet s
  | .mkeyLoad => Sys2Proof.Machine.execMkeyLoad s
  | .fkeyLoad => Sys2Proof.Machine.execFkeyLoad s
  | .peerSet => Sys2Proof.Machine.execPeerSet s
  | .mcastSet => Sys2Proof.Machine.execMcastSet s
  | .tackLoad => Sys2Proof.Machine.execTackLoad s
  | .debugAddr => Sys2Proof.Machine.execDebugAddr s
  | .attest => Sys2Proof.Machine.execAttest s
  | .update => Sys2Proof.Machine.execUpdate s
  | .moduleReset trained => Sys2Proof.Machine.execModuleReset trained s
  | .islandSensorRefresh island temp curr volt below1ms => Sys2Proof.Machine.execIslandSensorRefresh island temp curr volt below1ms s
  | .logFlashCopy => Sys2Proof.Machine.execLogFlashCopy s
  | .illegalEncoding bits => Sys2Proof.Machine.execIllegalEncoding bits s
  | .uncorrectableEccError place => Sys2Proof.Machine.execUncorrectableEccError place s
  | .sequencerRv64Instruction bits => Sys2Proof.Machine.execSequencerRv64Instruction bits s
  | .tackOperationPerformed seq op r => Sys2Proof.Machine.execTackOperationPerformed seq op r s
  | .copyDestinationRelease core id => Sys2Proof.Machine.execCopyDestinationRelease core id s
  | .tileSourceRelease core entry => Sys2Proof.Machine.execTileSourceRelease core entry s
  | .exportEntryWrite paddock entry w0 w1 => Sys2Proof.Machine.execExportEntryWrite paddock entry w0 w1 s

end Sys2Proof.Machine
end

