-- ==== Sys2Proof/Machine/Turn.lean ====
section
/-! DEFINITION. One turn of the module: a core's next owned cycle, an instruction of a sequencer, or an event (DESIGN CHOICE, log entry 2);
fetch (R110, R116, R144) and the traps and interrupts a slot takes at an instruction boundary (R263, R362, R394). -/

namespace Sys2Proof.Machine

/-- Do something more to the next state of an answer. -/
def andThen (a : Ans) (f : State → State) : Ans :=
  match a with
  | .next s => .next (f s)
  | .fault e => .fault e
  | .refused r => .refused r

/-! ## Fetch -/

/-- What a fetch gives: an instruction, an illegal encoding, a trap, or a wait. -/
inductive Fetched where
  | wait
  | instr (i : Instr)
  | illegal (bits : BitVec 32)
  | trap (cause : Nat) (value : Word)

/-- The bytes of local memory at `pc`. -/
def State.codeBytes (s : State) (core : Nat) (pc : Word) (n : Nat) : List Byte := s.mem.bytes (Region.local core + pc.toNat) n

/-- Does the halfword at `pc` begin an instruction of four bytes (R109)? -/
def State.wide (s : State) (core : Nat) (pc : Word) : Bool := (s.mem.byte (Region.local core + pc.toNat)).getLsbD 0

/-- Decode `n` bytes. -/
def decodeAt (bs : List Byte) : Fetched :=
  match decodeBytes bs with
  | .ok (i, _) => .instr i
  | .error _ => .illegal (BitVec.ofNat 32 (bytesVal bs))

/-- Fetch for a core (R110, R144, R145): OVERLAY at or above XBOUND, for the whole of an instruction of which a halfword lies
there; cause 1 beyond the address space; POISON for a poisoned word (DEDUCED, log entry 15); a wait while an engine holds a
lock over the bytes (R322); then the decoder. -/
def State.fetch (s : State) (core : Nat) (pc : Word) : Fetched :=
  let bound := (s.core core).xbound.toNat
  let p := pc.toNat
  if bound ≤ p then .trap 24 pc
  else if 2 ^ 20 ≤ p then .trap 1 pc
  else if s.heldAt (.loc core p) 2 then .wait
  else if s.mem.anyPoison (Region.local core + p) 2 then .trap 26 0x80
  else
    let n := if s.wide core pc then 4 else 2
    if n = 4 ∧ bound ≤ p + 2 then .trap 24 pc
    else if 2 ^ 20 < p + n then .trap 1 (BitVec.ofNat 64 (2 ^ 20))
    else if s.heldAt (.loc core p) n then .wait
    else if s.mem.anyPoison (Region.local core + p) n then .trap 26 0x80
    else decodeAt (s.codeBytes core pc n)

/-! ## A thread's turn -/

/-- Does the thread meet its breakpoint (R116)? -/
def Thread.atBreak (t : Thread) : Bool := t.bp != 0 && t.pc == t.bp && !t.bpSkip

/-- An instruction that leaves its thread waiting at the same pc keeps it, to be tried again without another fetch (R147). -/
def State.keepInstr (i : Instr) (pc : Word) (s : State) : State :=
  if s.th.state == .waiting && s.th.wait != some .parked && s.th.pc == pc then s.modTh fun t => { t with ir := some i } else s

/-- The current thread carries out an instruction it has fetched. -/
def runInstr (i : Instr) (s : State) : Ans := andThen (exec i s) (State.keepInstr i s.th.pc)

/-- The current thread issues: the instruction it holds, or breakpoint, fetch, decode, execute (R116, R147). -/
def issueTurn (s : State) : Ans :=
  if s.th.held then .next (s.modTh Thread.stalled)
  else match s.th.ir with
    | some i => runInstr i s
    | none =>
      if s.th.atBreak then .next (s.raise 3 s.th.pc)
      else match s.fetch s.here s.th.pc with
        | .wait => .next (s.modTh fun t => { t with state := .waiting, wait := some .locked })
        | .trap c v => .next (s.raise c v)
        | .illegal bits => execIllegalEncoding bits s
        | .instr i => runInstr i s

/-- MAP_DIVERGE at an instruction boundary (R394). -/
def State.takeDiverge (s : State) (v : Word) : State :=
  let s := s.modTh fun t => { t with diverge := none }
  s.trap s.cur 29 v s.th.pc

/-- The current thread's cycle: an interrupt, a TILE_FAULT or MAP_DIVERGE that is due, else an instruction. A parked slot
takes interrupts alone. -/
def threadTurn (s : State) : Ans :=
  let t := s.th
  if t.irqDue.isSome then execInterruptTake s
  else if t.wait == some .parked then .next s
  else if s.faultDue then execTileFault s
  else match t.diverge, t.spec with
    | some v, none => .next (s.takeDiverge v)
    | _, _ => issueTurn s

/-! ## A core's turn (R29) -/

/-- Does a slot use a cycle it owns? READY slots do, WAITING ones to try again, parked ones for an interrupt. -/
def Thread.awake (t : Thread) : Bool :=
  match t.state with
  | .ready => true
  | .waiting => t.wait != some .parked || t.irqDue.isSome
  | .idle | .haltedNested | .swapped => false

/-- Cycles until a slot of the core is awake in a cycle it owns, if any is. -/
def State.bubbles (s : State) (core : Nat) : Option Nat :=
  (List.range 16).find? fun k => (s.thread (core * 16 + ((s.core core).cycle.toNat + k) % 16)).awake

/-- Count cycles of a core. -/
def State.tick (s : State) (core k : Nat) : State := s.modCore core fun c => { c with cycle := c.cycle + BitVec.ofNat 64 k }

/-- A core whose turn it is skips its bubbles and runs one owned cycle of a thread. -/
def coreTurn (core : Nat) (s : State) : Ans :=
  match s.bubbles core with
  | none => .next (s.tick core 1)
  | some k =>
    let tid := core * 16 + ((s.core core).cycle.toNat + k) % 16
    andThen (threadTurn { s.tick core k with cur := tid }) fun s => s.tick core 1

/-! ## A sequencer's turn (R446, R447) -/

/-- The code bytes at the hart's pc: none outside the running program's image. -/
def State.seqBytes (s : State) (q : Nat) (i : Invocation) (n : Nat) : Option (List Byte) :=
  let pc := (s.seq q).pc.toNat
  match tfind (s.seq q).slots i.slot with
  | none => none
  | some img => if img.load ≤ pc ∧ pc + n ≤ img.load + img.size then some (s.mem.bytes (Region.seq q + pc) n) else none

/-- The instruction word at the hart's pc: a halfword whose two low bits are not both set stands alone. -/
def State.seqFetch (s : State) (q : Nat) (i : Invocation) : Option (BitVec 32) :=
  match s.seqBytes q i 2 with
  | none => none
  | some h =>
    let short := bytesVal h
    if short % 4 ≠ 3 then some (BitVec.ofNat 32 short) else (s.seqBytes q i 4).map fun b => BitVec.ofNat 32 (bytesVal b)

/-- A sequencer runs one instruction of its running invocation: a tack instruction, or a RISC-V instruction. A fetch
outside the image is a RISC-V instruction access fault, cause 1. -/
def seqTurn (q : Nat) (s0 : State) : Ans :=
  let s := { s0 with curSeq := q }
  let x := s.seq q
  match x.queue with
  | [] => .next s
  | i :: _ =>
    if !x.running || x.suspended || x.fail.isSome then .next s
    else match s.seqFetch q i with
      | none => .next (s.failSeq q 2 1 x.pc.toNat)
      | some w => match decodeTack w with
        | .ok j => exec j s
        | .error _ => execSequencerRv64Instruction w s

/-! ## Events the module owes itself -/

/-- The meaning of an owed event. -/
def dutyTurn (d : Duty) (s : State) : Ans :=
  match d with
  | .perform id part => execAccessPerform id part [] s
  | .locate r => execYardAccessForward r s
  | .arrive id => execRemoteResultArrival id none s
  | .grab id => execFeedBinGrab (.own id) s
  | .message id => execMessageDelivery id s
  | .call id => execCallDelivery id s
  | .reply id => execCallReply id s
  | .joined gid => execJoinComplete gid ⟨[], []⟩ s
  | .dissolved gid => execGroupDissolved gid [] s
  | .contribute gid ordinal index any value => execAgreementContribution gid ordinal [index] any value none s
  | .resolve tid slot => execAgreementResolution tid ⟨slot, none⟩ s
  | .drain tid => execPenDrain tid s
  | .release tid => execCommitBufferRelease tid s
  | .record slot core => execActiveMessageArrival (.ingress slot) core s
  | .start core => execContextStart core s
  | .accepted slot => execAcceptWordWrite slot s
  | .ended tid => execContextEnd tid s
  | .probe id => execRecvProbe id s
  | .strike id => execRecvStrike id s
  | .spill core => execSpill core s
  | .walk core va => execPageWalk core (BitVec.ofNat 64 va) s
  | .invalidate core va src => execTlbInvalidation core ⟨va, src⟩ s
  | .copyStart core => execCopyStart core s
  | .copySrc core => execCopySrc core s
  | .copyVis core id => execCopyVis core id s
  | .copyFault core id => execCopyFault core id s
  | .copyRelease core id => execCopyDestinationRelease core id s
  | .tileStart core entry => execTileCommandStart core entry s
  | .tileSource core entry => execTileSourceRelease core entry s
  | .tileDone core entry => execTileCommandComplete core entry s
  | .tileStop core entry done => execTileCommandStop core entry done s
  | .handshake core => execSwapHandshake core none s
  | .unitStart core => execExchangeUnitStart core s
  | .unitDone core => execExchangeUnitComplete core .own s
  | .axisDone core => execAxisCommandComplete core s
  | .yardEnd core => execYardEnd core s
  | .fabricPut src => execFabricPutArrival src s
  | .fabricPuts src => execFabricPutsArrival src s
  | .fabricGet src => execFabricGetArrival src s
  | .fabricRadd src => execFabricRaddArrival src s
  | .respond id r => execFabricResponse id ⟨r, []⟩ s
  | .replica src q => execMulticastReplica q.group q.off src q.reqId q.data s
  | .collect src q => execMulticastLoadCollect q.group q.off src q.reqId s
  | .invoke seq => execInvocationStart seq s
  | .tackDone seq op => execTackOperationPerformed seq op ⟨.landed, none, []⟩ s
  | .armBin id part => execFeedBinArm id part s
  | .disarmBin id part => execFeedBinDisarm id part s
  | .command code => match code with
    | 0x01 => execPaddockSet s
    | 0x02 => execPaddockClear s
    | 0x03 => execPreempt s
    | 0x04 => execSwap s
    | 0x05 => execResume s
    | 0x06 => execThreadEnd s
    | 0x07 => execInterrupt s
    | 0x08 => execHashgrpSet s
    | 0x09 => execMkeyLoad s
    | 0x0A => execFkeyLoad s
    | 0x0B => execPeerSet s
    | 0x0C => execMcastSet s
    | 0x0D => execTackLoad s
    | 0x0E => execDebugAddr s
    | 0x0F => execAttest s
    | 0x10 => execUpdate s
    | _ => .next s.noCommand

/-! ## Whose turn it is (DESIGN CHOICE, log entry 2) -/

/-- The agents with something to run: cores by number, sequencers from 2048 on. -/
def State.agents (s : State) : List Nat :=
  (s.threads.filter fun t => t.2.awake).map (fun t => t.1 / 16) ++
    (s.seqs.filter fun q => q.2.running && !q.2.suspended && q.2.fail.isNone).map (fun q => 2048 + q.1)

/-- The least of a list, if it has one. -/
def leastOf (l : List Nat) : Option Nat := l.foldl (fun m x => some (match m with
  | none => x
  | some y => Nat.min x y)) none

/-- The agent next in rotation. -/
def State.nextAgent (s : State) : Option Nat :=
  match leastOf (s.agents.filter fun a => decide (s.rot ≤ a)) with
  | some a => some a
  | none => leastOf s.agents

/-- The turn of an agent. -/
def agentTurn (a : Nat) (s : State) : Ans := if a < 2048 then coreTurn a s else seqTurn (a - 2048) s

/-- With nothing on the agenda, owed events and agents take turns. Where nothing is left to do, time passes. -/
def freeTurn (s : State) : Ans :=
  match s.due, s.nextAgent with
  | [], none => .next s
  | [], some a => agentTurn a { s with rot := a + 1, netTurn := false }
  | d :: ds, none => dutyTurn d { s with due := ds, netTurn := false }
  | d :: ds, some a =>
    if s.netTurn then dutyTurn d { s with due := ds, netTurn := false }
    else agentTurn a { s with rot := a + 1, netTurn := true }

/-- A turn from the agenda. -/
def givenTurn (t : Turn) (s : State) : Ans :=
  match t with
  | .core c => if s.ready then coreTurn c s else .next s
  | .seq q => if s.ready then seqTurn q s else .next s
  | .event i => exec i s

/-- One turn: the agenda's first, else the boot of a module that is not ready (R488), else a free turn. -/
def turn (s : State) : Ans :=
  match s.agenda with
  | t :: ts => givenTurn t { s with agenda := ts }
  | [] => if !s.ready && !s.recovery then execModuleReset true s else freeTurn s

/-! ## Placing an instruction (DEDUCED, log entry 3) -/

/-- Store code bytes and clear the poison codes of their words. -/
def State.putCode (s : State) (a : Nat) (bs : List Byte) : State :=
  { s with mem := ((s.mem.cleanWord a).cleanWord (a + 3)).putBytes a bs }

/-- A word placed where a core slot fetches next; that slot's cycle is the core's next. -/
def State.placeCore (s : State) (slot : Nat) (bs : List Byte) : State :=
  let pc := (s.thread slot).pc
  let pc := if pc.toNat + 4 ≤ 2 ^ 20 then pc else 0
  let s := (s.putCode (Region.local 0 + pc.toNat) bs).modCore 0 fun c =>
    { c with xbound := BitVec.ofNat 64 (2 ^ 20), cycle := c.cycle + BitVec.ofNat 64 ((slot + 16 - c.cycle.toNat % 16) % 16) }
  let s := s.modThread slot fun t =>
    { t with
        state := .ready, wait := none, pc := pc, ir := none, bp := 0, chain := [], diverge := none, spec := none
        ts := { t.ts with hold := t.ts.hold || t.ts.irqDue.isSome } }
  { s with ready := true, agenda := [.core 0] }

/-- A word placed where sequencer 0 fetches next, as the entry of a loaded image that a running invocation runs. -/
def State.placeSeq (s : State) (bs : List Byte) : State :=
  let img : TackImage := ⟨0x4000, 0x1000, 0x4000, 0, 0, false, false⟩
  let i : Invocation := ⟨0, 0, 0, []⟩
  let s := (s.putCode (Region.seq 0 + 0x4000) bs).modSeq 0 fun x =>
    { x with running := true, suspended := false, fail := none, pc := 0x4000, queue := [i], slots := tset x.slots 0 img }
  { s with ready := true, agenda := [.seq 0] }

/-- Place an opcode-table word: in sequencer 0 where it is a tack instruction, else in core 0, in slot 15 for an
instruction of the CPY class (R34) and in slot 0 for any other. -/
def State.placeWord (s : State) (nbits w : Nat) : State :=
  let bs := tableBytes nbits w
  match decodeTableWord nbits w with
  | some (.cpy ..) => s.placeCore 15 bs
  | some (.cpyBar ..) => s.placeCore 15 bs
  | some i => if i.isTack then s.placeSeq bs else s.placeCore 0 bs
  | none => s.placeCore 0 bs

end Sys2Proof.Machine
end

