-- ==== Sys2Proof/Machine/Step.lean ====
section
/-! DEFINITION. One step of the machine, and an opcode-table word placed where the next step fetches it. -/

namespace Sys2Proof.Machine

/-- One step is one turn (DESIGN CHOICE, log entry 2). -/
def step (s : State) : Host.Outcome State Fault Refusal := turn s

/-- `s` with an opcode-table word placed so that the next step fetches and runs it (DEDUCED, log entry 3). -/
def State.withFetchWord (s : State) (nbits w : Nat) : State := s.placeWord nbits w

end Sys2Proof.Machine
end

