-- ==== Sys2Proof/Safety.lean ====
section
/-! DEFINITION. The terms in which claims about the machine are stated: when the current thread may carry an instruction
out, what an instruction leaves alone, how a thread goes on, and the invariant that every step keeps. -/

namespace Sys2Proof.Machine

/-- A thread as an instruction that writes no system register leaves it: all of it but the slot's state, its place in the
program and the instruction fetched there, its registers and flags, the count of retired instructions and the progress of a run-ahead path. -/
def Thread.rest (t : Thread) : Thread :=
  { t with
      state := .idle, wait := none, pc := 0, s := [], v := [], p := [], fflags := 0, instret := 0, loops := [], ldep := 0
      bpSkip := false, ir := none, spec := none }

/-- The current thread may carry out an instruction with predicate `p` that reads `uses` and writes `defs` (R116, R137,
R138): its path is not held, the predicate is on, no register is pending and no source is poisoned. -/
structure Ready (s : State) (p : PredNo) (uses defs : List RName) : Prop where
  held    : s.th.held = false
  on      : (s.pv p).getLsbD 0 = true
  pending : ∀ r ∈ uses ++ defs, s.th.pending r = false
  clean   : ∀ r ∈ uses, s.th.poisonOf r = none

/-- What an instruction leaves alone that writes no more than the scalar registers `ds`, the vector registers `dv` and the
predicates `dp` of its own thread: every byte of memory, every other part of the module, every other thread, every other
register, and every system register of the thread. -/
structure Frame (s t : State) (ds dv dp : List Nat) : Prop where
  memory  : ∀ a, t.mem.byte a = s.mem.byte a
  module  : t = { s with threads := t.threads }
  others  : ∀ k, k ≠ s.cur → t.thread k = s.thread k
  system  : t.th.rest = s.th.rest
  scalars : ∀ r, r ∉ ds → t.th.sreg r = s.th.sreg r
  vectors : ∀ r, r ∉ dv → t.th.vreg r = s.th.vreg r
  preds   : ∀ r, r ∉ dp → t.th.pred r = s.th.pred r

/-- The current thread has retired an instruction and goes on where `u` stands: its slot is ready, one more instruction
counts as retired (R141), and its pc and loop stack are those of `u`. -/
structure GoesOn (s t : State) (u : Thread) : Prop where
  state   : t.th.state = .ready
  wait    : t.th.wait = none
  instret : t.th.instret = s.th.instret + 1
  pc      : t.th.pc = u.pc
  loops   : t.th.loops = u.loops
  ldep    : t.th.ldep = u.ldep

/-- The current thread goes on at the next instruction, `len` bytes on, or at the start of a loop that ends there (R153). -/
def Advances (s t : State) (len : Nat) : Prop := GoesOn s t (s.th.seqTo (s.th.pc + BitVec.ofNat 64 len))

/-- Scalar register `d` holds `v`, clean and arrived; s0 stays zero (R135). -/
def HoldsS (t : State) (d : RegNo) (v : Word) : Prop := t.th.sreg d.toNat = if d = 0 then Reg.zero else ⟨v, false, false, 0⟩

/-- Vector register `d` holds `v`, clean and arrived. -/
def HoldsV (t : State) (d : Nat) (v : Vec) : Prop := t.th.vreg d = ⟨v, false, false, 0⟩

/-- Predicate `d` holds `v`; p0 stays all ones (R135). -/
def HoldsP (t : State) (d : PredNo) (v : Word) : Prop := t.th.pred d.toNat = if d = 0 then BitVec.allOnes 64 else v

/-- An instruction completes with a scalar result: it writes `v` to register `d`, goes on behind itself, raises the flags
`fl`, and leaves everything else alone. -/
def ScalarResult (i : Instr) (s : State) (d : RegNo) (v : Word) (fl : Flags) : Prop :=
  ∃ t, exec i s = .next t ∧ HoldsS t d v ∧ t.th.fflags = s.th.fflags ||| fl ∧ Advances s t i.len ∧ Frame s t [d.toNat] [] []

/-- An instruction completes with a vector result. -/
def VectorResult (i : Instr) (s : State) (d : Nat) (v : Vec) (fl : Flags) : Prop :=
  ∃ t, exec i s = .next t ∧ HoldsV t d v ∧ t.th.fflags = s.th.fflags ||| fl ∧ Advances s t i.len ∧ Frame s t [] [d] []

/-- An instruction completes with a predicate result. -/
def PredResult (i : Instr) (s : State) (d : PredNo) (v : Word) (fl : Flags) : Prop :=
  ∃ t, exec i s = .next t ∧ HoldsP t d v ∧ t.th.fflags = s.th.fflags ||| fl ∧ Advances s t i.len ∧ Frame s t [] [] [d.toNat]

/-- An instruction completes by a taken transfer to `target`, writing nothing but register `ds`. -/
def Jumps (i : Instr) (s : State) (target : Word) (ds : List Nat) : Prop :=
  ∃ t, exec i s = .next t ∧ GoesOn s t (s.th.jumpTo target) ∧ t.th.fflags = s.th.fflags ∧ Frame s t ds [] []

/-- An instruction completes with no effect but to go on. -/
def JustAdvances (i : Instr) (s : State) : Prop :=
  ∃ t, exec i s = .next t ∧ Advances s t i.len ∧ t.th.fflags = s.th.fflags ∧ Frame s t [] [] []

/-- The instruction takes a synchronous exception with no other effect. -/
def Traps (i : Instr) (s : State) (cause : Nat) (value : Word) : Prop :=
  exec i s = .next (s.trap s.cur cause value s.th.pc)

/-- The .d form of an operation on two words, or its .w form on their low halves, sign-extended (R159). -/
def wForm (w : Bool) (f : (n : Nat) → BitVec n → BitVec n → BitVec n) (x y : Word) : Word :=
  if w then (f 32 (x.setWidth 32) (y.setWidth 32)).signExtend 64 else f 64 x y

/-- Memory outside the places `[a, a + n)` is as before: every byte there reads the same, and every aligned word that does not
lie wholly in them has its poison code, or none, as before. -/
structure KeepsOutside (s t : State) (a n : Nat) : Prop where
  bytes  : ∀ c, c < a ∨ a + n ≤ c → t.mem.byte c = s.mem.byte c
  poison : ∀ c, c / 8 * 8 < a ∨ a + n < c / 8 * 8 + 8 → t.mem.poisoned c = s.mem.poisoned c

/-- What an instruction leaves alone that, beside the scalar registers `ds` of its own thread, writes at most the `n` bytes of
memory from place `a` on: every other byte, every other register and thread, and the rest of the module. -/
structure MemFrame (s t : State) (ds : List Nat) (a n : Nat) : Prop where
  memory  : KeepsOutside s t a n
  module  : t = { s with threads := t.threads, mem := t.mem }
  others  : ∀ k, k ≠ s.cur → t.thread k = s.thread k
  system  : t.th.rest = s.th.rest
  flags   : t.th.fflags = s.th.fflags
  scalars : ∀ r, r ∉ ds → t.th.sreg r = s.th.sreg r
  vectors : ∀ r, t.th.vreg r = s.th.vreg r
  preds   : ∀ r, t.th.pred r = s.th.pred r

/-- No earlier access or fabric operation of the current thread is under way, and it runs no path and holds no store. -/
structure Settled (s : State) : Prop where
  path    : s.th.spec = none
  pen     : s.th.pen = []
  flights : ∀ f ∈ s.flights, f.tid ≠ s.cur
  fabric  : ∀ o ∈ s.fabops, o.tid ≠ s.cur

/-- Address `a` names `n` bytes of the private alias that the current thread may read and write now: aligned (R202), not
below XBOUND in user mode (R146), under no lock (R322), and without a poison code (R293). -/
structure Reaches (s : State) (a n : Nat) : Prop where
  inside  : a + n ≤ 2 ^ 20
  aligned : a % n = 0
  allowed : s.th.ts.sup = false → (s.core s.here).xbound.toNat ≤ a
  free    : s.heldAt (.loc s.here a) n = false
  clean   : s.mem.anyPoison (Region.local s.here + a) n = false

/-- No thread watches the doubleword of this core's local memory that holds address `a`. -/
def Unwatched (s : State) (a : Nat) : Prop :=
  ∀ c ∈ s.cores, ∀ w ∈ c.2.watches, w.place.flat ≠ (Place.loc s.here (a / 8 * 8)).flat

/-- No thread of the module watches any place. -/
def NoWatches (s : State) : Prop := ∀ c ∈ s.cores, c.2.watches = []

/-- The instruction makes its thread wait under the label `w`, with no other effect but that it is no longer ready. -/
def Waits (i : Instr) (s : State) (w : Wait) : Prop :=
  exec i s = .next (s.modTh fun t => { t with state := .waiting, wait := some w })

/-- Element `j` of the stripe of yard `y` as it stands in the slice of core `c`. -/
def State.stripe (s : State) (c : Nat) (y : Yard) (j : Nat) : Nat :=
  s.mem.read (Region.slice c (y.base + j * 2 ^ y.ty.log)) (2 ^ y.ty.log)

/-- The stripe of yard `y` lies wholly in the slice of core `c`, clean, and no thread watches any place. -/
structure Resident (s : State) (c : Nat) (y : Yard) : Prop where
  lines   : ∀ j, j < 2 ^ y.l → ∃ x ∈ s.lines, x.home = c ∧ x.pa = (y.base + j * 2 ^ y.ty.log) / 256 * 256
  keys    : ∀ x ∈ s.lines, x.home = c → x.key = 0
  clean   : ∀ j, j < 2 ^ y.l → s.mem.anyPoison (Region.slice c (y.base + j * 2 ^ y.ty.log)) (2 ^ y.ty.log) = false
  aligned : y.base % 8 = 0
  inside  : y.base + 2 ^ y.l * 2 ^ y.ty.log ≤ 2 ^ 41
  watches : NoWatches s

/-- The current thread is a live member of the yard of its core, whose group stands and which has not diverged (R404). -/
structure YardMember (s : State) (k : Nat) : Prop where
  member : s.th.memberOf (s.core s.here).yard.gid = some k
  cfg    : (s.core s.here).yard.cfg = true
  live   : (s.th.mem k).diss = false
  whole  : (s.core s.here).yard.div = none
  alive  : (s.core s.here).yard.dead = false

/-- Every register of every thread stands as before. -/
def SameRegs (s t : State) : Prop :=
  ∀ k r, (t.thread k).sreg r = (s.thread k).sreg r ∧ (t.thread k).vreg r = (s.thread k).vreg r ∧
    (t.thread k).pred r = (s.thread k).pred r

/-- The sequencer whose turn it is runs invocation `i` (R453), with `rest` behind it in the queue. -/
structure Runs (s : State) (i : Invocation) (rest : List Invocation) : Prop where
  queue   : (s.seq s.curSeq).queue = i :: rest
  running : (s.seq s.curSeq).running = true
  awake   : (s.seq s.curSeq).suspended = false
  whole   : (s.seq s.curSeq).fail = none

/-- Its hart has retired an instruction of `len` bytes: pc and count move on, and of its registers only `ds` may change. -/
structure HartGoes (s t : State) (len : Nat) (ds : List Nat) : Prop where
  pc      : (t.seq s.curSeq).pc = (s.seq s.curSeq).pc + BitVec.ofNat 64 len
  instret : (t.seq s.curSeq).instret = (s.seq s.curSeq).instret + 1
  regs    : ∀ r, r ∉ ds → (t.seq s.curSeq).xr r = (s.seq s.curSeq).xr r
  fregs   : (t.seq s.curSeq).f = (s.seq s.curSeq).f
  vregs   : (t.seq s.curSeq).v = (s.seq s.curSeq).v

/-- The bytes `[a, a + n)` of the private alias of a core are whole words, free, clean and unwatched. -/
structure Area (s : State) (core a n : Nat) : Prop where
  aligned : a % 8 = 0
  whole   : n % 8 = 0
  inside  : a + n ≤ 2 ^ 20
  free    : ∀ k, k < n / 8 → s.heldAt (.loc core (a + 8 * k)) 8 = false
  clean   : s.mem.anyPoison (Region.local core + a) n = false
  watches : NoWatches s

/-- The invariant of the module: its memory has the canonical form, so that equal memories are equal data. -/
def State.Inv (s : State) : Prop := s.mem.wf = true

end Sys2Proof.Machine
end

