-- ==== Sys2Proof/Certificates/Slice0/Obligations.lean ====
section
/-! DEFINITION. The statements for the provers, one per claim, each citing the rule of the spec it follows. -/

open Sys2Proof Sys2Proof.Machine

/-- The arithmetic, logic, product and bound instructions write their results (R155, R156, R158, R159). For every state
whose thread is ready for it, each of add, sub, and, or, xor, slt and sltu, in its .d and its .w form, and andn and
orn, answers a next state in which d holds the result of R158 and R159 (s0 stays zero), the thread has advanced, no
flag has changed and everything else stands as before. For every ready state mul writes the low, mulh and mulhu the
high half of the product of two signed or unsigned words, and min, max, minu and maxu the lesser or greater operand
as signed or unsigned numbers; nothing else changes but the thread going on. -/
def Obligations.ScalarArithmetic : Prop :=
  (∀ (s : State) (w : Bool) (p : PredNo) (d a b : RegNo), Ready s p [.s a.toNat, .s b.toNat] [.s d.toNat] →
      ScalarResult (.add w p d a b) s d (wForm w (fun _ x y => x + y) (s.sv a) (s.sv b)) 0 ∧
      ScalarResult (.sub w p d a b) s d (wForm w (fun _ x y => x - y) (s.sv a) (s.sv b)) 0 ∧
      ScalarResult (.and w p d a b) s d (wForm w (fun _ x y => x &&& y) (s.sv a) (s.sv b)) 0 ∧
      ScalarResult (.or w p d a b) s d (wForm w (fun _ x y => x ||| y) (s.sv a) (s.sv b)) 0 ∧
      ScalarResult (.xor w p d a b) s d (wForm w (fun _ x y => x ^^^ y) (s.sv a) (s.sv b)) 0 ∧
      ScalarResult (.slt w p d a b) s d (wForm w (fun _ x y => if x.toInt < y.toInt then 1 else 0) (s.sv a) (s.sv b)) 0 ∧
      ScalarResult (.sltu w p d a b) s d (wForm w (fun _ x y => if x.toNat < y.toNat then 1 else 0) (s.sv a) (s.sv b)) 0 ∧
      ScalarResult (.andn p d a b) s d (s.sv a &&& ~~~s.sv b) 0 ∧
      ScalarResult (.orn p d a b) s d (s.sv a ||| ~~~s.sv b) 0) ∧
    (∀ (s : State) (p : PredNo) (d a b : RegNo), Ready s p [.s a.toNat, .s b.toNat] [.s d.toNat] →
      ScalarResult (.mul p d a b) s d (s.sv a * s.sv b) 0 ∧
      ScalarResult (.mulh p d a b) s d (BitVec.ofInt 64 ((s.sv a).toInt * (s.sv b).toInt / 2 ^ 64)) 0 ∧
      ScalarResult (.mulhu p d a b) s d (BitVec.ofNat 64 ((s.sv a).toNat * (s.sv b).toNat / 2 ^ 64)) 0 ∧
      ScalarResult (.min p d a b) s d (if (s.sv a).toInt < (s.sv b).toInt then s.sv a else s.sv b) 0 ∧
      ScalarResult (.max p d a b) s d (if (s.sv a).toInt < (s.sv b).toInt then s.sv b else s.sv a) 0 ∧
      ScalarResult (.minu p d a b) s d (if (s.sv a).toNat < (s.sv b).toNat then s.sv a else s.sv b) 0 ∧
      ScalarResult (.maxu p d a b) s d (if (s.sv a).toNat < (s.sv b).toNat then s.sv b else s.sv a) 0)

/-- Shifts, rotates, bit manipulation and the immediate forms write their results (R158, R159, R163, R161, R162, R164,
R155). For every state whose thread is ready for it, shl, shr, sar, rol and ror, in both forms, and shli, shri, sari
and rori with a legal amount, answer a next state in which d holds the shift or rotation of R158 by the amount
modulo 64, or modulo 32 in the .w form, sign-extended; nothing else changes but the thread going on. For every ready
state popc counts the ones, clz and ctz the leading and trailing zeros (of the low half in the .w form; the width
where there is no one), brev and bswap reverse bits and bytes: each in terms of the bits of the operand. bfx
extracts the field at P of W bits, and bfi inserts one, a field past bit 63 losing its upper part. For every ready
state the immediate majors write d as R162 and R164 say: addi, andi and slti sign-extend the immediate, ori and xori
zero-extend it, lhi writes it times 2^16 and addpc adds it to the pc; nothing else changes but the thread going on. -/
def Obligations.ShiftsAndBits : Prop :=
  (∀ (s : State) (w : Bool) (p : PredNo) (d a b : RegNo) (k : BitVec 6),
      (Ready s p [.s a.toNat, .s b.toNat] [.s d.toNat] →
        ScalarResult (.shl w p d a b) s d (wForm w (fun n x y => x <<< (y.toNat % n)) (s.sv a) (s.sv b)) 0 ∧
        ScalarResult (.shr w p d a b) s d (wForm w (fun n x y => x >>> (y.toNat % n)) (s.sv a) (s.sv b)) 0 ∧
        ScalarResult (.sar w p d a b) s d (wForm w (fun n x y => x.sshiftRight (y.toNat % n)) (s.sv a) (s.sv b)) 0 ∧
        ScalarResult (.rol w p d a b) s d
          (wForm w (fun n x y => x <<< (y.toNat % n) ||| x >>> (n - y.toNat % n)) (s.sv a) (s.sv b)) 0 ∧
        ScalarResult (.ror w p d a b) s d
          (wForm w (fun n x y => x >>> (y.toNat % n) ||| x <<< (n - y.toNat % n)) (s.sv a) (s.sv b)) 0) ∧
      (Ready s 0 [.s a.toNat] [.s d.toNat] → (w = true → k.toNat < 32) →
        ScalarResult (.shli w k d a) s d (wForm w (fun _ x _ => x <<< k.toNat) (s.sv a) 0) 0 ∧
        ScalarResult (.shri w k d a) s d (wForm w (fun _ x _ => x >>> k.toNat) (s.sv a) 0) 0 ∧
        ScalarResult (.sari w k d a) s d (wForm w (fun _ x _ => x.sshiftRight k.toNat) (s.sv a) 0) 0 ∧
        ScalarResult (.rori w k d a) s d (wForm w (fun n x _ => x >>> k.toNat ||| x <<< (n - k.toNat)) (s.sv a) 0) 0)) ∧
    (∀ (s : State) (w : Bool) (p : PredNo) (d a b : RegNo),
      let x := s.sv a
      let n := if w then 32 else 64
      let P := (s.sv b).toNat % 64
      let W := (s.sv b).toNat / 256 % 64 + 1
      (Ready s p [.s a.toNat] [.s d.toNat] →
        (∃ v : Word, ScalarResult (.popc w p d a) s d v 0 ∧ v.toNat = ((List.range n).filter fun i => x.getLsbD i).length) ∧
        (∃ v : Word, ScalarResult (.clz w p d a) s d v 0 ∧ v.toNat ≤ n ∧ (∀ i, n - v.toNat ≤ i → i < n → x.getLsbD i = false) ∧
          (v.toNat < n → x.getLsbD (n - 1 - v.toNat) = true)) ∧
        (∃ v : Word, ScalarResult (.ctz w p d a) s d v 0 ∧ v.toNat ≤ n ∧ (∀ i, i < v.toNat → x.getLsbD i = false) ∧
          (v.toNat < n → x.getLsbD v.toNat = true)) ∧
        (∃ v : Word, ScalarResult (.brev p d a) s d v 0 ∧ ∀ i, i < 64 → v.getLsbD i = x.getLsbD (63 - i)) ∧
        (∃ v : Word, ScalarResult (.bswap p d a) s d v 0 ∧
          ∀ i k, i < 8 → k < 8 → v.getLsbD (8 * i + k) = x.getLsbD (8 * (7 - i) + k))) ∧
      (Ready s p [.s a.toNat, .s b.toNat] [.s d.toNat] →
        ∃ v : Word, ScalarResult (.bfx p d a b) s d v 0 ∧ ∀ i, i < 64 → v.getLsbD i = (decide (i < W) && x.getLsbD (P + i))) ∧
      (Ready s p [.s a.toNat, .s b.toNat, .s d.toNat] [.s d.toNat] →
        ∃ v : Word, ScalarResult (.bfi p d a b) s d v 0 ∧
          ∀ i, i < 64 → v.getLsbD i = if P ≤ i ∧ i < P + W then x.getLsbD (i - P) else (s.sv d).getLsbD i)) ∧
    (∀ (s : State) (d a : RegNo) (i : BitVec 16) (u : BitVec 21),
      (Ready s 0 [.s a.toNat] [.s d.toNat] →
        ScalarResult (.addi d a i) s d (s.sv a + i.signExtend 64) 0 ∧
        ScalarResult (.andi d a i) s d (s.sv a &&& i.signExtend 64) 0 ∧
        ScalarResult (.ori d a i) s d (s.sv a ||| i.setWidth 64) 0 ∧
        ScalarResult (.xori d a i) s d (s.sv a ^^^ i.setWidth 64) 0 ∧
        ScalarResult (.slti d a i) s d (if (s.sv a).toInt < i.toInt then 1 else 0) 0) ∧
      (Ready s 0 [] [.s d.toNat] →
        ScalarResult (.lhi d u) s d (BitVec.ofInt 64 (u.toInt * 2 ^ 16)) 0 ∧
        ScalarResult (.addpc d u) s d (s.th.pc + u.signExtend 64) 0))

/-- div, divu, rem and remu, their corners included (R160). For every ready state div and rem give the quotient
truncated toward zero and the remainder with the sign of the dividend, divu and remu the unsigned ones. Division by
zero writes all ones or the dividend, and the quotient of −2^63 and −1 is −2^63 with remainder 0. -/
def Obligations.Division : Prop :=
  ∀ (s : State) (p : PredNo) (d a b : RegNo), Ready s p [.s a.toNat, .s b.toNat] [.s d.toNat] →
    let x := s.sv a
    let y := s.sv b
    (y = 0 → ScalarResult (.div p d a b) s d (BitVec.allOnes 64) 0 ∧ ScalarResult (.divu p d a b) s d (BitVec.allOnes 64) 0 ∧
      ScalarResult (.rem p d a b) s d x 0 ∧ ScalarResult (.remu p d a b) s d x 0) ∧
    (x.toInt = -2 ^ 63 → y.toInt = -1 → ScalarResult (.div p d a b) s d x 0 ∧ ScalarResult (.rem p d a b) s d 0 0) ∧
    (y ≠ 0 → ¬ (x.toInt = -2 ^ 63 ∧ y.toInt = -1) →
      ScalarResult (.div p d a b) s d (BitVec.ofInt 64 (x.toInt.tdiv y.toInt)) 0 ∧
      ScalarResult (.rem p d a b) s d (BitVec.ofInt 64 (x.toInt - x.toInt.tdiv y.toInt * y.toInt)) 0) ∧
    (y ≠ 0 → ScalarResult (.divu p d a b) s d (BitVec.ofNat 64 (x.toNat / y.toNat)) 0 ∧
      ScalarResult (.remu p d a b) s d (BitVec.ofNat 64 (x.toNat % y.toNat)) 0)

/-- Branches, jumps and links (R166, R122, R167). For every ready state a branch whose condition holds goes to pc + 2 ×
offset where that lies below 2^20 and traps with cause 1 and the target in TVAL where it does not; one whose
condition fails goes on at pc + 4. Nothing else changes. For every ready state jal goes to pc + 2 × imm and jalr to
a + imm, with pc + 4 written to d after a is read. A target at or above 2^20 traps with cause 1, an odd target of
jalr with cause 0, each with the target in TVAL. -/
def Obligations.ControlTransfers : Prop :=
  (∀ (s : State) (a b : RegNo) (q : PredNo) (off : BitVec 12),
      let x := s.sv a
      let y := s.sv b
      let target := s.th.pc + off.signExtend 64 <<< 1
      let branches := fun (i : Instr) (c : Prop) =>
        (c → target.toNat < 2 ^ 20 → Jumps i s target []) ∧
        (c → 2 ^ 20 ≤ target.toNat → s.th.spec = none → Traps i s 1 target) ∧
        (¬ c → JustAdvances i s)
      (Ready s 0 [.s a.toNat, .s b.toNat] [] →
        branches (.beq a b off) (x = y) ∧ branches (.bne a b off) (x ≠ y) ∧
        branches (.blt a b off) (x.toInt < y.toInt) ∧ branches (.bge a b off) (y.toInt ≤ x.toInt) ∧
        branches (.bltu a b off) (x.toNat < y.toNat) ∧ branches (.bgeu a b off) (y.toNat ≤ x.toNat) ∧
        branches (.bbs a b off) (x.getLsbD (y.toNat % 64) = true) ∧ branches (.bbc a b off) (x.getLsbD (y.toNat % 64) = false)) ∧
      (Ready s 0 [] [] →
        branches (.bany q off) (s.pv q ≠ 0) ∧ branches (.ball q off) (s.pv q = BitVec.allOnes 64) ∧ branches (.bnone q off) (s.pv q = 0))) ∧
    (∀ (s : State) (d a : RegNo) (u : BitVec 21) (i : BitVec 16),
      let tj := s.th.pc + u.signExtend 64 <<< 1
      let tr := s.sv a + i.signExtend 64
      let links := fun (j : Instr) (t : Word) =>
        ∃ t', exec j s = .next t' ∧ HoldsS t' d (s.th.pc + 4) ∧ GoesOn s t' (s.th.jumpTo t) ∧ t'.th.fflags = s.th.fflags ∧
          Frame s t' [d.toNat] [] []
      (Ready s 0 [] [.s d.toNat] →
        (tj.toNat < 2 ^ 20 → links (.jal d u) tj) ∧ (2 ^ 20 ≤ tj.toNat → s.th.spec = none → Traps (.jal d u) s 1 tj)) ∧
      (Ready s 0 [.s a.toNat] [.s d.toNat] →
        (tr.getLsbD 0 = false → tr.toNat < 2 ^ 20 → links (.jalr d a i) tr) ∧
        (tr.getLsbD 0 = true → s.th.spec = none → Traps (.jalr d a i) s 0 tr) ∧
        (tr.getLsbD 0 = false → 2 ^ 20 ≤ tr.toNat → s.th.spec = none → Traps (.jalr d a i) s 1 tr)))

/-- An instruction whose predicate is off only advances (R116, R175). For every state in which the thread is not held
and bit 0 of predicate p is 0, each of 66 predicated scalar, memory, message, fabric and system instructions answers
a next state that differs only in the thread having gone on behind the instruction, whether its sources are pending
or poisoned or not. The supervisor instructions ctxs, ctxr and tinv do so in supervisor mode, and cpy and cpy.bar in
slot 15. -/
def Obligations.PredicateOffAdvances : Prop :=
  ∀ (s : State) (w po zx : Bool) (wd : Width) (m : BitVec 3) (f : MxFmt) (p : PredNo) (off : BitVec 8) (d a b : RegNo),
    s.th.held = false → (s.pv p).getLsbD 0 = false →
    (∀ i ∈ [.add w p d a b, .sub w p d a b, .and w p d a b, .or w p d a b, .xor w p d a b, .shl w p d a b, .shr w p d a b,
      .sar w p d a b, .slt w p d a b, .sltu w p d a b, .mul p d a b, .mulh p d a b, .mulhu p d a b, .div p d a b, .divu p d a b,
      .rem p d a b, .remu p d a b, .min p d a b, .max p d a b, .minu p d a b, .maxu p d a b, .popc w p d a, .clz w p d a,
      .ctz w p d a, .brev p d a, .bfx p d a b, .bfi p d a b, .andn p d a b, .orn p d a b, .rol w p d a b, .ror w p d a b,
      .bswap p d a, .ld p off .page zx wd d a, .st p off .page wd a b, .amoswap p po .page w d a b, .amoadd p po .page w d a b,
      .amoand p po .page w d a b, .amoor p po .page w d a b, .amoxor p po .page w d a b, .amomin p po .page w d a b,
      .amomax p po .page w d a b, .amominu p po .page w d a b, .amomaxu p po .page w d a b, .amocas p .page w d a b,
      .amofadd p po .page d a b, .fence p a, .fenceLb p, .watch p .eq a b, .barArr p a, .barWait p a b, .mput p a m, .mget p d m,
      .wait p .all, .twaitSrc p a, .twaitVis p a, .vext p wd d a b, .vpack p f .rne d a, .vunpk p f d a b, .sendm p a b,
      .recvm p d a, .rcall p d a b, .rret p d a b, .rgrab p d a, .put p d a, .puts p d a b, .get p d a, .radd p d a b,
      .coll p d a b, .exit p, .trap p],
      JustAdvances i s) ∧
    (s.th.ts.sup = true → ∀ i ∈ [.ctxs p a, .ctxr p false a, .ctxr p true a, .tinv p a b], JustAdvances i s) ∧
    (s.cur % 16 = 15 → ∀ i ∈ [.cpy p a b d, .cpyBar p a b d], JustAdvances i s)

/-- The checks at issue: privilege, slot 15, pending and poisoned registers (R116, R267, R330, R258, R31, R137, R33,
R138, R260). For every state whose thread is not held and runs no path ahead, the supervisor instructions tret,
ctxs, ctxr and tinv in user mode take cause 2 with the instruction bits in TVAL, whatever their predicate, and a cpy
or cpy.bar in another slot than 15 takes cause 49 with its bits. For every state in which the thread is not held,
the predicate is on and a source or destination register of add, sub, xor, mul or min is pending, the instruction
answers a next state in which the thread waits for it: its pc, its registers and every other part of the module are
as before. That it waits even where another source is poisoned is the reading of the model (DEDUCED, log entry 14).
For every state in which the thread is not held and runs no path, the predicate is on, no register of the
instruction is pending and its first source register is poisoned, add, or, div and slt take cause 26. TVAL holds the
register number, plus 64 and the refusal subcode in bits 63:56 where the register has one. That TVAL names the first
source where several are poisoned is the reading of the model (DEDUCED, log entry 14). -/
def Obligations.IssueChecks : Prop :=
  (∀ (s : State) (p : PredNo) (h : Bool) (d a b : RegNo), s.th.held = false → s.th.spec = none →
      (s.th.ts.sup = false → ∀ i ∈ [.tret p, .ctxs p a, .ctxr p h a, .tinv p a b], Traps i s 2 (bitsVal i)) ∧
      (s.cur % 16 ≠ 15 → ∀ i ∈ [.cpy p a b d, .cpyBar p a b d], Traps i s 49 (bitsVal i))) ∧
    (∀ (s : State) (w : Bool) (p : PredNo) (d a b : RegNo), s.th.held = false → (s.pv p).getLsbD 0 = true →
      (s.th.pending (.s a.toNat) || s.th.pending (.s b.toNat) || s.th.pending (.s d.toNat)) = true →
      ∀ i ∈ [Instr.add w p d a b, .sub w p d a b, .xor w p d a b, .mul p d a b, .min p d a b],
        ∃ t, exec i s = .next t ∧ t.th = { s.th with state := .waiting, wait := some .register } ∧ Frame s t [] [] []) ∧
    (∀ (s : State) (p : PredNo) (d a b : RegNo), s.th.held = false → s.th.spec = none → (s.pv p).getLsbD 0 = true →
      (∀ r ∈ [a, b, d], s.th.pending (.s r.toNat) = false) → (s.th.sreg a.toNat).poison = true →
      let sub := (s.th.sreg a.toNat).sub
      let value : Word := BitVec.ofNat 64 (a.toNat + (if sub = 0 then 0 else 64 + sub.toNat * 2 ^ 56))
      ∀ i ∈ [Instr.add false p d a b, .or false p d a b, .div p d a b, .slt false p d a b], Traps i s 26 value)

/-- Hardware loops are pushed, run again and end (R168, R170, R171, R152, R169, R151, R153). For every ready state and a
length of 1 to 1,023, loopi takes cause 2 where its end lies behind that of the innermost loop of the mode, or where
it counts and the stack holds four entries. Else with count 0 it goes on at its end as R153 says, and with a count
it pushes the entry (pc + 4, pc + 4 + 2 × length, count, mode) and goes on at pc + 4. Nothing else changes. LBEG and
LEND keep bits 19:1 of those sums (past 2^20 this is a choice of the model: log entry 29). For every ready state
with no path, in which a shape record in the private alias at a reads well, loops takes SHAPE with a in TVAL where
dim is no dimension of it. Else, where it may nest, it writes N[dim] to d and, if that is not 0, pushes the loop and
goes on at pc + 4; with 0 it goes on at its end. LBEG and LEND keep bits 19:1 (past 2^20 this is a choice of the
model: log entry 29). For every ready state in which the innermost loop entry was pushed in the current mode and
ends right behind a ready add, the count is decremented: above 0 the thread goes on at LBEG with the entry kept,
else the entry is popped and the test is made of the next one. Where the innermost entry is of the other mode or
does not end there, the thread goes on behind the add and the stack stays. -/
def Obligations.HardwareLoops : Prop :=
  (∀ (s : State) (len : BitVec 10) (count : BitVec 15), Ready s 0 [] [] → s.th.spec = none → len ≠ 0 →
      let first := s.th.pc + 4
      let last := first + len.setWidth 64 <<< 1
      let outside := ∃ e, s.th.innermost s.th.ldep = some e ∧ e.lend < last
      ((outside ∨ (count ≠ 0 ∧ 4 ≤ s.th.ldep)) → Traps (.loopi len count) s 2 (bitsVal (.loopi len count))) ∧
      (¬ outside → count = 0 →
        ∃ t, exec (.loopi len count) s = .next t ∧ GoesOn s t (s.th.seqTo last) ∧ t.th.fflags = s.th.fflags ∧ Frame s t [] [] []) ∧
      (¬ outside → count ≠ 0 → s.th.ldep < 4 →
        ∃ t, exec (.loopi len count) s = .next t ∧ t.th.state = .ready ∧ t.th.pc = first ∧ t.th.instret = s.th.instret + 1 ∧
          t.th.ldep = s.th.ldep + 1 ∧ t.th.loop s.th.ldep = ⟨first &&& 0xFFFFE, last &&& 0xFFFFE, count.setWidth 32, s.th.ts.sup⟩ ∧
          (∀ k, k ≠ s.th.ldep → t.th.loop k = s.th.loop k) ∧ t.th.fflags = s.th.fflags ∧ Frame s t [] [] [])) ∧
    (∀ (s : State) (len : BitVec 10) (dim : BitVec 2) (d a : RegNo) (r : Shape), Ready s 0 [.s a.toNat] [.s d.toNat] →
      s.th.spec = none → len ≠ 0 → s.readShape (s.sv a).toNat = .ok r s →
      let i : Instr := .loops len dim d a
      let first := s.th.pc + 4
      let last := first + len.setWidth 64 <<< 1
      let c := r.n.getD dim.toNat 0
      let inside := ∀ e, s.th.innermost s.th.ldep = some e → last ≤ e.lend
      (r.rank ≤ dim.toNat → Traps i s 25 (s.sv a)) ∧
      (dim.toNat < r.rank → (¬ inside ∨ (c ≠ 0 ∧ 4 ≤ s.th.ldep)) → Traps i s 2 (bitsVal i)) ∧
      (dim.toNat < r.rank → inside → c = 0 →
        ∃ t, exec i s = .next t ∧ HoldsS t d 0 ∧ GoesOn s t (s.th.seqTo last) ∧ t.th.fflags = s.th.fflags ∧ Frame s t [d.toNat] [] []) ∧
      (dim.toNat < r.rank → inside → c ≠ 0 → s.th.ldep < 4 →
        ∃ t, exec i s = .next t ∧ HoldsS t d (BitVec.ofNat 64 c) ∧ t.th.state = .ready ∧ t.th.pc = first ∧
          t.th.instret = s.th.instret + 1 ∧ t.th.ldep = s.th.ldep + 1 ∧
          t.th.loop s.th.ldep = ⟨first &&& 0xFFFFE, last &&& 0xFFFFE, BitVec.ofNat 32 c, s.th.ts.sup⟩ ∧
          (∀ k, k ≠ s.th.ldep → t.th.loop k = s.th.loop k) ∧ t.th.fflags = s.th.fflags ∧ Frame s t [d.toNat] [] [])) ∧
    (∀ (s : State) (p : PredNo) (d a b : RegNo) (n : Nat), Ready s p [.s a.toNat, .s b.toNat] [.s d.toNat] → s.th.ldep = n + 1 →
      let e := s.th.loop n
      ∃ t, exec (.add false p d a b) s = .next t ∧
        (e.sup = s.th.ts.sup ∧ s.th.pc + 4 = e.lend →
          t.th.loop n = { e with lcnt := e.lcnt - 1 } ∧
          (1 < e.lcnt.toNat → t.th.pc = e.lbeg ∧ t.th.ldep = n + 1) ∧
          (e.lcnt.toNat ≤ 1 → t.th.ldep ≤ n ∧ (n = 0 → t.th.pc = s.th.pc + 4))) ∧
        (¬ (e.sup = s.th.ts.sup ∧ s.th.pc + 4 = e.lend) → t.th.pc = s.th.pc + 4 ∧ t.th.ldep = n + 1 ∧ t.th.loops = s.th.loops))

/-- Integer, saturating and bitwise vector operations, lane by lane (R174, R175, R180, R124, R72, R183). For every lane
width of 1, 2, 4 or 8 bytes, predicate, old value and lane function with results of that width, lane k of the vector
that lanes answers is the result of the function where bit w × k of the predicate is 1, and the old lane where it is
0. For every ready state and integer type, vadd, vsub, vmul, vmax, vmin, vshl, vshr, vsar, vneg and vabs and the
unsigned vmax and vmin answer a next state in which each on lane of d is the n-bit result of R180 and each off lane
is unchanged; no flag is raised and nothing else changes but the thread going on. For every ready state and integer
type, vadds and vsubs write to each on lane the sum or difference of the signed lanes clamped to the range of the
type, off lanes unchanged, and raise FFLAGS.SAT, bit 5, exactly where an on lane was clamped. For every ready state,
byte k of d is, where bit k of the predicate is 1, the bitwise and, or or exclusive or of the bytes of a and b, or
the byte of a for vmov, and its old value where the bit is 0. With p0 the whole register is the bitwise result. No
flag is raised. -/
def Obligations.VectorIntegers : Prop :=
  (∀ (w : Nat) (p : Word) (old : Vec) (f : Nat → Nat × Flags), w ∈ [1, 2, 4, 8] → (∀ k, k < 64 / w → (f k).1 < 2 ^ (8 * w)) →
      ∀ k, k < 64 / w → lane w (lanes w p old f).1 k = if p.getLsbD (w * k) then (f k).1 else lane w old k) ∧
    (∀ (s : State) (p : PredNo) (ty : VType) (d a b : RegNo), ty.isInt = true →
      let w := ty.bytes
      let n := ty.width
      let x := fun k => lane w (s.vv a) k
      let y := fun k => lane w (s.vv b) k
      let holds := fun (i : Instr) (f : Nat → Nat) =>
        ∃ v, VectorResult i s d.toNat v 0 ∧
          ∀ k, k < 64 / w → lane w v k = if (s.pv p).getLsbD (w * k) then f k else lane w (s.vv d) k
      (Ready s 0 [.v a.toNat, .v b.toNat, .v d.toNat] [] →
        holds (.vadd p ty d a b) (fun k => (x k + y k) % 2 ^ n) ∧
        holds (.vsub p ty d a b) (fun k => (x k + 2 ^ n - y k) % 2 ^ n) ∧
        holds (.vmul p ty d a b) (fun k => x k * y k % 2 ^ n) ∧
        holds (.vmax p ty d a b) (fun k => if sint n (x k) < sint n (y k) then y k else x k) ∧
        holds (.vmin p ty d a b) (fun k => if sint n (x k) < sint n (y k) then x k else y k) ∧
        holds (.vmaxUnsigned p ty d a b) (fun k => max (x k) (y k)) ∧
        holds (.vminUnsigned p ty d a b) (fun k => min (x k) (y k)) ∧
        holds (.vshl p ty d a b) (fun k => x k * 2 ^ (y k % n) % 2 ^ n) ∧
        holds (.vshr p ty d a b) (fun k => x k / 2 ^ (y k % n)) ∧
        holds (.vsar p ty d a b) (fun k => (sint n (x k) / 2 ^ (y k % n) % 2 ^ n).toNat)) ∧
      (Ready s 0 [.v a.toNat, .v d.toNat] [] →
        holds (.vneg p ty d a) (fun k => (2 ^ n - x k) % 2 ^ n) ∧
        holds (.vabs p ty d a) (fun k => (sint n (x k)).natAbs % 2 ^ n))) ∧
    (∀ (s : State) (p : PredNo) (ty : VType) (d a b : RegNo), ty.isInt = true → Ready s 0 [.v a.toNat, .v b.toNat, .v d.toNat] [] →
      let w := ty.bytes
      let n := ty.width
      let on := fun k => (s.pv p).getLsbD (w * k)
      let fits := fun z : Int => -2 ^ (n - 1) ≤ z ∧ z < 2 ^ (n - 1)
      let clamp := fun z : Int => max (-2 ^ (n - 1)) (min z (2 ^ (n - 1) - 1))
      let holds := fun (i : Instr) (f : Int → Int → Int) =>
        let r := fun k => f (sint n (lane w (s.vv a) k)) (sint n (lane w (s.vv b) k))
        ∃ v fl, VectorResult i s d.toNat v fl ∧
          (∀ k, k < 64 / w → lane w v k = if on k then (clamp (r k) % 2 ^ n).toNat else lane w (s.vv d) k) ∧
          ((∀ k, k < 64 / w → on k = true → fits (r k)) → fl = 0) ∧
          ((∃ k, k < 64 / w ∧ on k = true ∧ ¬ fits (r k)) → fl = 32)
      holds (.vadds p ty d a b) (fun x y => x + y) ∧ holds (.vsubs p ty d a b) (fun x y => x - y)) ∧
    (∀ (s : State) (p : PredNo) (d a b : RegNo),
      let holds := fun (i : Instr) (r : Vec) =>
        ∃ v, VectorResult i s d.toNat v 0 ∧
          (∀ k, k < 64 → lane 1 v k = if (s.pv p).getLsbD k then lane 1 r k else lane 1 (s.vv d) k) ∧ (p = 0 → v = r)
      (Ready s 0 [.v a.toNat, .v b.toNat, .v d.toNat] [] →
        holds (.vand p d a b) (s.vv a &&& s.vv b) ∧ holds (.vor p d a b) (s.vv a ||| s.vv b) ∧
        holds (.vxor p d a b) (s.vv a ^^^ s.vv b)) ∧
      (Ready s 0 [.v a.toNat, .v d.toNat] [] → holds (.vmov p d a) (s.vv a)))

/-- Float vector operations and fused multiply-adds, lane by lane (R180, R181, R182, R175, R177, R184, R185, R186, R69,
R125). For every ready state and float type, vadd, vsub, vmul, vmax, vmin, vdiv, vsqrt, vneg and vabs, and vcmul and
vconj on c64, answer a next state in which each on lane of d holds the float operation of the lanes of a and b,
rounded to nearest even, and each off lane is unchanged. The flags raised are those of the on lanes together. For
every thread and RM field that selects a mode m, a ready vfma, vfms, vfnma or vfnms of a real type writes to each on
lane ± a × b ± d rounded once in mode m, and vfma on c64 the complex step; off lanes stay, and the flags of the on
lanes are raised. Where RM is DYN and FRM holds 4 to 7, the four take cause 2 with their bits in TVAL. That DYN with
FRM 4 to 7 traps before a pending or poisoned operand is looked at is the choice of the model (DEDUCED, log entry
28). -/
def Obligations.VectorFloats : Prop :=
  (∀ (s : State) (p : PredNo) (ty : VType) (d a b : RegNo),
      let w := ty.bytes
      let x := fun k => lane w (s.vv a) k
      let y := fun k => lane w (s.vv b) k
      let holds := fun (i : Instr) (n : Nat) (f : Nat → Nat × Flags) =>
        let r := lanes n (s.pv p) (s.vv d) f
        VectorResult i s d.toNat r.1 r.2
      (Ready s 0 [.v a.toNat, .v b.toNat, .v d.toNat] [] →
        (ty.isReal = true →
          holds (.vadd p ty d a b) w (fun k => fadd ty.fmt .rne (x k) (y k)) ∧
          holds (.vsub p ty d a b) w (fun k => fsub ty.fmt .rne (x k) (y k)) ∧
          holds (.vmul p ty d a b) w (fun k => fmul ty.fmt .rne (x k) (y k)) ∧
          holds (.vmax p ty d a b) w (fun k => fmax ty.fmt (x k) (y k)) ∧
          holds (.vmin p ty d a b) w (fun k => fmin ty.fmt (x k) (y k)) ∧
          holds (.vdiv p ty d a b) w (fun k => fdiv ty.fmt .rne (x k) (y k))) ∧
        holds (.vadd p .c64 d a b) 8 (fun k => onParts (fadd .f32 .rne) (lane 8 (s.vv a) k) (lane 8 (s.vv b) k)) ∧
        holds (.vsub p .c64 d a b) 8 (fun k => onParts (fsub .f32 .rne) (lane 8 (s.vv a) k) (lane 8 (s.vv b) k)) ∧
        holds (.vcmul p d a b) 8 (fun k => cmac (lane 8 (s.vv a) k) (lane 8 (s.vv b) k) 0)) ∧
      (Ready s 0 [.v a.toNat, .v d.toNat] [] →
        (ty.isReal = true →
          holds (.vsqrt p ty d a) w (fun k => fsqrt ty.fmt .rne (x k)) ∧
          holds (.vneg p ty d a) w (fun k => fsign ty.fmt (fun z => !z) (x k)) ∧
          holds (.vabs p ty d a) w (fun k => fsign ty.fmt (fun _ => false) (x k))) ∧
        holds (.vneg p .c64 d a) 8 (fun k => onParts (fun z _ => fsign .f32 (fun n => !n) z) (lane 8 (s.vv a) k) 0) ∧
        holds (.vconj p d a) 8 (fun k => laneConj (lane 8 (s.vv a) k)))) ∧
    (∀ (s : State) (p : PredNo) (rm m : Rm) (ty : VType) (d a b : RegNo),
      let w := ty.bytes
      let x := fun k => lane w (s.vv a) k
      let y := fun k => lane w (s.vv b) k
      let z := fun k => lane w (s.vv d) k
      let holds := fun (i : Instr) (n : Nat) (f : Nat → Nat × Flags) =>
        let r := lanes n (s.pv p) (s.vv d) f
        VectorResult i s d.toNat r.1 r.2
      (Ready s 0 [.v a.toNat, .v b.toNat, .v d.toNat] [] → (if rm = .dyn then s.th.rounding .dyn = some m else m = rm) →
        (ty.isReal = true →
          holds (.vfma p rm ty d a b) w (fun k => ffma ty.fmt m false false (x k) (y k) (z k)) ∧
          holds (.vfms p rm ty d a b) w (fun k => ffma ty.fmt m false true (x k) (y k) (z k)) ∧
          holds (.vfnma p rm ty d a b) w (fun k => ffma ty.fmt m true false (x k) (y k) (z k)) ∧
          holds (.vfnms p rm ty d a b) w (fun k => ffma ty.fmt m true true (x k) (y k) (z k))) ∧
        holds (.vfma p rm .c64 d a b) 8 (fun k => cmac (lane 8 (s.vv a) k) (lane 8 (s.vv b) k) (lane 8 (s.vv d) k))) ∧
      (s.th.held = false → s.th.spec = none → 4 ≤ s.th.frm.toNat →
        ∀ i ∈ [Instr.vfma p .dyn ty d a b, .vfms p .dyn ty d a b, .vfnma p .dyn ty d a b, .vfnms p .dyn ty d a b],
          Traps i s 2 (bitsVal i)))

/-- The sixteen 16-bit lane forms (R133, R134, R180, R183). For every ready state, each 16-bit lane form on v0 to v15
works as the 32-bit instruction it stands for: d op a into d on f32, i32, bytes or c64 lanes, a unary form and
vmov.n from a. It is two bytes long, so the thread goes on two bytes further. -/
def Obligations.LaneForms : Prop :=
  ∀ (s : State) (p : PredNo) (d a : BitVec 4),
    let holds := fun (i : Instr) (n : Nat) (f : Nat → Nat × Flags) =>
      let r := lanes n (s.pv p) (s.th.vreg d.toNat).val f
      i.len = 2 ∧ VectorResult i s d.toNat r.1 r.2
    let x := fun n k => lane n (s.th.vreg d.toNat).val k
    let y := fun n k => lane n (s.th.vreg a.toNat).val k
    (Ready s 0 [.v d.toNat, .v a.toNat] [] →
      holds (.vaddN p d a) 4 (fun k => fadd .f32 .rne (x 4 k) (y 4 k)) ∧
      holds (.vsubN p d a) 4 (fun k => fsub .f32 .rne (x 4 k) (y 4 k)) ∧
      holds (.vmulN p d a) 4 (fun k => fmul .f32 .rne (x 4 k) (y 4 k)) ∧
      holds (.vmaxN p d a) 4 (fun k => fmax .f32 (x 4 k) (y 4 k)) ∧
      holds (.vminN p d a) 4 (fun k => fmin .f32 (x 4 k) (y 4 k)) ∧
      holds (.vnegN p d a) 4 (fun k => fsign .f32 (fun z => !z) (y 4 k)) ∧
      holds (.vabsN p d a) 4 (fun k => fsign .f32 (fun _ => false) (y 4 k)) ∧
      holds (.vaddI32N p d a) 4 (fun k => ((x 4 k + y 4 k) % 2 ^ 32, 0)) ∧
      holds (.vsubI32N p d a) 4 (fun k => ((x 4 k + 2 ^ 32 - y 4 k) % 2 ^ 32, 0)) ∧
      holds (.vmulI32N p d a) 4 (fun k => (x 4 k * y 4 k % 2 ^ 32, 0)) ∧
      holds (.vshlI32N p d a) 4 (fun k => (x 4 k * 2 ^ (y 4 k % 32) % 2 ^ 32, 0)) ∧
      holds (.vandN p d a) 1 (fun k => (x 1 k &&& y 1 k, 0)) ∧
      holds (.vorN p d a) 1 (fun k => (x 1 k ||| y 1 k, 0)) ∧
      holds (.vxorN p d a) 1 (fun k => (x 1 k ^^^ y 1 k, 0)) ∧
      holds (.vmovN p d a) 1 (fun k => (y 1 k, 0)) ∧
      holds (.vcmulC64N p d a) 8 (fun k => cmac (x 8 k) (y 8 k) 0))

/-- The vector compares write whole lanes of predicate bits (R187, R188, R175). For every ready state, each compare sets
all bits of each on lane of predicate d to whether its condition holds: equal, not equal, less or less or equal as
signed numbers, as unsigned numbers or as floats, or unordered. Bits of off lanes stay, and p0 stays all ones. NV is
raised where an on lane of a float compare calls for it. -/
def Obligations.VectorCompares : Prop :=
  ∀ (s : State) (p : PredNo) (ty : VType) (d : PredNo) (a b : RegNo), Ready s 0 [.v a.toNat, .v b.toNat] [] →
    let w := ty.bytes
    let n := ty.width
    let on := fun k => (s.pv p).getLsbD (w * (k / w))
    let x := fun k => lane w (s.vv a) (k / w)
    let y := fun k => lane w (s.vv b) (k / w)
    let holds := fun (i : Instr) (c : Nat → Bool) (nv : Nat → Bool) =>
      ∃ m fl, PredResult i s d m fl ∧
        (∀ k, k < 64 → m.getLsbD k = if on k then c k else (s.pv d).getLsbD k) ∧
        fl = if (List.range 64).any fun k => on k && nv k then 16 else 0
    let none := fun _ : Nat => false
    let snan := fun k => snanFlag ty.fmt [x k, y k] != 0
    let nan := fun k => ty.fmt.num (x k) == .nan || ty.fmt.num (y k) == .nan
    (ty.isInt = true →
      holds (.vcmpeq p ty d a b) (fun k => x k == y k) none ∧
      holds (.vcmpne p ty d a b) (fun k => x k != y k) none ∧
      holds (.vcmplt p ty d a b) (fun k => decide (sint n (x k) < sint n (y k))) none ∧
      holds (.vcmple p ty d a b) (fun k => decide (sint n (x k) ≤ sint n (y k))) none ∧
      holds (.vcmpltUnsigned p ty d a b) (fun k => decide (x k < y k)) none ∧
      holds (.vcmpleUnsigned p ty d a b) (fun k => decide (x k ≤ y k)) none) ∧
    (ty.isReal = true →
      holds (.vcmpeq p ty d a b) (fun k => (ty.fmt.num (x k)).eq (ty.fmt.num (y k))) snan ∧
      holds (.vcmpne p ty d a b) (fun k => !(ty.fmt.num (x k)).eq (ty.fmt.num (y k))) snan ∧
      holds (.vcmplt p ty d a b) (fun k => (ty.fmt.num (x k)).lt (ty.fmt.num (y k))) nan ∧
      holds (.vcmple p ty d a b)
        (fun k => (ty.fmt.num (x k)).lt (ty.fmt.num (y k)) || (ty.fmt.num (x k)).eq (ty.fmt.num (y k))) nan ∧
      holds (.vcmpun p ty d a b) nan snan) ∧
    (ty = .c64 →
      let part := fun h k => (Fmt.f32.num (x k / h % 2 ^ 32)).eq (Fmt.f32.num (y k / h % 2 ^ 32))
      let sig := fun k => snanFlag .f32 [x k % 2 ^ 32, y k % 2 ^ 32, x k / 2 ^ 32, y k / 2 ^ 32] != 0
      holds (.vcmpeq p ty d a b) (fun k => part 1 k && part (2 ^ 32) k) sig ∧
      holds (.vcmpne p ty d a b) (fun k => !(part 1 k && part (2 ^ 32) k)) sig)

/-- The eight predicate operations (R198). For every ready state, pand, por, pxor and pnot write the bitwise result to
predicate d and pmov the scalar a, p0 staying all ones; pget writes the predicate to scalar d, pcnt the number of
its ones and pfirst the index of its lowest one, 64 where there is none. No flag is raised. A word of one of them
with a predicate field above 7 decodes to nothing. -/
def Obligations.PredicateOps : Prop :=
  ∀ (s : State) (pd pa pb : PredNo) (d a : RegNo),
    let x := s.pv pa
    (Ready s 0 [] [] →
      PredResult (.pand pd pa pb) s pd (x &&& s.pv pb) 0 ∧ PredResult (.por pd pa pb) s pd (x ||| s.pv pb) 0 ∧
      PredResult (.pxor pd pa pb) s pd (x ^^^ s.pv pb) 0 ∧ PredResult (.pnot pd pa) s pd (~~~x) 0) ∧
    (Ready s 0 [.s a.toNat] [] → PredResult (.pmov pd a) s pd (s.sv a) 0) ∧
    (Ready s 0 [] [.s d.toNat] →
      ScalarResult (.pget d pa) s d x 0 ∧
      ScalarResult (.pcnt d pa) s d (BitVec.ofNat 64 ((List.range 64).filter fun i => x.getLsbD i).length) 0 ∧
      ∃ v : Word, ScalarResult (.pfirst d pa) s d v 0 ∧ v.toNat ≤ 64 ∧ (∀ i, i < v.toNat → x.getLsbD i = false) ∧
        (v.toNat < 64 → x.getLsbD v.toNat = true)) ∧
    (∀ (p : PredNo) (n : Nat) (fb fa fd : BitVec 5), n < 8 → n < 5 ∧ 7 < fd.toNat ∨ n ≠ 4 ∧ 7 < fa.toNat ∨ n < 3 ∧ 7 < fb.toNat →
      ∃ e, decode32 (p ++ BitVec.ofNat 8 (0x90 + n) ++ fb ++ fa ++ fd ++ 20#5 ++ 1#1) = .error e)

/-- Lane moves, conversions and reductions (R197, R175, R189, R190, R191, R192, R193, R194, R195, R196). For every ready
state: vbcast writes the low bytes of scalar a to each on lane, vins to the one lane that b names if it is on, and
vext reads lane b of a, zero-extended. vperm takes byte b[i] mod 64 of a for each on byte i, vsel takes byte i of a
or of b, and the slides move the bytes of a up or down by scalar b, with zeros moved in. Off lanes stay. For every
ready state: vcvt converts the low lanes of a under the predicate and clears the lanes of a narrower destination
above them; vredadd, vredmax and vredmin fold the on lanes of a in ascending order and write the result to scalar d,
which is the sum, the greatest or the least of the signed lanes for integers (of the empty set 0, the least or the
greatest number of the type); vpack writes a block of 32 elements with its scale in byte 32, vunpk the 32 elements
to d and d + 1, raising the flags of their roundings together (OF and NX for one above the FP32 range). -/
def Obligations.LaneMoves : Prop :=
  (∀ (s : State) (p : PredNo) (wd : Width) (d a b : RegNo),
      let w := wd.bytes
      let x := lane 1 (s.vv a)
      let k := (s.sv b).toNat
      let low := (s.sv a).toNat % 2 ^ (8 * w)
      let holds := fun (i : Instr) (n : Nat) (f : Nat → Nat) =>
        ∃ v, VectorResult i s d.toNat v 0 ∧
          ∀ j, j < 64 / n → lane n v j = if (s.pv p).getLsbD (n * j) then f j else lane n (s.vv d) j
      (Ready s 0 [.s a.toNat, .v d.toNat] [] → holds (.vbcast p wd d a) w (fun _ => low)) ∧
      (Ready s p [.v a.toNat, .s b.toNat] [.s d.toNat] →
        ScalarResult (.vext p wd d a b) s d (BitVec.ofNat 64 (lane w (s.vv a) (k % (64 / w)))) 0) ∧
      (Ready s 0 [.s a.toNat, .s b.toNat, .v d.toNat] [] →
        holds (.vins p wd d a b) w (fun j => if j = k % (64 / w) then low else lane w (s.vv d) j)) ∧
      (Ready s 0 [.v a.toNat, .v b.toNat, .v d.toNat] [] →
        holds (.vperm p d a b) 1 (fun j => x (lane 1 (s.vv b) j % 64))) ∧
      (Ready s 0 [.v a.toNat, .v b.toNat] [.v d.toNat] →
        ∃ v, VectorResult (.vsel p d a b) s d.toNat v 0 ∧
          ∀ j, j < 64 → lane 1 v j = if (s.pv p).getLsbD j then x j else lane 1 (s.vv b) j) ∧
      (Ready s 0 [.v a.toNat, .s b.toNat, .v d.toNat] [] →
        holds (.vslideup p d a b) 1 (fun j => if k ≤ j then x (j - k) else 0) ∧
        holds (.vslidedn p d a b) 1 (fun j => if j + k < 64 then x (j + k) else 0))) ∧
    (∀ (s : State) (p : PredNo) (dt st ty : VType) (rm m : Rm) (fmt : MxFmt) (d a b : RegNo),
      let on := fun w k => (s.pv p).getLsbD (w * k)
      let ints := ((List.range (64 / ty.bytes)).filter (on ty.bytes)).map fun k => sint ty.width (lane ty.bytes (s.vv a) k)
      (s.th.rounding rm = some m → dt ≠ st → dt ≠ .c64 → st ≠ .c64 → Ready s 0 [.v a.toNat, .v d.toNat] [] →
        ∃ v, VectorResult (.vcvt p dt st rm d a) s d.toNat v
            (lanesUpTo dt.bytes (s.pv p) (s.vv d) (fun k => laneCvt st dt m (lane st.bytes (s.vv a) k)) (64 / max dt.bytes st.bytes)).2 ∧
          ∀ k, k < 64 / dt.bytes → lane dt.bytes v k =
            if 64 / max dt.bytes st.bytes ≤ k then 0
            else if on dt.bytes k then (laneCvt st dt m (lane st.bytes (s.vv a) k)).1 else lane dt.bytes (s.vv d) k) ∧
      (ty.isInt = true → Ready s 0 [.v a.toNat] [.s d.toNat] →
        ScalarResult (.vredadd p ty d a) s d (BitVec.ofInt 64 (ints.foldl (fun x y => x + y) 0)) 0 ∧
        ScalarResult (.vredmax p ty d a) s d (BitVec.ofInt 64 (ints.foldl max (-2 ^ (ty.width - 1)))) 0 ∧
        ScalarResult (.vredmin p ty d a) s d (BitVec.ofInt 64 (ints.foldl min (2 ^ (ty.width - 1) - 1))) 0) ∧
      (ty.isInt = false → Ready s 0 [.v a.toNat] [.s d.toNat] →
        let fold := fun (f : Nat × Flags → Nat → Nat × Flags) (z : Nat) =>
          foldLanes ty.bytes (s.pv p) (fun acc k => f acc (lane ty.bytes (s.vv a) k)) (z, 0) (64 / ty.bytes)
        ScalarResult (.vredadd p ty d a) s d (BitVec.ofNat 64 (fold (redAddStep ty) 0).1) (fold (redAddStep ty) 0).2 ∧
        (ty ≠ .c64 →
          ScalarResult (.vredmax p ty d a) s d (BitVec.ofNat 64 (fold (redMaxStep ty true) 0xFF800000).1)
            (fold (redMaxStep ty true) 0xFF800000).2 ∧
          ScalarResult (.vredmin p ty d a) s d (BitVec.ofNat 64 (fold (redMaxStep ty false) 0x7F800000).1)
            (fold (redMaxStep ty false) 0x7F800000).2)) ∧
      (s.th.rounding rm = some m → Ready s p [.v a.toNat, .v (a.toNat + 1)] [.v d.toNat] →
        let r := mxEncode fmt m (floatLanes (s.vv a) ++ floatLanes (s.th.vreg (a.toNat + 1)).val)
        VectorResult (.vpack p fmt rm d a) s d.toNat (BitVec.ofNat 512 (r.2.1 + r.1 * 2 ^ 256)) r.2.2) ∧
      (Ready s p [.v a.toNat, .s b.toNat] [.v d.toNat, .v (d.toNat + 1)] → ∃ t x y fl,
        exec (.vunpk p fmt d a b) s = .next t ∧ HoldsV t d.toNat x ∧ HoldsV t (d.toNat + 1) y ∧ t.th.fflags = s.th.fflags ||| fl ∧
        (∀ j, fl.getLsbD j = (List.range 32).any fun k =>
          (roundFmt .f32 .rne (mxDecode fmt (mxElem fmt (s.vv a).toNat k) ((s.sv b).toNat % 256))).2.getLsbD j) ∧
        Advances s t 4 ∧ Frame s t [] [d.toNat, d.toNat + 1] [] ∧
        ∀ k, k < 16 →
          lane 4 x k = (roundFmt .f32 .rne (mxDecode fmt (mxElem fmt (s.vv a).toNat k) ((s.sv b).toNat % 256))).1 ∧
          lane 4 y k = (roundFmt .f32 .rne (mxDecode fmt (mxElem fmt (s.vv a).toNat (16 + k)) ((s.sv b).toNat % 256))).1))

/-- Loads from the private alias (R200, R207, R208, R3, R119, R209, R210, R211, R175). For every ready state with
nothing under way and an address base + offset × width that reaches clean bytes of the private alias, ld in every
width and order answers a next state in which d holds those bytes, lowest first, zero- or sign-extended; nothing
else changes but the thread going on. For every ready state with nothing under way in which the address of each on
lane reaches clean bytes of the private alias, the three vector loads answer a next state in which each on lane of d
holds the bytes at its address (contiguous, strided or indexed by the signed lanes of x) and each off lane is
unchanged. -/
def Obligations.LocalLoads : Prop :=
  (∀ (s : State) (p : PredNo) (off : BitVec 8) (ord : LoadOrder) (zx : Bool) (w : Width) (d base : RegNo),
      let a := (s.sv base + off.signExtend 64 * BitVec.ofNat 64 w.bytes).toNat
      let v := s.mem.read (Region.local s.here + a) w.bytes
      Ready s p [.s base.toNat] [.s d.toNat] → Settled s → Reaches s a w.bytes →
        ScalarResult (.ld p off ord zx w d base) s d
          (if zx then BitVec.ofNat 64 v else BitVec.ofInt 64 (sint (8 * w.bytes) v)) 0) ∧
    (∀ (s : State) (p : PredNo) (w : Width) (ord : LoadOrder) (d base x : RegNo), Settled s →
      let n := w.bytes
      let reads := fun (i : Instr) (third : RName) (address : Nat → Nat) =>
        Ready s 0 [.s base.toNat, third, .v d.toNat] [] →
        (∀ k, k < 64 / n → (s.pv p).getLsbD (n * k) = true → Reaches s (address k) n) →
        ∃ v, VectorResult i s d.toNat v 0 ∧
          ∀ k, k < 64 / n → lane n v k =
            if (s.pv p).getLsbD (n * k) then s.mem.read (Region.local s.here + address k) n else lane n (s.vv d) k
      reads (.vld p w ord d base x) (.s x.toNat) (fun k => (s.sv base + s.sv x + BitVec.ofNat 64 (k * n)).toNat) ∧
      reads (.vlds p w ord d base x) (.s x.toNat) (fun k => (s.sv base + BitVec.ofNat 64 k * s.sv x).toNat) ∧
      reads (.vldx p w ord d base x) (.v x.toNat)
        (fun k => (s.sv base + BitVec.ofInt 64 (sint (8 * n) (lane n (s.vv x) k))).toNat))

/-- Stores to the private alias (R200, R207, R208, R3, R119, R209, R210, R211, R175). For every ready state with a
canonical memory and nothing under way, and an address that reaches unwatched bytes of the private alias, st in
every width and order answers a next state in which those bytes read as the low bytes of a; every other byte, every
poison code of the words not stored whole, every register and every other part of the module is as before, and the
thread goes on. For every ready state with a canonical memory and nothing under way in which the address of each on
lane reaches unwatched bytes of the private alias, the three vector stores answer a next state in which the bytes at
the address of an on lane hold that lane of a, as long as no later on lane is stored to the same bytes, every byte
outside the on lanes reads as before, and so does every poison code of memory. -/
def Obligations.LocalStores : Prop :=
  (∀ (s : State) (p : PredNo) (off : BitVec 8) (ord : StoreOrder) (w : Width) (a base : RegNo), s.Inv →
      let at_ := (s.sv base + off.signExtend 64 * BitVec.ofNat 64 w.bytes).toNat
      let place := Region.local s.here + at_
      Ready s p [.s a.toNat, .s base.toNat] [] → Settled s → Reaches s at_ w.bytes → Unwatched s at_ →
        ∃ t, exec (.st p off ord w a base) s = .next t ∧ t.mem.read place w.bytes = (s.sv a).toNat % 2 ^ (8 * w.bytes) ∧
          Advances s t 4 ∧ MemFrame s t [] place w.bytes) ∧
    (∀ (s : State) (p : PredNo) (w : Width) (ord : StoreOrder) (a base x : RegNo), s.Inv → Settled s →
      let n := w.bytes
      let on := fun k => k < 64 / n ∧ (s.pv p).getLsbD (n * k) = true
      let writes := fun (i : Instr) (third : RName) (address : Nat → Nat) =>
        let place := fun k => Region.local s.here + address k
        Ready s 0 [.v a.toNat, .s base.toNat, third] [] →
        (∀ k, on k → Reaches s (address k) n ∧ Unwatched s (address k)) →
        ∃ t, exec i s = .next t ∧ Advances s t 4 ∧ t.th.rest = s.th.rest ∧ t.th.fflags = s.th.fflags ∧
          t = { s with threads := t.threads, mem := t.mem } ∧ (∀ k, k ≠ s.cur → t.thread k = s.thread k) ∧
          (∀ r, t.th.sreg r = s.th.sreg r) ∧ (∀ r, t.th.vreg r = s.th.vreg r) ∧ (∀ r, t.th.pred r = s.th.pred r) ∧
          (∀ k, on k → (∀ j, on j → k < j → address j ≠ address k) → t.mem.read (place k) n = lane n (s.vv a) k) ∧
          (∀ c, (∀ k, on k → c < place k ∨ place k + n ≤ c) → t.mem.byte c = s.mem.byte c) ∧
          ∀ c, t.mem.poisoned c = s.mem.poisoned c
      writes (.vst p w ord a base x) (.s x.toNat) (fun k => (s.sv base + s.sv x + BitVec.ofNat 64 (k * n)).toNat) ∧
      writes (.vsts p w ord a base x) (.s x.toNat) (fun k => (s.sv base + BitVec.ofNat 64 k * s.sv x).toNat) ∧
      writes (.vstx p w ord a base x) (.v x.toNat)
        (fun k => (s.sv base + BitVec.ofInt 64 (sint (8 * n) (lane n (s.vv x) k))).toNat))

/-- The eleven atomics on the private alias (R200, R212, R213, R146). For every ready state with a canonical memory and
nothing under way, and an address that reaches an unwatched word of the private alias, each atomic of each width and
order writes the new value of R213 to the word, leaves every other byte and the poison codes of all other words
alone, writes the old value sign-extended to d, or nothing where it is posted, and its thread goes on. amocas leaves
the memory as it is where the old value is not d. -/
def Obligations.LocalAtomics : Prop :=
  ∀ (s : State) (p : PredNo) (posted w : Bool) (ord : AmoOrder) (d a base : RegNo), s.Inv →
    let at_ := (s.sv base).toNat
    let place := Region.local s.here + at_
    Settled s → Unwatched s at_ →
    let does := fun (i : Instr) (n : Nat) (noResult : Bool) (new : Nat) =>
      let old := s.mem.read place n
      ∃ t, exec i s = .next t ∧ t.mem.read place n = new % 2 ^ (8 * n) ∧
        (noResult = false → HoldsS t d (BitVec.ofInt 64 (sint (8 * n) old))) ∧
        Advances s t 4 ∧ MemFrame s t (if noResult then [] else [d.toNat]) place n
    let n := if w then 4 else 8
    let old := s.mem.read place n
    let x := (s.sv a).toNat % 2 ^ (8 * n)
    (Ready s p [.s a.toNat, .s base.toNat] (if posted then [] else [.s d.toNat]) → Reaches s at_ n →
      does (.amoswap p posted ord w d a base) n posted x ∧
      does (.amoadd p posted ord w d a base) n posted (old + x) ∧
      does (.amoand p posted ord w d a base) n posted (old &&& x) ∧
      does (.amoor p posted ord w d a base) n posted (old ||| x) ∧
      does (.amoxor p posted ord w d a base) n posted (old ^^^ x) ∧
      does (.amomin p posted ord w d a base) n posted (if sint (8 * n) x < sint (8 * n) old then x else old) ∧
      does (.amomax p posted ord w d a base) n posted (if sint (8 * n) old < sint (8 * n) x then x else old) ∧
      does (.amominu p posted ord w d a base) n posted (min old x) ∧
      does (.amomaxu p posted ord w d a base) n posted (max old x)) ∧
    (Ready s p [.s a.toNat, .s base.toNat, .s d.toNat] [.s d.toNat] → Reaches s at_ n →
      does (.amocas p ord w d a base) n false (if old = (s.sv d).toNat % 2 ^ (8 * n) then x else old)) ∧
    (Ready s p [.s a.toNat, .s base.toNat] (if posted then [] else [.s d.toNat]) → Reaches s at_ 4 →
      does (.amofadd p posted ord d a base) 4 posted
        (fadd .f32 .rne (s.mem.read place 4) ((s.sv a).toNat % 2 ^ 32)).1)

/-- Where a scalar access traps (R146, R201, R202, R212, R278, R280). For every ready thread off any path, an address
that is no multiple of the width takes cause 4 (load) or 6 (store, atomic); an aligned one takes 5 or 7 below XBOUND
in user mode and in the mesh window at a core of no or another paddock, and 13 or 15 at or above 2^48. TVAL holds
bits 47:0 of the address, and nothing else changes. That TVAL of a misaligned access has the form of R202, bits 47:0
of the address, is the choice of the model (DEDUCED, log entry 28: R208 says va). -/
def Obligations.AccessTraps : Prop :=
  ∀ (s : State) (p : PredNo) (w : Width) (zx : Bool) (d a base : RegNo), s.th.spec = none →
    let at_ := (s.sv base).toNat
    let n := w.bytes
    let value : Word := BitVec.ofNat 64 (at_ % 2 ^ 48)
    let traps := fun (load other : Nat) =>
      (Ready s p [.s base.toNat] [.s d.toNat] → Traps (.ld p 0 .page zx w d base) s load value) ∧
      (Ready s p [.s a.toNat, .s base.toNat] [] → Traps (.st p 0 .page w a base) s other value) ∧
      (Ready s p [.s a.toNat, .s base.toNat] [.s d.toNat] → n = 8 → Traps (.amoadd p false .page false d a base) s other value)
    (at_ % n ≠ 0 → traps 4 6) ∧
    (at_ % n = 0 → at_ < 2 ^ 20 → s.th.ts.sup = false → at_ < (s.core s.here).xbound.toNat → traps 5 7) ∧
    (at_ % n = 0 → meshBase ≤ at_ → at_ < binBase → s.samePaddock s.here ((at_ - meshBase) / 2 ^ 20) = false → traps 5 7) ∧
    (at_ % n = 0 → 2 ^ 48 ≤ at_ → traps 13 15)

/-- A remote access issues, is performed, and its result or refusal arrives (R136, R148, R149, R200, R278, R280, R204,
R304, R203, R138). For every ready thread with nothing under way, fewer than 32 loads out and an aligned address in
the mesh window at a core of its own paddock that it may read, ld answers a next state in which d is pending (s0
never), LDCNT is one higher, an access with a fresh serial number stands among those under way, and the module owes
its perform; memory is as before and the thread goes on. For every state in which the one access under way is a load
of one element in a local memory, unlocked and clean, the event ACCESS_PERFORM reads the bytes and makes the module
owe the arrival of the result; and where its element has been performed, REMOTE_RESULT_ARRIVAL writes the extended
value to the destination of a thread that is not swapped out, clears its pending bit, lowers LDCNT and forgets the
access. For every state in which the one access under way is a load of one element that waits at the host port,
REMOTE_REFUSAL writes zero to its scalar destination, poisoned with the subcode of the refusal, lowers LDCNT and
forgets the access; memory and every other thread are as before. -/
def Obligations.RemoteAccesses : Prop :=
  (∀ (s : State) (p : PredNo) (zx : Bool) (w : Width) (d base : RegNo),
      let at_ := (s.sv base).toNat
      let core := (at_ - meshBase) / 2 ^ 20
      let off := (at_ - meshBase) % 2 ^ 20
      Ready s p [.s base.toNat] [.s d.toNat] → Settled s → s.th.ldCnt < 32 → at_ % w.bytes = 0 → meshBase ≤ at_ → at_ < binBase →
      s.samePaddock s.here core = true → (s.th.ts.sup = false → (s.core core).xbound.toNat ≤ off) →
        ∃ t e, exec (.ld p 0 .page zx w d base) s = .next t ∧ t.mem = s.mem ∧
          (d ≠ 0 → t.th.pending (.s d.toNat) = true) ∧ t.th.ldCnt = s.th.ldCnt + 1 ∧
          e.place = .loc core off ∧ e.w = w.bytes ∧ e.done = false ∧
          t.flights = s.flights ++ [⟨s.nextId, s.cur, .load, [e], false, false, false, .scalar d.toNat w.bytes zx, false, false, false⟩] ∧
          t.due = s.due ++ [.perform s.nextId e.part] ∧ t.nextId = s.nextId + 1 ∧ Advances s t 4) ∧
    (∀ (s : State) (f : Flight) (e : Elem) (core off r : Nat) (zx : Bool), s.flights = [f] → f.elems = [e] → f.kind = .load →
      f.dest = .scalar r e.w zx → f.path = false → f.orphan = false → e.refused = none →
      (e.done = false → e.place = .loc core off → e.laid = [] → s.heldAt e.place e.w = false →
        s.mem.anyPoison (Region.local core + off) e.w = false → (∀ o ∈ s.fabops, o.tid ≠ f.tid) →
        ∃ t e', exec (.accessPerform f.id e.part []) s = .next t ∧ t.mem = s.mem ∧ t.threads = s.threads ∧ e'.done = true ∧
          e'.data = s.mem.read (Region.local core + off) e.w ∧ t.flights = [{ f with elems := [e'], performed := true }] ∧
          t.due = s.due ++ [.arrive f.id]) ∧
      (e.done = true → e.poison = false → s.swappedOut f.tid = false → (s.thread f.tid).spec = none →
        ∃ t, exec (.remoteResultArrival f.id none) s = .next t ∧ t.flights = [] ∧ t.mem = s.mem ∧
          (t.thread f.tid).sreg r = (if r = 0 then Reg.zero else ⟨extend zx e.w e.data, false, false, 0⟩) ∧
          (t.thread f.tid).ldCnt = (s.thread f.tid).ldCnt - 1 ∧ ∀ k, k ≠ f.tid → t.thread k = s.thread k)) ∧
    (∀ (s : State) (f : Flight) (e : Elem) (r adr : Nat) (zx : Bool) (sub : BitVec 8), s.flights = [f] → f.elems = [e] → f.kind = .load →
      f.dest = .scalar r e.w zx → f.path = false → f.orphan = false → e.done = false → e.place = .host adr → r ≠ 0 →
      s.swappedOut f.tid = false → (s.thread f.tid).spec = none →
        ∃ t, exec (.remoteRefusal f.id ⟨sub, none⟩) s = .next t ∧ t.flights = [] ∧ t.mem = s.mem ∧
          (t.thread f.tid).sreg r = ⟨0, false, true, sub⟩ ∧ (t.thread f.tid).ldCnt = (s.thread f.tid).ldCnt - 1 ∧
          ∀ k, k ≠ f.tid → t.thread k = s.thread k)

/-- Fences, barriers, waits and mailboxes (R215, R216, R217, R224, R225, R121, R223, R262, R263). For every ready thread
off any path: with nothing under way fence of a legal scope and fence.lb only advance. A scope with its corners
reversed takes cause 2 with the value in TVAL. wait of each class holds its thread while a count of its class (every
count for all) is not zero. With those zero, class all or st with ERRST clears it and takes cause 28 with
POSTED_STORE in TVAL; else class all or fab with ERRFAB clears that and takes cause 28 with POSTED_FABRIC; else wait
advances. twait.src and twait.vis advance where bit 0 or 1 of the register is 1, pending or not, and wait where it
is 0. For every ready thread off any path, mput into an empty mailbox of its core fills it with a and sets the
mailbox interrupt pending in slot 15 if that slot is not idle, and mget from a full one writes its value to d and
empties it; both go on and leave memory alone. On a full or an empty mailbox they wait. -/
def Obligations.SynchronisationCompletes : Prop :=
  (∀ (s : State) (p : PredNo) (a : RegNo) (cls : WaitClass), s.th.spec = none →
      (Ready s p [.s a.toNat] [] → Settled s → (s.scope a).isSome → JustAdvances (.fence p a) s) ∧
      (Ready s p [.s a.toNat] [] → a ≠ 0 → bits (s.sv a).toNat 23 16 < bits (s.sv a).toNat 7 0 → Traps (.fence p a) s 2 (s.sv a)) ∧
      (Ready s p [] [] → Settled s → JustAdvances (.fenceLb p) s) ∧
      (Ready s p [] [] →
        let count := match cls with
          | .ld => s.th.ldCnt
          | .st => s.th.stCnt
          | .amo => s.th.amoCnt
          | .fab => s.th.fabCnt
          | .all => s.th.ldCnt + s.th.stCnt + s.th.amoCnt + s.th.fabCnt
        let store := (cls = .all ∨ cls = .st) ∧ s.th.errSt = true
        let fabric := (cls = .all ∨ cls = .fab) ∧ s.th.errFab = true
        (count ≠ 0 → Waits (.wait p cls) s .classCount) ∧
        (count = 0 → store →
          exec (.wait p cls) s = .next ((s.modTh fun t => { t with errSt := false }).trap s.cur 28 (0x10 <<< 56) s.th.pc)) ∧
        (count = 0 → ¬ store → fabric →
          exec (.wait p cls) s = .next ((s.modTh fun t => { t with errFab := false }).trap s.cur 28 (0x11 <<< 56) s.th.pc)) ∧
        (count = 0 → ¬ store → ¬ fabric → JustAdvances (.wait p cls) s)) ∧
      (Ready s p [] [] → (s.th.sreg a.toNat).poison = false →
        ((s.sv a).getLsbD 0 = true → JustAdvances (.twaitSrc p a) s) ∧ ((s.sv a).getLsbD 0 = false → Waits (.twaitSrc p a) s .token) ∧
        ((s.sv a).getLsbD 1 = true → JustAdvances (.twaitVis p a) s) ∧ ((s.sv a).getLsbD 1 = false → Waits (.twaitVis p a) s .token))) ∧
    (∀ (s : State) (p : PredNo) (a d : RegNo) (m : BitVec 3), s.th.spec = none → s.swappedOut s.cur = false →
      let box := (s.core s.here).box m.toNat
      let mover := s.here * 16 + 15
      (Ready s p [.s a.toNat] [] →
        (box = none → ∃ t, exec (.mput p a m) s = .next t ∧ (t.core s.here).box m.toNat = some (s.sv a) ∧
          (∀ j, j ≠ m.toNat → (t.core s.here).box j = (s.core s.here).box j) ∧ t.mem = s.mem ∧ t.th.pc = (s.th.seqTo (s.th.pc + 4)).pc ∧
          ((s.thread mover).state ≠ .idle → (t.thread mover).ts.ipMailbox = true) ∧
          (∀ k, k ≠ s.cur → k ≠ mover → t.thread k = s.thread k)) ∧
        (box ≠ none → Waits (.mput p a m) s .mailbox)) ∧
      (Ready s p [] [.s d.toNat] →
        (∀ v, box = some v → ∃ t, exec (.mget p d m) s = .next t ∧ HoldsS t d v ∧ (t.core s.here).box m.toNat = none ∧
          t.mem = s.mem ∧ Advances s t 4 ∧ ∀ k, k ≠ s.cur → t.thread k = s.thread k) ∧
        (box = none → Waits (.mget p d m) s .mailbox)))

/-- watch and bar.wait, and the store that releases them (R218, R221, R222, R219). For every ready state with a
canonical memory and nothing under way and an address that reaches a doubleword of the private alias: watch and
bar.wait advance where the comparison holds or the phase differs; where it does not, and the watch table has room,
their thread waits and an entry stands in the table. bar.arr counts one arrival: PENDING (COUNT where it is 0) falls
by one, or at the last arrival is set to COUNT with PHASE inverted; every other byte and the poison codes of all
other words stay. For every state as in the statement on st, where the only watch entry of the core names the stored
doubleword, its thread waits there and the value of its eq watch is what a doubleword st writes, the store removes
the entry and marks the waiting thread, another one, as satisfied; its next turn then retires the watch. -/
def Obligations.Watches : Prop :=
  (∀ (s : State) (p : PredNo) (cmp : WatchCmp) (a b : RegNo), s.Inv →
      let at_ := (s.sv a).toNat
      let place := Region.local s.here + at_
      let word : Word := BitVec.ofNat 64 (s.mem.read place 8)
      let holds := match cmp with
        | .eq => word = s.sv b
        | .ne => word ≠ s.sv b
        | .geu => (s.sv b).toNat ≤ word.toNat
        | .ltu => word.toNat < (s.sv b).toNat
      let waiting := fun (i : Instr) => ∃ t w, exec i s = .next t ∧ t.th.state = .waiting ∧ t.th.pc = s.th.pc ∧ t.mem = s.mem ∧
        (t.core s.here).watches = (s.core s.here).watches ++ [w] ∧ w.tid = s.cur ∧ w.place = .loc s.here at_
      Settled s → Reaches s at_ 8 → s.th.wait = none →
      (Ready s p [.s a.toNat, .s b.toNat] [] →
        (holds → JustAdvances (.watch p cmp a b) s) ∧
        (¬ holds → (s.core s.here).watches.length < 64 → waiting (.watch p cmp a b)) ∧
        (word.getLsbD 32 ≠ (s.sv b).getLsbD 0 → JustAdvances (.barWait p a b) s) ∧
        (word.getLsbD 32 = (s.sv b).getLsbD 0 → (s.core s.here).watches.length < 64 → waiting (.barWait p a b))) ∧
      (Ready s p [.s a.toNat] [] → Unwatched s at_ →
        ∃ (t : State) (new : Word), exec (.barArr p a) s = .next t ∧ t.mem.read place 8 = new.toNat ∧ Advances s t 4 ∧
          MemFrame s t [] place 8 ∧
          let count := word.extractLsb' 0 16
          let pending := if word.extractLsb' 16 16 = 0 then count else word.extractLsb' 16 16
          new.extractLsb' 0 16 = count ∧ new.extractLsb' 33 31 = word.extractLsb' 33 31 ∧
          (pending.toNat ≤ 1 → new.extractLsb' 16 16 = count ∧ new.getLsbD 32 = !word.getLsbD 32) ∧
          (1 < pending.toNat → new.extractLsb' 16 16 = pending - 1 ∧ new.getLsbD 32 = word.getLsbD 32))) ∧
    (∀ (s : State) (p : PredNo) (a base b : RegNo) (k : Nat), s.Inv →
      let at_ := (s.sv base).toNat
      let place := Region.local s.here + at_
      Ready s p [.s a.toNat, .s base.toNat] [] → Settled s → Reaches s at_ 8 → k ≠ s.cur → s.swappedOut k = false →
      (s.core s.here).watches = [⟨k, .loc s.here at_, .eq, s.sv a, none⟩] → (s.thread k).wait = some (.watch place false) →
        ∃ t, exec (.st p 0 .page .dword a base) s = .next t ∧ (t.core s.here).watches = [] ∧
          t.mem.read place 8 = (s.sv a).toNat ∧ t.thread k = { s.thread k with wait := some (.watch place true) } ∧
          (k < 32768 → (s.thread k).spec = none → Ready { t with cur := k } 0 [.s base.toNat, .s b.toNat] [] →
            JustAdvances (.watch 0 .eq base b) { t with cur := k }))

/-- Messages are sent, delivered and received (R229, R230, R231, R232, R262, R233). For every ready thread with nothing
under way and a legal target descriptor, sendm puts the payload on its way and waits. Its delivery to a slot with
room appends payload and sender to the receive queue, sets the message interrupt pending and retires the sender; to
an idle slot it makes the sender take cause 28 with NO_CONTEXT; with a full queue it is tried again and nothing else
changes. For every ready thread off any path, a recvm of any sender, or of a legal named one, whose queue holds a
matching message behind messages that do not match writes its payload to d and, for d up to 30, its sender to d + 1,
and takes just that message out. With no match its thread waits and the queue stays. That bits 55:0 of TVAL of
NO_CONTEXT hold the descriptor is the choice of the model (DEDUCED, log entry 28: R230 and R232 give bits 63:56). -/
def Obligations.Messages : Prop :=
  (∀ (s : State) (p : PredNo) (a b : RegNo) (id tid target : Nat) (payload : Word),
      (Ready s p [.s a.toNat, .s b.toNat] [] → Settled s → (∀ k, s.th.wait ≠ some (.message k)) → s.descriptorOk s.here (s.sv a) = true →
        ∃ t, exec (.sendm p a b) s = .next t ∧ t.th.state = .waiting ∧ t.th.wait = some (.message s.nextId) ∧ t.th.pc = s.th.pc ∧
          t.packets = s.packets ++ [.msg s.nextId s.cur (targetOf (s.sv a)) (s.sv b)] ∧ t.due = s.due ++ [.message s.nextId] ∧
          t.mem = s.mem) ∧
      (s.packets = [.msg id tid target payload] → tid ≠ target →
        ((s.thread target).state = .idle →
          exec (.messageDelivery id) s =
            .next ({ s with packets := [] }.trap tid 28 (nakVal 4 (descriptor target)) (s.thread tid).pc)) ∧
        ((s.thread target).state ≠ .idle → (s.thread target).recvQ.length = 16 →
          exec (.messageDelivery id) s = .next { s with due := s.due ++ [.message id] }) ∧
        ((s.thread target).state ≠ .idle → (s.thread target).state ≠ .swapped → (s.thread target).recvQ.length < 16 →
          (s.core (target / 16)).spilled = false → s.swappedOut target = false →
          ∃ t, exec (.messageDelivery id) s = .next t ∧ t.packets = [] ∧ t.mem = s.mem ∧
            (t.thread target).recvQ = (s.thread target).recvQ ++ [⟨payload, descriptor tid⟩] ∧ (t.thread target).ts.ipMessage = true ∧
            (t.thread tid).state = .ready ∧ (t.thread tid).instret = (s.thread tid).instret + 1 ∧
            (t.thread tid).pc = ((s.thread tid).seqTo ((s.thread tid).pc + 4)).pc ∧
            ∀ k, k ≠ tid → k ≠ target → t.thread k = s.thread k))) ∧
    (∀ (s : State) (p : PredNo) (d a : RegNo) (before after : List Msg) (m : Msg), s.th.spec = none →
      Ready s p [.s a.toNat] (pairDefs d) → ((s.sv a).getLsbD 20 = true ∨ s.descriptorOk s.here (s.sv a) = true) →
      let hit := fun x : Msg => (s.sv a).getLsbD 20 = true ∨ x.sender = (s.sv a).toNat % 2 ^ 20
      (∀ x ∈ before, ¬ hit x) →
      (hit m → s.th.recvQ = before ++ m :: after →
        ∃ t, exec (.recvm p d a) s = .next t ∧ HoldsS t d m.payload ∧ (d ≠ 31 → HoldsS t (d + 1) (BitVec.ofNat 64 m.sender)) ∧
          t.th.recvQ = before ++ after ∧ Advances s t 4 ∧ t.mem = s.mem ∧
          (∀ r, r ≠ d.toNat → r ≠ d.toNat + 1 → t.th.sreg r = s.th.sreg r) ∧ ∀ k, k ≠ s.cur → t.thread k = s.thread k) ∧
      (s.th.recvQ = before →
        ∃ t tag, exec (.recvm p d a) s = .next t ∧ t.th.state = .waiting ∧ t.th.pc = s.th.pc ∧ t.th.recvQ = s.th.recvQ ∧
          t.th.wait = some (.recv (if (s.sv a).getLsbD 20 then none else some (targetOf (s.sv a))) tag) ∧ t.mem = s.mem))

/-- Remote calls, their tokens and replies (R235, R236, R237, R238, R48, R229). For every ready thread with nothing
under way: rcall of a legal server puts the call on its way, retires, and leaves d pending and counted (nothing is
awaited for s0). The call joins the queue of a server slot with room, or is answered as refused where the slot is
idle. rret with a token sends the reply, zeroes b, and takes the oldest call into d and d + 1. A reply whose call is
outstanding writes its register, or poisons it with NO_CONTEXT where refused, and lowers AMOCNT; a reply whose token
names no slot of the module or no outstanding call is discarded. For every slot of the module, register and sequence
number, the descriptor of the slot names it again, and the token of a call yields its slot, its reply register in
bits 24:20 and its sequence number in bits 63:32. -/
def Obligations.RemoteCalls : Prop :=
  (∀ (s : State) (p : PredNo) (d a b : RegNo) (id tid target : Nat) (arg token value : Word) (refused : Bool) (c : Call)
        (cs : List Call),
      (Ready s p [.s a.toNat, .s b.toNat] [.s d.toNat] → Settled s → s.descriptorOk s.here (s.sv a) = true → s.th.amoCnt < 16 →
        ∃ t, exec (.rcall p d a b) s = .next t ∧ Advances s t 4 ∧ t.mem = s.mem ∧ t.th.callSeq = s.th.callSeq + 1 ∧
          t.packets = s.packets ++ [.call s.nextId s.cur (targetOf (s.sv a)) (s.sv b) (callToken s.cur d.toNat s.th.callSeq)] ∧
          t.due = s.due ++ [.call s.nextId] ∧
          (d = 0 → t.th.amoCnt = s.th.amoCnt ∧ t.th.calls = s.th.calls) ∧
          (d ≠ 0 → t.th.pending (.s d.toNat) = true ∧ t.th.amoCnt = s.th.amoCnt + 1 ∧
            t.th.calls = s.th.calls ++ [(d.toNat, s.th.callSeq)])) ∧
      (s.packets = [.call id tid target arg token] →
        ((s.thread target).state ≠ .idle → (s.thread target).state ≠ .swapped → (s.thread target).callQ.length < 16 →
          (s.core (target / 16)).spilled = false →
          ∃ t, exec (.callDelivery id) s = .next t ∧ t.packets = [] ∧ t.mem = s.mem ∧
            (t.thread target).callQ = (s.thread target).callQ ++ [⟨arg, token⟩] ∧ ∀ k, k ≠ target → t.thread k = s.thread k) ∧
        ((s.thread target).state = .idle →
          ∃ t, exec (.callDelivery id) s = .next t ∧ t.packets = [.reply s.nextId 0 token true] ∧ t.threads = s.threads ∧
            t.due = s.due ++ [.reply s.nextId])) ∧
      (Ready s p [.s a.toNat, .s b.toNat] (pairDefs d) → Settled s → s.th.callQ = c :: cs →
        ∃ t, exec (.rret p d a b) s = .next t ∧ HoldsS t d c.arg ∧ (d ≠ 31 → HoldsS t (d + 1) c.token) ∧ t.th.callQ = cs ∧
          Advances s t 4 ∧ t.mem = s.mem ∧ (s.sv b = 0 → t.packets = s.packets) ∧
          (s.sv b ≠ 0 → t.packets = s.packets ++ [.reply s.nextId (s.sv a) (s.sv b) false] ∧ t.due = s.due ++ [.reply s.nextId] ∧
            (b ≠ d → (d = 31 ∨ b ≠ d + 1) → HoldsS t b 0))) ∧
      (s.packets = [.reply id value token refused] →
        (63 < bits token.toNat 7 0 ∨ 31 < bits token.toNat 15 8 ∨
          (bits token.toNat 24 20, BitVec.ofNat 32 (bits token.toNat 63 32)) ∉ (s.ctx (targetOf token)).calls) →
        exec (.callReply id) s = .next { s with packets := [] }) ∧
      (s.packets = [.reply id value token refused] → bits token.toNat 7 0 ≤ 63 → bits token.toNat 15 8 ≤ 31 →
        s.swappedOut (targetOf token) = false → (s.thread (targetOf token)).spec = none →
        let caller := s.thread (targetOf token)
        let reg := bits token.toNat 24 20
        reg ≠ 0 → (reg, BitVec.ofNat 32 (bits token.toNat 63 32)) ∈ caller.calls →
        ∃ t, exec (.callReply id) s = .next t ∧ t.packets = [] ∧ t.mem = s.mem ∧
          (t.thread (targetOf token)).sreg reg = (if refused then ⟨0, false, true, 4⟩ else ⟨value, false, false, 0⟩) ∧
          (t.thread (targetOf token)).amoCnt = caller.amoCnt - 1)) ∧
    (∀ (tid reg : Nat) (seq : BitVec 32), tid < 32768 → reg < 32 →
      targetOf (BitVec.ofNat 64 (descriptor tid)) = tid ∧ targetOf (callToken tid reg seq) = tid ∧
      bits (callToken tid reg seq).toNat 24 20 = reg ∧ BitVec.ofNat 32 (bits (callToken tid reg seq).toNat 63 32) = seq)

/-- rgrab, the grab at the bin, and arming (R49, R50, R51, R239, R148). For every ready thread off any path with fewer
than 16 value-returning atomics out and a bin of its paddock, rgrab leaves d and d + 1 pending and counted and owes
the grab. The grab at an armed bin hands out min(remaining, max(MIN, ceil(remaining ÷ 2 PART))) items from NEXT on,
with MIN and PART at least 1, and moves NEXT; at a disarmed bin it hands out none. A store of 1 or 0 to FBCTL.ARM
arms the bin, with NEXT set to START, or disarms it. -/
def Obligations.FeedBins : Prop :=
  ∀ (s : State) (p : PredNo) (d a : RegNo) (f : Flight) (x y e : Elem) (b : Nat),
    let bin := tget Bin.zero s.bins b
    let left := (bin.start + bin.len - bin.next).toNat
    let part := max bin.part.toNat 1
    let want := max (max bin.min.toNat 1) ((left + 2 * part - 1) / (2 * part))
    let len := if bin.arm then min left want else 0
    let after := if bin.arm then { bin with next := bin.next + BitVec.ofNat 64 len } else bin
    (Ready s p [.s a.toNat] [.s d.toNat, .s (d.toNat + 1)] → s.th.spec = none → d ≠ 31 → s.ownBin s.here (s.sv a).toNat = true →
      s.th.amoCnt < 16 →
      ∃ t g, exec (.rgrab p d a) s = .next t ∧ Advances s t 4 ∧ t.mem = s.mem ∧ t.th.amoCnt = s.th.amoCnt + 1 ∧
        (d ≠ 0 → t.th.pending (.s d.toNat) = true) ∧ t.th.pending (.s (d.toNat + 1)) = true ∧ g.id = s.nextId ∧
        g.kind = .grab ∧ g.dest = .pair d.toNat ∧ t.flights = s.flights ++ [g] ∧ t.due = s.due ++ [.grab s.nextId]) ∧
    (s.flights = [f] → f.kind = .grab → f.elems = [x, y] → x.place = .bin b 0 → x.done = false →
      ∃ t x' y', exec (.feedBinGrab (.own f.id)) s = .next t ∧ tget Bin.zero t.bins b = after ∧ t.mem = s.mem ∧
        t.flights = [{ f with elems := [x', y'], performed := true }] ∧ x'.data = bin.next.toNat ∧ y'.data = len ∧
        x'.done = true ∧ y'.done = true ∧ t.due = s.due ++ [.arrive f.id]) ∧
    (∃ t, exec (.feedBinGrab (.other b)) s = .next t ∧ tget Bin.zero t.bins b = after ∧
      t.outbox = s.outbox ++ [.grabbed b bin.next (BitVec.ofNat 64 len)]) ∧
    (s.flights = [f] → f.kind = .store → f.dest = .none → f.elems = [e] → e.place = .bin b 0x28 → e.w = 8 → e.done = false →
      NoWatches s → (∀ o ∈ s.fabops, o.tid ≠ f.tid) →
      (e.data % 2 = 1 → ∃ t, exec (.feedBinArm f.id e.part) s = .next t ∧ t.flights = [] ∧ t.mem = s.mem ∧
        tget Bin.zero t.bins b = { bin with next := bin.start, arm := true }) ∧
      (e.data % 2 = 0 → ∃ t, exec (.feedBinDisarm f.id e.part) s = .next t ∧ t.flights = [] ∧ t.mem = s.mem ∧
        tget Bin.zero t.bins b = { bin with arm := false }))

/-- Two threads that wait for each other are found and trapped (R276, R234, R260). For every state in which two threads
wait in a named recvm for each other, in user code with their trap registers read and no PREEMPT about to be taken:
the threshold of the one sends a probe; the probe goes on from the other; back at its origin it turns into a strike;
and the strike makes both take cause 27, with the sender awaited and the number of threads in TVAL. -/
def Obligations.ReceiveCycles : Prop :=
  ∀ (s : State) (x y tx ty id : Nat), x ≠ y → s.recvEdge x = some (y, tx) → s.recvEdge y = some (x, ty) →
    (s.probes = [] → ∃ t, exec (.receiveThreshold x) s = .next t ∧ t.probes = [⟨s.nextId, [(x, tx)], y, false⟩] ∧
      t.due = s.due ++ [.probe s.nextId] ∧ t.threads = s.threads) ∧
    (s.probes = [⟨id, [(x, tx)], y, false⟩] → ∃ t, exec (.recvProbe id) s = .next t ∧
      t.probes = [⟨id, [(x, tx), (y, ty)], x, false⟩] ∧ t.due = s.due ++ [.probe id] ∧ t.threads = s.threads) ∧
    (s.probes = [⟨id, [(x, tx), (y, ty)], x, false⟩] → ∃ t, exec (.recvProbe id) s = .next t ∧
      t.probes = [⟨id, [(x, tx), (y, ty)], x, true⟩] ∧ t.due = s.due ++ [.strike id] ∧ t.threads = s.threads) ∧
    (s.probes = [⟨id, [(x, tx), (y, ty)], x, true⟩] →
      (∀ k ∈ [x, y], (s.thread k).ts.unrc = false ∧ (s.thread k).ts.unrv = false ∧
        ((s.thread k).ts.hold = true ∨ (s.thread k).ts.ipPreempt = false)) →
      ∃ t, exec (.recvStrike id) s = .next t ∧ t.probes = [] ∧ t.mem = s.mem ∧
        (t.thread x).tcause = 27 ∧ (t.thread x).tval = BitVec.ofNat 64 (descriptor y + 2 * 2 ^ 32) ∧ (t.thread x).pc = (s.thread x).tvec ∧
        (t.thread y).tcause = 27 ∧ (t.thread y).tval = BitVec.ofNat 64 (descriptor x + 2 * 2 ^ 32) ∧ (t.thread y).pc = (s.thread y).tvec)

/-- Groups are joined, time out, are left and dissolve (R43, R44, R45, R241, R242, R277, R46, R243, R244, R407). For
every ready thread off any path with a free membership slot, a gjoin with a legal descriptor that opens a group
makes the group and waits, and owes the completion where it is the only member. When every member has joined, here
or by the join of another module that has reached the id, the completion makes the membership of a waiting joiner
valid and retires its gjoin; a joiner that an earlier conflicting join of another module has shut out takes GROUP
with MISMATCH. The timeout makes it take GROUP with the timeout subcode and frees the id. A gjoin reissued after its
join completed only advances, and one on a valid slot takes GROUP with SLOT_BUSY. For every ready thread off any
path: gleave on a membership of a complete group of two, in a core with no yard, clears the slot, marks the group
dissolved without its member, owes the news and tells the other modules; it ends the member's yard where nothing
moves, no axis command waits and no access has arrived; on an empty slot it only advances. The news sets DISS in a
member that is in no agreed branch; a joiner that still waits when the leave of the other member arrives takes GROUP
with DISSOLVED. ginfo writes the group id, or 0 for no membership. gabsent sets ABSENT where ABSOK is 1, and takes
GROUP with ABSENT where it is 0. -/
def Obligations.Groups : Prop :=
  (∀ (s : State) (slot : BitVec 2) (a b : RegNo) (g : Group) (j : Joiner) (r : RemoteJoin), s.th.spec = none →
      let k := slot.toNat
      let gid : BitVec 48 := (s.sv a).setWidth 48
      let d := JoinDesc.of (s.sv b)
      let ready := Ready s 0 [.s a.toNat, .s b.toNat] []
      let joined := (s.thread j.tid).state = .waiting ∧ (s.thread j.tid).wait = some (.join j.slot) ∧ s.swappedOut j.tid = false
      (ready → s.th.mem k = Memb.none → gid ≠ 0 → d.ok = true → s.group gid = none → s.combining < 1024 →
        ∃ t, exec (.gjoin slot a b) s = .next t ∧ t.th.state = .waiting ∧ t.th.wait = some (.join k) ∧ t.th.pc = s.th.pc ∧ t.mem = s.mem ∧
          t.groups = s.groups ++ [⟨gid, d.count, d.absok, d.rooted, [⟨d.index, s.cur, k⟩], [], false, false, true⟩] ∧
          t.due = s.due ++ (if d.count = 1 then [.joined gid] else [])) ∧
      (ready → (s.th.mem k).valid = true → (s.th.mem k).note = none → Traps (.gjoin slot a b) s 30 (groupVal 6 k)) ∧
      (ready → (s.th.mem k).valid = true → (s.th.mem k).note = some 0 → (s.th.mem k).gid = gid →
        ∃ t, exec (.gjoin slot a b) s = .next t ∧ t.th.mem k = { s.th.mem k with note := none } ∧ Advances s t 4 ∧ t.mem = s.mem) ∧
      (s.groups = [g] → g.joins = [j] → g.complete = false → g.dissolved = false → joined →
        let joins := fun (rs : List RemoteJoin) (others : List (Nat × Nat)) =>
          ∃ t, exec (.joinComplete g.gid ⟨rs, []⟩) s = .next t ∧ t.groups = [{ g with others := others, complete := true }] ∧ t.mem = s.mem ∧
            (t.thread j.tid).mem j.slot =
              { Memb.none with valid := true, absok := g.absok, rooted := g.rooted, count := BitVec.ofNat 24 g.count,
                               index := BitVec.ofNat 24 j.index, gid := g.gid } ∧
            (t.thread j.tid).state = .ready ∧ (t.thread j.tid).pc = ((s.thread j.tid).seqTo ((s.thread j.tid).pc + 4)).pc
        (g.placed = true → g.others.length + 1 = g.count → joins [] g.others) ∧
        (g.placed = true → g.others.length + 2 = g.count → r.count = g.count → r.absok = g.absok → r.rooted = g.rooted →
          r.index < g.count → g.holds r.index = false → joins [r] (g.others ++ [(r.index, r.peer)])) ∧
        (joinConflicts r g j.index = true → ∃ t, exec (.joinComplete g.gid ⟨[r], [j.index]⟩) s = .next t ∧ t.mem = s.mem ∧
          t.thread j.tid = (s.trap j.tid 30 (groupVal 1 j.slot) (s.thread j.tid).pc).thread j.tid) ∧
        exec (.groupTimeout g.gid) s =
          .next ({ s with groups := [], agreements := s.agreements.filter fun x => x.gid != g.gid }.trap j.tid 30
            (groupVal 2 j.slot) (s.thread j.tid).pc))) ∧
    (∀ (s : State) (slot : BitVec 2) (d : RegNo) (g : Group) (j me : Joiner), s.th.spec = none →
      let k := slot.toNat
      let m := s.th.mem k
      (Ready s 0 [] [] → m.valid = false → JustAdvances (.gleave slot) s) ∧
      (Ready s 0 [] [] → m.valid = true → (s.core s.here).yard.cfg = false → s.groups = [g] → g.gid = m.gid → g.complete = true →
        g.dissolved = false → g.joins = [me, j] → me.tid = s.cur → me.slot = k → (j.tid ≠ s.cur ∨ j.slot ≠ k) →
        ∃ t, exec (.gleave slot) s = .next t ∧ t.th.mem k = Memb.none ∧ t.groups = [{ g with joins := [j], dissolved := true }] ∧
          t.due = s.due ++ [.dissolved g.gid] ∧ t.outbox = s.outbox ++ [.leave g.gid m.index.toNat] ∧ Advances s t 4 ∧ t.mem = s.mem) ∧
      (let y := (s.core s.here).yard
       Ready s 0 [] [] → m.valid = true → y.cfg = true → y.gid = m.gid → y.tid = s.cur → y.busy = false → (s.core s.here).axisQ = [] →
        s.yardArrived s.here = false → s.swappedOut s.cur = false →
        ∃ t, exec (.gleave slot) s = .next t ∧ (t.core s.here).yard = { y with cfg := false, dead := true } ∧ t.th.mem k = Memb.none ∧
          Advances s t 4 ∧ t.mem = s.mem) ∧
      (s.groups = [g] → g.complete = true → g.dissolved = true → g.joins = [j] → s.swappedOut j.tid = false →
        (s.thread j.tid).spec = none → (s.thread j.tid).wait ≠ some (.agreement j.slot) →
        ∃ t, exec (.groupDissolved g.gid []) s = .next t ∧ ((t.thread j.tid).mem j.slot).diss = true ∧ t.mem = s.mem ∧
          ∀ x, x ≠ j.tid → t.thread x = s.thread x) ∧
      (∀ o, s.groups = [g] → g.complete = false → g.dissolved = false → g.joins = [j] → g.others = [o] → s.swappedOut j.tid = false →
        (s.thread j.tid).state = .waiting → (s.thread j.tid).wait = some (.join j.slot) →
        ∃ t, exec (.groupDissolved g.gid [o.1]) s = .next t ∧ t.groups = [] ∧ t.mem = s.mem ∧
          t.thread j.tid = (s.trap j.tid 30 (groupVal 3 j.slot) (s.thread j.tid).pc).thread j.tid ∧
          ∀ x, x ≠ j.tid → t.thread x = s.thread x) ∧
      (Ready s 0 [] [.s d.toNat] → ScalarResult (.ginfo slot d) s d (if m.valid then m.gid.setWidth 64 else 0) 0) ∧
      (Ready s 0 [] [] → m.valid = true → m.diss = false →
        (m.absok = false → Traps (.gabsent slot) s 30 (groupVal 4 k)) ∧
        (m.absok = true → s.agreements = [] →
          ∃ t, exec (.gabsent slot) s = .next t ∧ t.th.mem k = { m with absent := true } ∧ Advances s t 4 ∧ t.mem = s.mem)))

/-- Agreed branches and the agreements they wait for (R242, R245, R246, R247, R248, R252, R244, R441, R442, R443, R255,
R428). For every ready thread off any path, cbr.all and cbr.any on an invalid, dissolved or absent membership take
GROUP, and on a good one with a target at or above 2^20 cause 1; else on a good one they owe the contribution of the
predicate bit, take a checkpoint and go on at the arm that the hint names; with an outcome latched they take its
arm. When the outcome of the agreement is known, a prediction that was right loses its checkpoint and goes on, a
wrong one is restored to the checkpoint, its loop stack with it, and takes the other arm: the jump to the target, or
the instruction behind the branch with the test of R153. That the membership checks come before the check of the
target is the choice of the model (DEDUCED, log entry 28). For every group of two whose members are both here and
none absent, the first contribution to an agreement is noted; the second makes the module owe each member its
outcome, where one of them awaits it; a second contribution of the same member changes nothing noted. A contribution
of another module whose tag does not verify, which here means that its key is not the agreement key (DESIGN CHOICE,
log entry 11), is dropped and logged. At the speculation limit a waiting member takes cause 50 with the slot in
TVAL. -/
def Obligations.AgreedBranches : Prop :=
  (∀ (s : State) (off : BitVec 11) (hint : Bool) (bit : BitVec 6) (p : PredNo) (slot : BitVec 2), Ready s 0 [] [] → s.th.spec = none →
      let k := slot.toNat
      let m := s.th.mem k
      let target := s.th.pc + off.signExtend 64 <<< 1
      let at_ := fun taken : Bool => if taken then s.th.jumpTo target else s.th.seqTo (s.th.pc + 4)
      (∀ x ∈ [(Instr.cbrAll off hint bit p slot, false), (.cbrAny off hint bit p slot, true)],
        (m.valid = false → Traps x.1 s 30 (groupVal 5 k)) ∧
        (m.valid = true → m.diss = true → Traps x.1 s 30 (groupVal 3 k)) ∧
        (m.valid = true → m.diss = false → m.absent = true → Traps x.1 s 30 (groupVal 4 k)) ∧
        (m.valid = true → m.diss = false → m.absent = false → 2 ^ 20 ≤ target.toNat → Traps x.1 s 1 target) ∧
        (m.valid = true → m.diss = false → m.absent = false → target.toNat < 2 ^ 20 →
          (m.contrib = false →
            ∃ t sp, exec x.1 s = .next t ∧ t.th.spec = some sp ∧ sp.ckpt = s.th.checkpoint ∧ sp.hint = hint ∧ sp.run = 0 ∧ sp.cbrPc = s.th.pc ∧
              sp.other = (if hint then s.th.pc + 4 else target) ∧ GoesOn s t (at_ hint) ∧ (t.th.mem k).contrib = true ∧
              t.due = s.due ++ [.contribute m.gid m.ordinal m.index.toNat x.2 ((s.pv p).getLsbD bit.toNat)] ∧ t.mem = s.mem) ∧
          (m.contrib = true → m.mismatch = false → m.latch = true →
            ∃ t, exec x.1 s = .next t ∧ GoesOn s t (at_ m.outcome) ∧ (t.th.mem k).contrib = false ∧ (t.th.mem k).latch = false ∧
              t.mem = s.mem))) ∧
      (∀ (u : State) (g : Group) (cs : List Contrib) (sent : List Nat) (tid : Nat) (sp : Spec) (mu : Memb) (outcome : Bool), (u.thread tid).mem k = mu →
        (u.thread tid).spec = some sp → sp.slot = slot → sp.defer = none → u.swappedOut tid = false → mu.valid = true → mu.contrib = true →
        mu.latch = false → u.groups = [g] → g.gid = mu.gid → u.agreements = [⟨mu.gid, mu.ordinal - 1, cs, sent, some (some outcome)⟩] →
        (u.thread tid).pen = [] → u.flights = [] →
        (outcome = sp.hint → ∃ t, exec (.agreementResolution tid ⟨slot, none⟩) u = .next t ∧ (t.thread tid).spec = none ∧
          (t.thread tid).pc = (u.thread tid).pc ∧ (t.thread tid).s = (u.thread tid).s ∧ ((t.thread tid).mem k).contrib = false ∧
          t.mem = u.mem) ∧
        (outcome ≠ sp.hint → ∃ t, exec (.agreementResolution tid ⟨slot, none⟩) u = .next t ∧ (t.thread tid).spec = none ∧
          (let back : Thread := { u.thread tid with pc := sp.cbrPc, loops := sp.ckpt.loops, ldep := sp.ckpt.ldep }
           let gone := if sp.hint then back.seqTo (sp.cbrPc + 4) else back.jumpTo sp.other
           (t.thread tid).pc = gone.pc ∧ (t.thread tid).loops = gone.loops ∧ (t.thread tid).ldep = gone.ldep) ∧
          (t.thread tid).s = sp.ckpt.s ∧ (t.thread tid).v = sp.ckpt.v ∧ (t.thread tid).p = sp.ckpt.p ∧
          (t.thread tid).fflags = sp.ckpt.fflags ∧ (t.thread tid).instret = sp.ckpt.instret + 1 ∧ (t.thread tid).state = .ready ∧
          t.mem = u.mem))) ∧
    (∀ (s : State) (g : Group) (j0 j1 : Joiner) (n tid k : Nat) (any v w : Bool) (h : PktHdr), s.groups = [g] → g.count = 2 → g.others = [] →
      g.joins = [j0, j1] → j0.index = 0 → j1.index = 1 → (∀ j ∈ [j0, j1], ((s.ctx j.tid).mem j.slot).absent = false) →
      (s.agreements = [] → ∃ t, exec (.agreementContribution g.gid n [0] any v none) s = .next t ∧
        t.agreements = [⟨g.gid, n, [⟨0, any, v⟩], [], none⟩] ∧ t.due = s.due ∧ t.mem = s.mem) ∧
      (s.agreements = [⟨g.gid, n, [⟨0, any, v⟩], [], none⟩] →
        ((∃ j ∈ [j0, j1], let m := (s.ctx j.tid).mem j.slot; m.valid = true ∧ m.contrib = true ∧ m.latch = false ∧ m.ordinal - 1 = n) →
          ∃ t, exec (.agreementContribution g.gid n [1] any w none) s = .next t ∧
          t.agreements = [⟨g.gid, n, [⟨0, any, v⟩, ⟨1, any, w⟩], [], some (some (if any then v || w else v && w))⟩] ∧
          t.due = s.due ++ [.resolve j0.tid (BitVec.ofNat 2 j0.slot), .resolve j1.tid (BitVec.ofNat 2 j1.slot)]) ∧
        (∃ t, exec (.agreementContribution g.gid n [0] any w none) s = .next t ∧ t.agreements = s.agreements ∧ t.due = s.due)) ∧
      (g.rooted = false → s.agrKey ≠ some h.key →
        ∃ t e, exec (.agreementContribution g.gid n [0] any v (some h)) s = .next t ∧ t.agreements = s.agreements ∧ t.due = s.due ∧
          tget e t.log (s.loghead.toNat % 4096) = e ∧ e.event = 4 ∧ e.sub = 1) ∧
      ((s.thread tid).spec = none → (s.thread tid).state = .waiting → (s.thread tid).wait = some (.agreement k) →
        exec (.specLimit tid) s = .next (s.trap tid 50 (BitVec.ofNat 64 k) (s.thread tid).pc)))

/-- Taking an exception (R264). For every state and slot, a synchronous trap with UNRC and UNRV 0 writes TCAUSE, TVAL
and TEPC, saves MODE and HOLD in PP and PHOLD, sets HOLD, UNRC, UNRV and MODE, and goes to OVEC for cause 24 and to
TVEC for every other; with UNRC or UNRV 1 it writes NCAUSE and NVAL, halts the slot, of whose wait it leaves a watch
entry alone, and notifies the hayloft. An interrupt enters in the first way whatever the two bits say. Registers,
loop stack and pending bits stay, and so do memory and every other thread; srd of TCAUSE and of TVAL clear UNRC and
UNRV. -/
def Obligations.TrapEntry : Prop :=
  (∀ (s : State) (tid cause : Nat) (value epc : Word), cause < 64 →
      let old := s.thread tid
      let new := (s.trap tid cause value epc).thread tid
      (∀ k, k ≠ tid → (s.trap tid cause value epc).thread k = s.thread k) ∧ (s.trap tid cause value epc).mem = s.mem ∧
      (old.ts.unrc = false → old.ts.unrv = false →
        new = { old with
          state := .ready, wait := none, tcause := BitVec.ofNat 64 cause, tval := value, tepc := epc &&& 0xFFFFE, bpSkip := false, ir := none
          ts := { old.ts with pp := old.ts.sup, phold := old.ts.hold, hold := true, unrc := true, unrv := true, sup := true }
          pc := if cause = 24 then (s.core (tid / 16)).ovec else old.tvec }) ∧
      ((old.ts.unrc || old.ts.unrv) = true →
        new = { old with
          state := .haltedNested, ncause := BitVec.ofNat 64 cause, nval := value
          wait := match old.wait with
            | some (.watch lo hi) => some (.watch lo hi)
            | _ => none } ∧
        (s.trap tid cause value epc).nested = true ∧ (s.trap tid cause value epc).lognew = true)) ∧
    (∀ (s : State) (i : Irq) (code : Nat), s.th.spec = none → s.th.irqDue = some (i, code) →
      ∃ t, exec .interruptTake s = .next t ∧ t.mem = s.mem ∧ (∀ k, k ≠ s.cur → t.thread k = s.thread k) ∧
        t.th = { s.th with
          state := .ready, wait := none, tcause := BitVec.ofNat 64 (2 ^ 63 + code), tval := 0, tepc := s.th.pc &&& 0xFFFFE
          bpSkip := false, ir := none, pc := s.th.tvec
          ts := { s.th.ts.setIp i false with
                  pp := s.th.ts.sup, phold := s.th.ts.hold, hold := true, unrc := true, unrv := true, sup := true } }) ∧
    (∀ (s : State) (p : PredNo) (d : RegNo), Ready s p [] [.s d.toNat] → s.th.spec = none → s.th.ts.sup = true →
      (∃ t, exec (.srd p d 0x000) s = .next t ∧ HoldsS t d s.th.tcause ∧ t.th.ts = { s.th.ts with unrc := false } ∧ Advances s t 4) ∧
      (∃ t, exec (.srd p d 0x001) s = .next t ∧ HoldsS t d s.th.tval ∧ t.th.ts = { s.th.ts with unrv := false } ∧ Advances s t 4))

/-- trap, tret, illegal encodings and the priority of interrupts (R115, R262, R263, R264, R267, R268, R258). For every
ready thread off any path, trap takes cause 8 with TVAL 0, and tret in supervisor mode goes to TEPC, pops every
supervisor loop and keeps the user ones in order, restores MODE and HOLD and clears UNRC and UNRV, with every
register kept. An illegal encoding takes cause 2 with its bits. A slot that holds no interrupts takes PREEMPT before
host, message, timer and mailbox interrupts, each of the last four only where enabled, and an idle, halted or
swapped slot takes none. That tret is a jump and takes no loop test of R153 or R154, so that the user loops stay
wherever TEPC lies, is the choice of the model (DEDUCED, log entry 28). -/
def Obligations.TrapAndReturn : Prop :=
  ∀ (s : State) (p : PredNo) (bits : BitVec 32),
    (Ready s p [] [] → s.th.spec = none → Traps (.trap p) s 8 0) ∧
    (Ready s p [] [] → s.th.spec = none → s.th.ts.sup = true →
      ∃ t, exec (.tret p) s = .next t ∧ t.th.pc = s.th.tepc ∧ t.th.state = .ready ∧ t.th.instret = s.th.instret + 1 ∧
        t.th.ts = { s.th.ts with sup := s.th.ts.pp, hold := s.th.ts.phold, unrc := false, unrv := false } ∧
        t.th.ldep = (s.th.userLoops s.th.ldep).length ∧
        (∀ k, t.th.loop k = (s.th.userLoops s.th.ldep).getD k (s.th.loop k)) ∧ t.th.s = s.th.s ∧ t.th.v = s.th.v ∧ t.th.p = s.th.p ∧
        t.th.fflags = s.th.fflags ∧ t = { s with threads := t.threads } ∧ ∀ k, k ≠ s.cur → t.thread k = s.thread k) ∧
    (s.th.held = false → s.th.spec = none → Traps (.illegalEncoding bits) s 2 (bits.setWidth 64)) ∧
    (s.th.state = .ready ∨ s.th.state = .waiting →
      let ts := s.th.ts
      (ts.hold = true → s.th.irqDue = none) ∧
      (ts.hold = false → ts.ipPreempt = true → s.th.irqDue = some (.preempt, 16)) ∧
      (ts.hold = false → ts.ipPreempt = false → ts.ipHost = true → ts.enHost = true → s.th.irqDue = some (.host, 11)) ∧
      (ts.hold = false → ts.ipPreempt = false → (ts.ipHost && ts.enHost) = false → ts.ipMessage = true → ts.enMessage = true →
        s.th.irqDue = some (.message, 17)) ∧
      (ts.hold = false → ts.ipPreempt = false → (ts.ipHost && ts.enHost) = false → (ts.ipMessage && ts.enMessage) = false →
        (ts.ipTimer = true → ts.enTimer = true → s.th.irqDue = some (.timer, 7)) ∧
        ((ts.ipTimer && ts.enTimer) = false → ts.ipMailbox = true → ts.enMailbox = true → s.th.irqDue = some (.mailbox, 3)))) ∧
    (s.th.state = .idle ∨ s.th.state = .haltedNested ∨ s.th.state = .swapped →
      s.th.irqDue = none ∧ exec .interruptTake s = .next s)

/-- srd and swr, register by register (R140, R141, R142, R144, R258, R259, R267, R7). For every ready thread off any
path, srd of every register of the table writes its value to d in a mode that may read it (TCAUSE and TVAL:
TrapEntry); MSTAT clears its five RC fields. In user mode a supervisor register, and in any mode a number that is
not in the table, takes cause 2 with the bits. swr in supervisor mode writes TCAUSE, TVAL, TEPC, TVEC, TSCRATCH,
XBOUND, OVEC, INSTRET, LDEP (5 to 7 are ignored), LBEG, LEND and LCNT with their reserved bits zero, and IEN, PP,
PHOLD and HOLD of TSTATUS alone; FFLAGS and FRM are written, and ERRFAB and ERRST of OSTAT cleared by ones, in
either mode; swr of any other number takes cause 2. Memory is as before. That INSTRET reads one more than the value
written, because the swr itself retires, and that LBEG keeps the mode of its entry are choices of the model
(DEDUCED, log entry 28). -/
def Obligations.SystemRegisters : Prop :=
  ∀ (s : State) (p : PredNo) (d a : RegNo), s.th.spec = none →
    let unlisted := fun n : BitVec 10 =>
      7 < n.toNat ∧ n ∉ [(0x010 : BitVec 10), 0x011, 0x020, 0x021, 0x030, 0x031, 0x040, 0x041, 0x050, 0x060, 0x061, 0x062, 0x063, 0x064,
        0x070, 0x080, 0x090] ∧ ¬ (0x098 ≤ n.toNat ∧ n.toNat ≤ 0x0A3)
    (Ready s p [] [.s d.toNat] →
      (∀ x ∈ [((0x010 : BitVec 10), (s.core s.here).xbound), (0x020, s.coreId s.here), (0x021, BitVec.ofNat 64 (s.cur % 16)),
          (0x030, (s.core s.here).cycle), (0x031, s.th.instret), (0x040, s.th.fflags.setWidth 64), (0x041, s.th.frm.setWidth 64),
          (0x050, (s.core s.here).yard.word (s.core s.here).yard.cfg), (0x060, (s.th.mem 0).word), (0x061, (s.th.mem 1).word),
          (0x062, (s.th.mem 2).word), (0x063, (s.th.mem 3).word), (0x064, s.penStat s.th s.cur), (0x080, s.th.oStat),
          (0x090, BitVec.ofNat 64 s.th.ldep)],
        ScalarResult (.srd p d x.1) s d x.2 0) ∧
      (∀ k, k < 4 → ∀ x ∈ [(0x098, (s.th.loop k).lbeg), (0x09C, (s.th.loop k).lend), (0x0A0, (s.th.loop k).lcnt.setWidth 64)],
        ScalarResult (.srd p d (BitVec.ofNat 10 (x.1 + k))) s d x.2 0) ∧
      (∃ t, exec (.srd p d 0x070) s = .next t ∧ HoldsS t d (s.th.mStat (s.core s.here).narrow) ∧ Advances s t 4 ∧ t.mem = s.mem ∧
        t.th.mNseen = false ∧ t.th.mNv = false ∧ t.th.mOf = false ∧ t.th.mUf = false ∧ t.th.mNx = false ∧
        (∀ r, r ≠ d.toNat → t.th.sreg r = s.th.sreg r) ∧ ∀ k, k ≠ s.cur → t.thread k = s.thread k) ∧
      (s.th.ts.sup = true →
        ∀ x ∈ [((0x002 : BitVec 10), s.th.tepc), (0x003, s.th.ts.word), (0x004, s.th.tvec), (0x005, s.th.tscratch), (0x006, s.th.ncause),
          (0x007, s.th.nval), (0x011, (s.core s.here).ovec)], ScalarResult (.srd p d x.1) s d x.2 0) ∧
      (s.th.ts.sup = false → ∀ n : BitVec 10, n.toNat ≤ 7 ∨ n = 0x011 → Traps (.srd p d n) s 2 (bitsVal (.srd p d n))) ∧
      (∀ n : BitVec 10, unlisted n → Traps (.srd p d n) s 2 (bitsVal (.srd p d n)))) ∧
    (Ready s p [.s a.toNat] [] →
      let v := s.sv a
      let sets := fun (n : BitVec 10) (u : Thread) => exec (.swr p a n) s = .next (s.modTh fun _ => (u.seqTo (s.th.pc + 4)).retired)
      let writes := fun (n : BitVec 10) (holds : State → Prop) =>
        ∃ t, exec (.swr p a n) s = .next t ∧ holds t ∧ t.th.state = .ready ∧ t.th.pc = (s.th.seqTo (s.th.pc + 4)).pc ∧ t.mem = s.mem ∧
          t.th.s = s.th.s ∧ ∀ k, k ≠ s.cur → t.thread k = s.thread k
      (s.th.ts.sup = true →
        writes 0x000 (fun t => t.th.tcause = v &&& 0x800000000000003F) ∧ writes 0x001 (fun t => t.th.tval = v) ∧
        writes 0x002 (fun t => t.th.tepc = v &&& 0xFFFFE) ∧ writes 0x004 (fun t => t.th.tvec = v &&& 0xFFFFE) ∧
        writes 0x005 (fun t => t.th.tscratch = v) ∧ writes 0x010 (fun t => (t.core s.here).xbound = v &&& 0x1FFFFE) ∧
        writes 0x011 (fun t => (t.core s.here).ovec = v &&& 0x1FFFFE) ∧
        writes 0x003 (fun t => t.th.ts = { s.th.ts with
          enMessage := v.getLsbD 14, enHost := v.getLsbD 13, enTimer := v.getLsbD 12, enMailbox := v.getLsbD 11
          pp := v.getLsbD 4, phold := v.getLsbD 1, hold := v.getLsbD 0 })) ∧
      (s.th.ts.sup = true →
        sets 0x031 { s.th with instret := v } ∧ sets 0x090 { s.th with ldep := if 4 < v.toNat % 8 then s.th.ldep else v.toNat % 8 } ∧
        ∀ k, k < 4 → let new := fun e => { s.th with loops := tset s.th.loops k e }
          sets (BitVec.ofNat 10 (0x098 + k)) (new { s.th.loop k with lbeg := v &&& 0xFFFFE }) ∧
          sets (BitVec.ofNat 10 (0x09C + k)) (new { s.th.loop k with lend := v &&& 0xFFFFE }) ∧
          sets (BitVec.ofNat 10 (0x0A0 + k)) (new { s.th.loop k with lcnt := v.setWidth 32 })) ∧
      writes 0x040 (fun t => t.th.fflags = v.setWidth 6) ∧ writes 0x041 (fun t => t.th.frm = v.setWidth 3) ∧
      writes 0x080 (fun t => t.th.errFab = (s.th.errFab && !v.getLsbD 57) ∧ t.th.errSt = (s.th.errSt && !v.getLsbD 56)) ∧
      (s.th.ts.sup = false → ∀ n ∉ [(0x040 : BitVec 10), 0x041, 0x080], Traps (.swr p a n) s 2 (bitsVal (.swr p a n))) ∧
      (∀ n : BitVec 10, unlisted n ∨ n ∈ [(0x006 : BitVec 10), 0x007, 0x020, 0x021, 0x030, 0x050, 0x060, 0x061, 0x062, 0x063, 0x064, 0x070] →
        Traps (.swr p a n) s 2 (bitsVal (.swr p a n))))

/-- Contexts are saved, restored and ended (R269, R270, R271, R138, R42, R231, R238, R262, R274). For every ready
supervisor thread with nothing under way and a canonical memory, ctxs to a free, unwatched area writes every
register of R269 at its place, with the poison code in the words of a poisoned register and in no other, and leaves
every other byte and poison code alone. ctxr writes s1 to s31, v0 to v31 and p1 to p7 from such an area, poisoned
where a word is; from words without poison it restores FFLAGS, FRM, INSTRET, TCAUSE, TVAL, TEPC, the IEN, PP, PHOLD
and HOLD bits of TSTATUS and the loop stack, on which its own test of R153 is then made, and keeps the memberships,
TVEC, TSCRATCH, NCAUSE and NVAL; with HALT = 1 it parks its slot. A misaligned area takes cause 6 or 4 with its
address. For every ready thread off any path with no memberships, joins, queued calls or waiting launches: exit
makes its slot idle with every register zero where all it issued has ended, and else waits and owes the end, which
comes once all has ended. A timer tick sets the timer bit in every slot of its paddock that is not idle. The spill
of a preempted core with no ready slot empties its queues into the context buffer. That INSTRET reads one more than
the value restored and that LDEP 5 to 7 in the area keeps the depth are choices of the model (DEDUCED, log entry
28). That the tick strikes in every slot that is not idle, what exit waits for (State.drained) and the order of a
spill, queue by queue, are choices of the model (DEDUCED, log entry 28). -/
def Obligations.SaveRestoreAndEnd : Prop :=
  (∀ (s : State) (p : PredNo) (halt : Bool) (a : RegNo), s.Inv → s.th.ts.sup = true → Settled s →
      let at_ := if a = 0 then 0xF6000 + 0xA00 * (s.cur % 16) else (s.sv a).toNat
      let place := Region.local s.here + at_
      let free := s.heldAt (.loc s.here at_) 2560 = false
      let word := fun k => s.mem.read (place + k) 8
      let bad := fun k => s.mem.poisoned (place + k)
      (Ready s p [.s a.toNat] [] → at_ % 64 ≠ 0 → Traps (.ctxs p a) s 6 (BitVec.ofNat 64 at_)) ∧
      (Ready s p [.s a.toNat] allRegs → at_ % 64 ≠ 0 → Traps (.ctxr p halt a) s 4 (BitVec.ofNat 64 at_)) ∧
      (Ready s p [.s a.toNat] [] → at_ % 64 = 0 → at_ + 2560 ≤ 2 ^ 20 → free → s.th.anyPending = false → NoWatches s →
        ∃ t, exec (.ctxs p a) s = .next t ∧ Advances s t 4 ∧ KeepsOutside s t place 2560 ∧ t.th.s = s.th.s ∧ t.th.v = s.th.v ∧
          (∀ n, n < 32 → t.mem.read (place + 8 * n) 8 = (s.th.sreg n).val.toNat ∧
            t.mem.poisoned (place + 8 * n) = (s.th.sreg n).poison) ∧
          (∀ n k, n < 32 → k < 8 → t.mem.read (place + 0x100 + 64 * n + 8 * k) 8 = lane 8 (s.th.vreg n).val k ∧
            t.mem.poisoned (place + 0x100 + 64 * n + 8 * k) = (s.th.vreg n).poison) ∧
          (∀ n, n < 8 → t.mem.read (place + 0x900 + 8 * n) 8 = (s.th.pred n).toNat) ∧
          t.mem.read (place + 0x940) 8 = s.th.fflags.toNat ∧ t.mem.read (place + 0x948) 8 = s.th.frm.toNat ∧
          t.mem.read (place + 0x950) 8 = s.th.instret.toNat ∧ t.mem.read (place + 0x958) 8 = s.th.ldep % 2 ^ 64 ∧
          (∀ n, n < 4 → let e := s.th.loop n
            t.mem.read (place + 0x960 + 8 * n) 8 = (e.lbeg.toNat + if e.sup then 1 else 0) % 2 ^ 64 ∧
            t.mem.read (place + 0x980 + 8 * n) 8 = e.lend.toNat ∧ t.mem.read (place + 0x9A0 + 8 * n) 8 = e.lcnt.toNat ∧
            t.mem.read (place + 0x9C0 + 8 * n) 8 = (s.th.mem n).word.toNat) ∧
          (∀ k, 0x900 ≤ k → k < 0xA00 → t.mem.poisoned (place + k) = false) ∧
          t.mem.read (place + 0x9E0) 8 = s.th.tcause.toNat ∧ t.mem.read (place + 0x9E8) 8 = s.th.tval.toNat ∧
          t.mem.read (place + 0x9F0) 8 = s.th.tepc.toNat ∧ t.mem.read (place + 0x9F8) 8 = s.th.ts.word.toNat) ∧
      (Ready s p [.s a.toNat] allRegs → at_ % 64 = 0 → at_ + 2560 ≤ 2 ^ 20 → free →
        ∃ t, exec (.ctxr p halt a) s = .next t ∧ t.mem = s.mem ∧ (∀ k, k ≠ s.cur → t.thread k = s.thread k) ∧
          t.th.state = (if halt then .waiting else .ready) ∧ t.th.wait = (if halt then some .parked else none) ∧
          (∀ n, 0 < n → n < 32 → t.th.sreg n =
            if bad (8 * n) then ⟨0, false, true, 0⟩ else ⟨BitVec.ofNat 64 (word (8 * n)), false, false, 0⟩) ∧
          (∀ n k, n < 32 → k < 8 → lane 8 (t.th.vreg n).val k = word (0x100 + 64 * n + 8 * k)) ∧
          (∀ n, n < 32 → ((t.th.vreg n).poison = true ↔ ∃ k, k < 8 ∧ bad (0x100 + 64 * n + 8 * k) = true)) ∧
          (∀ n, 0 < n → n < 8 → bad (0x900 + 8 * n) = false → t.th.pred n = BitVec.ofNat 64 (word (0x900 + 8 * n))) ∧
          ((∀ k, 0x940 ≤ k → k < 0xA00 → bad k = false) →
            let w := fun k => BitVec.ofNat 64 (word k)
            let depth := word 0x958 % 8
            t.th.fflags = (w 0x940).setWidth 6 ∧ t.th.frm = (w 0x948).setWidth 3 ∧ t.th.instret = w 0x950 + 1 ∧
            t.th.tcause = w 0x9E0 &&& 0x800000000000003F ∧ t.th.tval = w 0x9E8 ∧ t.th.tepc = w 0x9F0 &&& 0xFFFFE ∧
            t.th.ts = { s.th.ts with
              enMessage := (w 0x9F8).getLsbD 14, enHost := (w 0x9F8).getLsbD 13, enTimer := (w 0x9F8).getLsbD 12
              enMailbox := (w 0x9F8).getLsbD 11, pp := (w 0x9F8).getLsbD 4, phold := (w 0x9F8).getLsbD 1, hold := (w 0x9F8).getLsbD 0 } ∧
            t.th.memb = s.th.memb ∧ t.th.tvec = s.th.tvec ∧ t.th.tscratch = s.th.tscratch ∧ t.th.ncause = s.th.ncause ∧
            t.th.nval = s.th.nval ∧
            ∃ back : Thread, back.ts.sup = true ∧ back.ldep = (if 4 < depth then s.th.ldep else depth) ∧
              (∀ n, n < 4 → back.loop n = ⟨w (0x960 + 8 * n) &&& 0xFFFFE, w (0x980 + 8 * n) &&& 0xFFFFE,
                (w (0x9A0 + 8 * n)).setWidth 32, (w (0x960 + 8 * n)).getLsbD 0⟩) ∧
              t.th.pc = (back.seqTo (s.th.pc + 4)).pc ∧ t.th.ldep = (back.seqTo (s.th.pc + 4)).ldep ∧
              ∀ n, n < 4 → t.th.loop n = (back.seqTo (s.th.pc + 4)).loop n))) ∧
    (∀ (s : State) (p : PredNo) (tid pad core : Nat) (d : Paddock),
      let bare := fun k => (∀ j, j < 4 → ((s.thread k).mem j).valid = false) ∧ (s.thread k).callQ = [] ∧
        (s.core (k / 16)).launchQ = [] ∧ (s.core (k / 16)).spill = [] ∧ s.posted = [] ∧ ∀ g ∈ s.groups, ∀ j ∈ g.joins, j.tid ≠ k
      (Ready s p [] [] → s.th.spec = none →
        (s.drained s.cur = true → bare s.cur → (∀ w, s.th.wait ≠ some w) →
          ∃ t, exec (.exit p) s = .next t ∧ t.th = s.th.ended ∧ t.mem = s.mem ∧ t.due = s.due ∧
            ∀ k, k ≠ s.cur → t.thread k = s.thread k) ∧
        (s.drained s.cur = false → s.th.wait ≠ some .ending →
          ∃ t, exec (.exit p) s = .next t ∧ t.th.state = .waiting ∧ t.th.wait = some .ending ∧ t.due = s.due ++ [.ended s.cur] ∧
            t.mem = s.mem)) ∧
      ((s.thread tid).wait = some .ending → s.drained tid = true → bare tid →
        ∃ t, exec (.contextEnd tid) s = .next t ∧ t.thread tid = (s.thread tid).ended ∧ t.mem = s.mem ∧
          ∀ k, k ≠ tid → t.thread k = s.thread k) ∧
      (tfind s.paddocks pad = some d → d.tick ≠ 0 → d.out = false →
        ∃ t, exec (.timerTick pad) s = .next t ∧ t.mem = s.mem ∧
          ∀ k ∈ s.threads.map (·.1), (s.core (k / 16)).paddock = some pad →
            ((s.thread k).state ≠ .idle → (t.thread k).ts.ipTimer = true) ∧ ((s.thread k).state = .idle → t.thread k = s.thread k)) ∧
      ((s.core core).preempted = true → (s.core core).spilled = false → (∀ k, k < 16 → (s.thread (core * 16 + k)).state ≠ .ready) →
        ∃ t, exec (.spill core) s = .next t ∧ (t.core core).spilled = true ∧ (t.core core).spill = s.spillItems core ∧
          (t.core core).launchQ = [] ∧ (∀ k, k < 16 → (t.thread (core * 16 + k)).recvQ = [] ∧ (t.thread (core * 16 + k)).callQ = []) ∧
          t.mem = s.mem))

/-- The regions without translation, the walk, tinv and ECC errors (R272, R278, R279, R280, R282, R284, R299, R301,
R293). For every state and core: an address of the private alias names that core's local memory, one in the mesh
window the local memory of a core of the same paddock, and any other core there an access fault. A translated
address with no valid root takes a page fault, where a walk is free; a miss that walks to a leaf enters it in the
TLB and leaves memory alone. While all 64 walks of the die are under way, a miss waits, and a load that misses
leaves its slot WAITING. A page walk that begins reads the table, takes a walk and owes its end; one that ends frees
the walk, enters the entry it has found in the TLB, caches nothing where it has found a fault, and leaves memory and
threads alone. An invalidation discards what a walk under way for its core has found for that address. tinv in
supervisor mode with nothing under way owes an invalidation to each core of its scope; the last answer drops the
entries that map the address and retires the tinv. An ECC error poisons its word and no byte. That a miss with a
walk free walks within its own step, that a page walk reads the table when it begins, and which entry a full TLB
would lose are choices of the model (DESIGN CHOICE, log entry 12), that entries are read as under key 0 another
(DESIGN CHOICE, log entry 29). -/
def Obligations.Translation : Prop :=
  ∀ (s : State) (core va size : Nat) (user : Bool) (acc : Acc) (e : Word) (p : PredNo) (a b : RegNo) (sc : Scope),
    (va < 2 ^ 20 → s.translate core user acc va = (.ok ⟨.priv, .loc core va, false⟩, s)) ∧
    (va < 2 ^ 31 → s.translate core user acc (meshBase + va) =
      (if s.samePaddock core (va / 2 ^ 20) then .ok ⟨.mesh, .loc (va / 2 ^ 20) (va % 2 ^ 20), false⟩ else .fault acc.fault 0, s)) ∧
    (isTranslated va = true → s.tlbHits core va = [] → s.walksBusy core = false →
      ((s.core core).ptroot = 0 → s.translate core user acc va = (.fault acc.page 0, s)) ∧
      (s.walk core va = .leaf size e → (s.core core).tlb.length < 256 →
        ∃ t, s.lookup core va = (.leaf size e, t) ∧ t.mem = s.mem ∧ t.threads = s.threads ∧ t.walks = s.walks ∧
          (t.core core).tlb = (s.core core).tlb ++ [⟨va / 2 ^ size * 2 ^ size, size, e⟩]) ∧
      (∀ found, va < 2 ^ 64 → (∀ w ∈ s.walks, ¬(w.core = core ∧ w.va = va)) →
        (match s.walk core va with
          | .leaf z x => found = some ⟨va / 2 ^ z * 2 ^ z, z, x⟩
          | .invalid | .poison | .noKey _ | .busy => found = none) →
        exec (.pageWalk core (BitVec.ofNat 64 va)) s =
          .next { s with walks := s.walks ++ [⟨core, va, found⟩], due := s.due ++ [.walk core va] })) ∧
    (isTranslated va = true → s.tlbHits core va = [] → 64 ≤ (s.walks.filter fun w => dieOf w.core == dieOf core).length →
      s.translate core user acc va = (.busy, s) ∧
      (∀ zx w d base, core = s.here → va = (s.sv base).toNat → va % w.bytes = 0 → Ready s p [.s base.toNat] [.s d.toNat] →
        Waits (.ld p 0 .page zx w d base) s .walk)) ∧
    (∀ found ws, s.walks = ⟨core, va, found⟩ :: ws → va < 2 ^ 64 →
      ∃ t, exec (.pageWalk core (BitVec.ofNat 64 va)) s = .next t ∧ t.walks = ws ∧ t.mem = s.mem ∧ t.threads = s.threads ∧
        (found = none → (t.core core).tlb = (s.core core).tlb) ∧
        (∀ x, found = some x → s.tlbHits core va = [] → (s.core core).tlb.length < 256 →
          (t.core core).tlb = (s.core core).tlb ++ [x])) ∧
    (Ready s p [.s a.toNat, .s b.toNat] [] → s.th.ts.sup = true → Settled s → s.th.wait = none → s.scope b = some sc → core < 2048 →
      s.scopeAgents sc = [core] →
      ∃ t, exec (.tinv p a b) s = .next t ∧ t.tinvs = s.tinvs ++ [⟨s.nextId, s.cur, s.sv a, [core]⟩] ∧
        t.due = s.due ++ [.invalidate core (s.sv a) .own] ∧ t.th.state = .waiting ∧ t.th.wait = some (.invalidate s.nextId) ∧ t.mem = s.mem) ∧
    (∀ (id tid : Nat) (w : Word), s.tinvs = [⟨id, tid, w, [core]⟩] → core < 2048 → s.flights = [] → s.fabops = [] →
      (∀ k, k / 16 = core → (s.thread k).pen = []) → (s.core core).tileQ = [] → (s.core core).cbuf = [] →
      (∀ c ∈ (s.core core).copyQ, c.asked = none) →
      ∃ t, exec (.tlbInvalidation core ⟨w, .own⟩) s = .next t ∧ t.tinvs = [] ∧
        (t.core core).tlb = (s.core core).tlb.filter (fun x => !(decide (x.va ≤ w.toNat) && decide (w.toNat < x.va + 2 ^ x.size))) ∧
        (∀ r ∈ t.walks, ∀ x, r.core = core → r.found = some x → ¬(x.va ≤ w.toNat ∧ w.toNat < x.va + 2 ^ x.size)) ∧
        (t.thread tid).state = .ready ∧
        (t.thread tid).pc = ((s.thread tid).seqTo ((s.thread tid).pc + 4)).pc) ∧
    (∃ t, exec (.uncorrectableEccError va) s = .next t ∧ t.mem.poisoned va = true ∧ (∀ c, t.mem.byte c = s.mem.byte c) ∧
      t = { s with mem := t.mem })

/-- From the doorbell to a running context (R35, R36, R37, R38, R39, R40, R41, R258, R482, R483, R484, R53). For every
ready module: a doorbell on a slot that is not pending makes a record that passes R37 pending and owes its arrival
at each core of its rectangle, and refuses another with its code and an interrupt. A single record that reaches a
core with no queue starts its context in the lowest idle slot among 0 to 14, and a movement record in slot 15: user
mode, at PC, with a0 to a3 the two arguments, 0 and 1, every other register, flag and trap register zero, no loop,
no membership and nothing queued or counted. A fan-out record whose count word reads well starts the contexts with a
global index below the count, in ascending order, each in the lowest idle slot among 0 to 14, with the index and the
count in a2 and a3, and queues those that find no slot; where the count word faults it starts none and the core
counts in CFAULT. So does a record that the hayloft sends, which no accept word answers. When no core is left the
accept word says how many contexts started. A queued context starts when a slot is idle. That the refusals are
checked in the order of their codes and the count word is read as supervisor are choices of the model (DEDUCED, log
entry 28), and so is that contexts start on a core that has been pre-empted and has not spilled yet, and that a
record of the hayloft is checked against the paddock of the core it reaches (DESIGN CHOICE, log entry 29). -/
def Obligations.Launching : Prop :=
  ∀ (s : State) (slot core k n f : Nat) (l : Launch), s.ready = true → slot < 4096 →
    let r := s.recordOf (.ingress slot)
    let pad := (s.slotPaddock slot).map fun x => x.2
    let tid := core * 16 + k
    let starts := fun (t : State) (x : Nat) (l : Launch) =>
      let u := t.thread x
      u.state = .ready ∧ u.wait = none ∧ u.pc = l.pc ∧ u.ts = TStatus.zero ∧ u.tvec = s.tvecOf core ∧
      u.sreg 4 = ⟨l.arg0, false, false, 0⟩ ∧ u.sreg 5 = ⟨l.arg1, false, false, 0⟩ ∧
      u.sreg 6 = ⟨l.index, false, false, 0⟩ ∧ u.sreg 7 = ⟨l.count, false, false, 0⟩ ∧
      (∀ j, j < 4 ∨ 8 ≤ j → u.sreg j = Reg.zero) ∧ (∀ j, u.vreg j = VReg.zero) ∧ (∀ j, 0 < j → u.pred j = 0) ∧
      u.fflags = 0 ∧ u.frm = 0 ∧ u.instret = 0 ∧ u.ldep = 0 ∧ (∀ j, u.loop j = LoopEntry.zero) ∧ (∀ j, u.mem j = Memb.none) ∧
      [u.tcause, u.tval, u.tepc, u.tscratch, u.ncause, u.nval] = [0, 0, 0, 0, 0, 0] ∧ u.recvQ = [] ∧ u.callQ = [] ∧
      [u.ldCnt, u.stCnt, u.amoCnt, u.fabCnt] = [0, 0, 0, 0] ∧ (u.errSt || u.errFab) = false ∧ u.spec = none ∧ u.pen = []
    let begun := fun (t : State) (l : Launch) => starts t tid l ∧ (∀ x, x ≠ tid → t.thread x = s.thread x) ∧ t.mem = s.mem
    (s.acceptState slot ≠ 1 → (∀ x, s.slotPaddock slot = some x → x.2.out = false) →
      (s.refusal pad r = 0 →
        ∃ t, exec (.ingressDoorbell slot) s = .next t ∧ t.acceptState slot = 1 ∧ t.spreads = s.spreads ++ [⟨slot, r.cores, 0, 0⟩] ∧
          t.due = s.due ++ r.cores.map (Duty.record slot) ∧ t.mem = s.mem ∧ t.threads = s.threads) ∧
      (s.refusal pad r ≠ 0 →
        ∃ t, exec (.ingressDoorbell slot) s = .next t ∧
          tget 0 t.accept slot = BitVec.ofNat 64 (3 * 2 ^ 62 + s.refusal pad r) ∧ t.outbox = s.outbox ++ [.msix (slot / 64)] ∧
          t.threads = s.threads ∧ t.spreads = s.spreads)) ∧
    (s.spreads = [⟨slot, [core], 0, 0⟩] → r.kind = 0 ∨ r.kind = 2 → (s.core core).launchQ = [] → (s.core core).spilled = false → s.posted = [] →
      s.coreOut core = false → s.idleSlot core (r.kind == 2) = some k →
      ∃ t, exec (.activeMessageArrival (.ingress slot) core) s = .next t ∧
        begun t ⟨BitVec.ofNat 64 r.pc, r.arg0, r.arg1, 0, 1, r.kind == 2⟩ ∧
        t.spreads = [⟨slot, [], 1, 0⟩] ∧ Duty.accepted slot ∈ t.due ∧ t.posted = []) ∧
    (let u := { s with posted := [⟨.ingress slot, core, none⟩] }
     s.spreads = [⟨slot, [core], 0, 0⟩] → r.kind = 1 → (s.core core).launchQ = [] → (s.core core).spilled = false → s.posted = [] →
      s.coreOut core = false →
      (∀ count, u.countWord core r.cntva = (.ok count, u) →
        let rank := (core / 64 - r.ylo) * (r.xhi - r.xlo + 1) + (core % 64 - r.xlo)
        let run := fun j : Nat =>
          Launch.mk (BitVec.ofNat 64 r.pc) r.arg0 r.arg1 (BitVec.ofNat 64 (rank * r.slots + j)) (BitVec.ofNat 64 count) false
        let m := min r.slots (count - rank * r.slots)
        let free := (List.range 15).filter fun j => (s.thread (core * 16 + j)).state == .idle
        ∃ t, exec (.activeMessageArrival (.ingress slot) core) s = .next t ∧ (∀ j x, j < m → free[j]? = some x → starts t (core * 16 + x) (run j)) ∧
          (∀ x, (∀ j y, j < m → free[j]? = some y → x ≠ core * 16 + y) → t.thread x = s.thread x) ∧
          (t.core core).launchQ = (List.range (m - free.length)).map (fun j => run (free.length + j)) ∧ t.spreads = [⟨slot, [], m, 0⟩] ∧
          Duty.accepted slot ∈ t.due ∧ t.posted = [] ∧ t.mem = s.mem) ∧
      (u.countWord core r.cntva = (.fault, u) →
        ∃ t, exec (.activeMessageArrival (.ingress slot) core) s = .next t ∧ t.threads = s.threads ∧ (t.core core).launchQ = [] ∧
          t.spreads = [⟨slot, [], 0, 1⟩] ∧ Duty.accepted slot ∈ t.due ∧ t.posted = [] ∧ t.mem = s.mem)) ∧
    (s.spreads = [⟨slot, [], n, f⟩] → n < 2 ^ 16 → f < 2 ^ 16 →
      ∃ t, exec (.acceptWordWrite slot) s = .next t ∧ t.spreads = [] ∧ t.outbox = s.outbox ++ [.msix (slot / 64)] ∧
        tget 0 t.accept slot = BitVec.ofNat 64 (2 * 2 ^ 62 + n * 2 ^ 32 + f * 2 ^ 16) ∧ t.threads = s.threads) ∧
    ((∀ w0 w1 w2 w3, let m := Record.of w0 w1 w2 w3
      m.kind = 0 → m.cores = [core] → s.refusal (s.paddockOf core) m = 0 → (s.core core).launchQ = [] → (s.core core).spilled = false →
      s.posted = [] → s.coreOut core = false → s.idleSlot core false = some k →
      ∃ t, exec (.activeMessageArrival (.hayloft w0 w1 w2 w3) core) s = .next t ∧ begun t ⟨BitVec.ofNat 64 m.pc, m.arg0, m.arg1, 0, 1, false⟩ ∧
        t.posted = [])) ∧
    ((s.core core).launchQ = [l] → s.posted = [] → s.idleSlot core l.movement = some k →
      ∃ t, exec (.contextStart core) s = .next t ∧ begun t l ∧ (t.core core).launchQ = [])

/-- The host interface: registers, window, sensors, log and exports (R7, R479, R480, R481, R482, R486, R491, R492, R493,
R426). For every ready module: the W1C bits of MSTATUS clear where a one is written; the command block takes writes
while no command runs, and a write to CMDRES starts one; a record word is written where its slot is not pending. A
window write of one doubleword to HBM that no slice and no watch holds is read back by a window read, and a FetchAdd
there returns it and leaves the sum; an access to BAR0 that is no aligned doubleword reads all ones or is dropped. A
sensor reading above 105 °C or 30 A enters the alarm and narrows the cores of its island that run no tile command;
the log is copied to flash; an export entry is written. -/
def Obligations.HostRegisters : Prop :=
  ∀ (s : State) (v : Word) (n k off slot island pad e : Nat) (temp curr volt : BitVec 16) (w0 w1 : Word) (d : Paddock), s.ready = true →
    (∃ t, exec (.registerWrite (.bar0 0 8 v)) s = .next t ∧ t.nested = (s.nested && !v.getLsbD 5) ∧
      t.lognew = (s.lognew && !v.getLsbD 4) ∧ t.mem = s.mem ∧ t.threads = s.threads) ∧
    (s.cmdState ≠ 1 → k < 16 → ∃ t, exec (.registerWrite (.bar0 (0x100 + 8 * k) 8 v)) s = .next t ∧ tget 0 t.cmd k = v ∧
      (∀ j, j ≠ k → tget 0 t.cmd j = tget 0 s.cmd j) ∧ t.threads = s.threads) ∧
    (s.cmdState = 1 → k < 16 → exec (.registerWrite (.bar0 (0x100 + 8 * k) 8 v)) s = .next s) ∧
    (s.cmdState ≠ 1 → ∃ t, exec (.registerWrite (.bar0 0x180 8 v)) s = .next t ∧ t.cmdState = 1 ∧
      t.due = s.due ++ [.command ((tget 0 s.cmd 0).toNat % 256)] ∧ t.threads = s.threads) ∧
    (slot < 4096 → k < 4 → s.acceptState slot ≠ 1 →
      ∃ t, exec (.registerWrite (.bar2 (32 * slot + 8 * k) 8 v)) s = .next t ∧ tget 0 t.ingress (4 * slot + k) = v ∧
        t.threads = s.threads) ∧
    (n ≠ 8 ∨ off % 8 ≠ 0 → exec (.registerWrite (.bar0 off n v)) s = .next s ∧ s.bar0Read off n = BitVec.allOnes 64) ∧
    (s.Inv → s.w4base = 0 → off % 8 = 0 → off + 8 ≤ 2 ^ 36 → s.lines = [] → NoWatches s → (∀ x, s.lineHeld x = false) →
      let bytes := (List.range 8).map fun j => BitVec.ofNat 8 (v.toNat / 256 ^ j)
      ∃ t, exec (.bar4WindowAccess (.write off bytes)) s = .next t ∧ t.mem.read off 8 = v.toNat ∧ t.threads = s.threads ∧
        (∃ u, exec (.bar4WindowAccess (.read off 8)) t = .next u ∧ u.outbox = t.outbox ++ [.window bytes]) ∧
        (∃ u, exec (.bar4WindowAccess (.atomic off 8 (.fetchAdd w0))) t = .next u ∧ u.outbox = t.outbox ++ [.window bytes] ∧
          u.mem.read off 8 = (v + w0).toNat)) ∧
    (island < 512 → (tget 0 s.isles island).getLsbD 0 = false → (6720 < temp.toNat ∨ 30000 < curr.toNat) →
      ∃ t, exec (.islandSensorRefresh island temp curr volt false) s = .next t ∧ (tget 0 t.isles island).getLsbD 0 = true ∧
        (tget 0 t.isles island).extractLsb' 48 16 = temp ∧ (tget 0 t.isles island).extractLsb' 32 16 = curr ∧
        (∀ c, c < 2048 → islandOf c = island → (∀ x ∈ (s.core c).tileQ, x.started = false) → (t.core c).narrow = true) ∧ t.lognew = true ∧ t.mem = s.mem ∧ t.threads = s.threads) ∧
    (∃ t, exec .logFlashCopy s = .next t ∧ t.flashLog = s.log ∧ t = { s with flashLog := t.flashLog }) ∧
    (tfind s.paddocks pad = some d → e < 64 →
      ∃ t q, exec (.exportEntryWrite pad e w0 w1) s = .next t ∧ tfind t.paddocks pad = some q ∧ tget (0, 0) q.exports e = (w0, w1) ∧
        (∀ j, j ≠ e → tget (0, 0) q.exports j = tget (0, 0) d.exports j) ∧ t.threads = s.threads)

/-- Reset and boot (R488, R489, R144, R223, R288, R297, R423, R480). After a reset with HBM and the links trained, READY
is set if the flash holds images that pass their checks, and the module stands as after reset: every slot idle,
XBOUND and OVEC of every core zero, no page-table root, mailboxes empty, no key, hash group, paddock, group or
access; its own peer entry is valid and reachable, and the measurement log has an entry for each of the three
images. A boot that failed, in training or at an image, leaves READY clear and RECOVERY set, with the failure in the
event log. The host's own memory and the flash stay. That memory which nothing has written reads 0 (DESIGN CHOICE,
log entry 5), the values of Core.zero and Thread.idle for which the spec gives none (DESIGN CHOICE, log entry 6),
and that the checks of boot and the image they fail at are the free functions firmwareOk and failedImage (DESIGN
CHOICE, log entry 26) are the model's. -/
def Obligations.ResetAndBoot : Prop :=
  ∀ (s : State),
    let fresh := fun t : State =>
      (∀ c, t.core c = Core.zero) ∧ (∀ x, t.thread x = Thread.idle) ∧ t.paddocks = [] ∧ t.groups = [] ∧ t.flights = [] ∧
      t.fabops = [] ∧ t.mkeys = [] ∧ t.fkeys = [] ∧ t.agrKey = none ∧ t.hashgrp = [] ∧ t.mcast = [] ∧ t.accept = [] ∧
      t.cmdState = 0 ∧ t.flash = s.flash ∧
      (∀ a, Region.host 0 ≤ a → a < Region.slice 0 0 → t.mem.byte a = s.mem.byte a) ∧
      (∀ a, a < Region.host 0 → t.mem.byte a = Memory.blank)
    let recovers := fun (t : State) (step : Word) => t.ready = false ∧ t.recovery = true ∧
      ∃ e, tfind t.log 0 = some e ∧ e.event = 5 ∧ e.sub = Config.failedImage s.flash ∧ e.data0 = step
    (s.Inv → ∃ t, exec (.moduleReset true) s = .next t ∧ fresh t ∧
      if Config.firmwareOk s.flash then t.ready = true ∧ t.recovery = false ∧ t.measure.length = 3 ∧
        (tget 0 t.peers t.ident.toNat).getLsbD 63 = true ∧ (tget 0 t.peers t.ident.toNat).getLsbD 62 = true
      else recovers t 2) ∧
    (s.Inv → ∃ t, exec (.moduleReset false) s = .next t ∧ fresh t ∧ recovers t 1) ∧
    Core.zero.xbound = 0 ∧ Core.zero.ovec = 0 ∧ Core.zero.ptroot = 0 ∧ (∀ m, Core.zero.box m = none) ∧
    State.reset.ready = false ∧ (∀ c, State.reset.core c = Core.zero) ∧ (∀ x, State.reset.thread x = Thread.idle)

/-- PADDOCK_SET, PADDOCK_CLEAR, PREEMPT, SWAP, RESUME, THREAD_END, INTERRUPT and DEBUG_ADDR (R486, R487, R273, R275,
R266, R262, R495). For every ready module that runs the command with legal operands: PADDOCK_SET makes the paddock
and gives its cores the number, the root, XBOUND and OVEC; PADDOCK_CLEAR takes an idle one away and is refused with
wrong state where a slot is not idle. On a paddock of one core, PREEMPT pre-empts it and sets PREEMPT pending in
every slot that is not idle; SWAP moves a halted core to its shadow store, bytes and threads, and back; RESUME makes
its parked slots ready. THREAD_END copies the trap registers of a halted slot and lets it end; INTERRUPT and
DEBUG_ADDR act on the slot named. That bits 63:8 of word 0 are ignored, that PADDOCK_CLEAR needs empty launch queues
and that PREEMPT reaches a paddock that is swapped out are choices of the model (DEDUCED, log entry 28), and so is
that SWAP brings a paddock back and leaves every slot of one that goes out SWAPPED (DEDUCED, log entries 21 and 28). -/
def Obligations.PaddockCommands : Prop :=
  ∀ (s : State) (p : Paddock) (n c tid : Nat), s.Inv →
    let asked := fun (code : Nat) (used : List (Nat × Nat)) =>
      s.cmdState = 1 ∧ s.cmdWord 0 % 256 = code ∧ s.operandsOk used = true ∧ s.ready = true
    let done := fun t : State => t.cmdState = 2 ∧ t.cmdCode = 0
    let refused := fun (i : Instr) (code : BitVec 8) => ∃ t, exec i s = .next t ∧ t.cmdState = 3 ∧ t.cmdCode = code ∧ t.threads = s.threads ∧
      t.cores = s.cores ∧ t.mem = s.mem ∧ t.lognew = true
    let w := s.cmdWord
    let one := tfind s.paddocks n = some p ∧ n = w 1 ∧ p.cores = [c] ∧ p.seqs = 0
    (asked 0x01 [(1, 0xFFFF000000FF), (2, 0xFFFFFFFF), (3, 2 ^ 41 - 1), (4, 0xFFFFE), (5, 0x1FFFFF), (6, 0xFFFFE), (7, allBits),
        (8, allBits), (9, allBits), (10, 0xFFFFFFFF), (11, 0xFFFFFFFF3F3F), (12, 1)] → s.paddocks = [] →
      bits (w 2) 7 0 ≤ bits (w 2) 23 16 → bits (w 2) 15 8 ≤ bits (w 2) 31 24 → bits (w 2) 23 16 < 64 → bits (w 2) 31 24 < 32 →
      w 3 % 2 ^ 15 = 0 → w 5 % 2 = 0 → w 5 ≤ 0x100000 →
      ∃ t q, exec .paddockSet s = .next t ∧ done t ∧ tfind t.paddocks (bits (w 1) 7 0) = some q ∧
        q.xlo = bits (w 2) 7 0 ∧ q.ylo = bits (w 2) 15 8 ∧ q.xhi = bits (w 2) 23 16 ∧ q.yhi = bits (w 2) 31 24 ∧ q.out = false ∧
        q.tvec = BitVec.ofNat 64 (w 4) ∧ q.job = BitVec.ofNat 16 (bits (w 1) 47 32) ∧
        (∀ k ∈ q.cores, (t.core k).paddock = some (bits (w 1) 7 0) ∧ (t.core k).ptroot = w 3 ∧
          (t.core k).xbound = BitVec.ofNat 64 (w 5) ∧ (t.core k).ovec = BitVec.ofNat 64 (w 6) ∧ (t.core k).tlb = []) ∧
        t.threads = s.threads) ∧
    (asked 0x02 [(1, 0xFF)] → one →
      ((∀ x ∈ slotsOf c, (s.thread x).state = .idle) → (s.core c).launchQ = [] → (s.paddocks.map fun x => x.1).Nodup →
        ∃ t, exec .paddockClear s = .next t ∧ done t ∧ tfind t.paddocks n = none ∧ (t.core c).paddock = none ∧ (t.core c).xbound = 0 ∧
          (t.core c).ptroot = 0) ∧
      ((∃ x ∈ slotsOf c, (s.thread x).state ≠ .idle) → refused .paddockClear 2)) ∧
    (asked 0x03 [(1, 0xFF), (2, 0xFFFFFFFF)] → one → w 2 = 0 → p.out = false → (s.core c).paddock = some n →
      ∃ t, exec .preempt s = .next t ∧ done t ∧ (t.core c).preempted = true ∧ Duty.spill c ∈ t.due ∧ t.mem = s.mem ∧
        ∀ x ∈ slotsOf c, ((s.thread x).state ≠ .idle → (t.thread x).ts.ipPreempt = true) ∧
          ((s.thread x).state = .idle → t.thread x = s.thread x)) ∧
    (asked 0x04 [(1, 0xFF)] → one → c < 2048 →
      (p.out = false → s.halted c = true →
        ∃ t, exec .swap s = .next t ∧ done t ∧ (∃ q, tfind t.paddocks n = some q ∧ q.out = true) ∧
          (∀ x ∈ slotsOf c, tget Thread.idle t.shThreads x = s.thread x ∧
            (t.thread x).state = .swapped) ∧
          ∀ o, o < 2 ^ 20 → t.mem.byte (Region.shadowLocal c + o) = s.mem.byte (Region.local c + o) ∧
            t.mem.byte (Region.local c + o) = s.mem.byte (Region.shadowLocal c + o)) ∧
      (p.out = false → s.halted c = false → refused .swap 2) ∧
      (p.out = true →
        ∃ t, exec .swap s = .next t ∧ done t ∧ (∃ q, tfind t.paddocks n = some q ∧ q.out = false) ∧
          (∀ x ∈ slotsOf c, t.thread x = tget Thread.idle s.shThreads x) ∧
          ∀ o, o < 2 ^ 20 → t.mem.byte (Region.local c + o) = s.mem.byte (Region.shadowLocal c + o))) ∧
    (asked 0x05 [(1, 0xFF), (2, 0xFFFFFFFF)] → one → w 2 = 0 → p.out = false → s.halted c = true → (s.core c).spill = [] →
      s.accept = [] →
      ∃ t, exec .resume s = .next t ∧ done t ∧ (t.core c).preempted = false ∧
        ∀ x ∈ slotsOf c, (s.thread x).state = .waiting → (t.thread x).state = .ready ∧ (t.thread x).pc = (s.thread x).pc) ∧
    (coreWord (w 1) = some tid →
      (asked 0x06 [(1, 0xFFFFF)] → (s.thread tid).state = .haltedNested →
        ∃ t, exec .threadEnd s = .next t ∧ done t ∧ tget 0 t.cmd 8 = (s.thread tid).tcause ∧ tget 0 t.cmd 9 = (s.thread tid).tval ∧
          tget 0 t.cmd 10 = (s.thread tid).tepc ∧ tget 0 t.cmd 11 = (s.thread tid).ncause ∧ tget 0 t.cmd 12 = (s.thread tid).nval ∧
          (t.thread tid).wait = some .ending ∧ t.due = s.due ++ [.ended tid]) ∧
      (asked 0x06 [(1, 0xFFFFF)] → (s.thread tid).state ≠ .haltedNested → refused .threadEnd 2) ∧
      (asked 0x07 [(1, 0xFFFFF)] → s.swappedOut tid = false →
        ((s.thread tid).state ≠ .idle → ∃ t, exec .interrupt s = .next t ∧ done t ∧ (t.thread tid).ts.ipHost = true ∧ t.mem = s.mem ∧
          ∀ k, k ≠ tid → t.thread k = s.thread k) ∧
        ((s.thread tid).state = .idle → refused .interrupt 2)) ∧
      (asked 0x0E [(1, 0xFFFFF), (2, 0xFFFFE)] → s.swappedOut tid = false →
        ∃ t, exec .debugAddr s = .next t ∧ done t ∧ (t.thread tid).bp = tget 0 s.cmd 2 ∧ t.mem = s.mem ∧
          ∀ k, k ≠ tid → t.thread k = s.thread k))

/-- The commands that write tables, keys and images (R486, R288, R297, R298, R443, R423, R425, R436, R469, R489, R490,
R493). For every ready module that runs the command with legal operands: HASHGRP_SET, MKEY_LOAD, FKEY_LOAD and
MCAST_SET write the entry or key named, and key index 0 is refused. MKEY_LOAD first writes every dirty line under
the index back, under the key that the slot held, and discards every line under it; no other line and no other byte
of HBM changes. PEER_SET of a peer that leaves clears REACH and ends once nothing is under way toward it; of one
that joins writes the entry without REACH and awaits the capability exchange. TACK_LOAD writes an image that passes
R468 to sequencer memory and its slot, or empties the slot; for a paddock with SIGTACK an image whose signature does
not verify is refused with 3, and one with an uncorrectable word with 1. ATTEST writes a report to HBM. UPDATE
writes a verified image without an uncorrectable word to flash and refuses another with 3. While an engine holds a
line that one of the three reads or writes, the command runs on with nothing done. That a join makes the agreement
key stale, that a leave waits until nothing is under way toward the peer (State.toward) and that bits 63:8 of word 0
are ignored are choices of the model (DEDUCED, log entry 28), and the checks of images are the free functions
firmwareOk and signed (DESIGN CHOICE, log entry 26); that an image with an uncorrectable word is refused, and with
which code, is its choice too (DESIGN CHOICE, log entry 29). -/
def Obligations.TableCommands : Prop :=
  ∀ (s : State) (p : Paddock) (head body sig img : List Byte) (i : TackImage), s.Inv →
    let asked := fun (code : Nat) (used : List (Nat × Nat)) =>
      s.cmdState = 1 ∧ s.cmdWord 0 % 256 = code ∧ s.operandsOk used = true ∧ s.ready = true
    let done := fun t : State => t.cmdState = 2 ∧ t.cmdCode = 0
    let refused := fun (i : Instr) (code : BitVec 8) => ∃ t, exec i s = .next t ∧ t.cmdState = 3 ∧ t.cmdCode = code ∧ t.threads = s.threads ∧
      t.cores = s.cores ∧ t.mem = s.mem ∧ t.lognew = true
    let w := s.cmdWord
    (asked 0x08 [(1, 0x3F), (2, allBits)] →
      ∃ t, exec .hashgrpSet s = .next t ∧ done t ∧ tget 0 t.hashgrp (w 1) = tget 0 s.cmd 2 ∧
        (∀ j, j ≠ w 1 → tget 0 t.hashgrp j = tget 0 s.hashgrp j) ∧ t.mem = s.mem ∧ t.threads = s.threads) ∧
    (asked 0x09 ((1, 0x8000000000000FFF) :: wordsFrom8 8) →
      let k := bits (w 1) 11 0
      (k = 0 → refused .mkeyLoad 1) ∧
      (k ≠ 0 → (∀ l ∈ s.lines, l.pa % 256 = 0 ∧ l.pa < 2 ^ 41) → (s.lines.Pairwise fun l m => l.home ≠ m.home ∨ l.pa ≠ m.pa) →
        ∃ t, exec .mkeyLoad s = .next t ∧ done t ∧ t.threads = s.threads ∧ (s.lines = [] → t.mem = s.mem) ∧
          tget none t.mkeys k = (if bits (w 1) 63 63 = 1 then none else some (BitVec.ofNat 512 (s.cmdKey 8))) ∧
          (∀ j, j ≠ k → tget none t.mkeys j = tget none s.mkeys j) ∧ t.lines = s.lines.filter (fun l => l.key != k) ∧
          (∀ l ∈ s.lines, l.key = k → l.dirty = true → (∀ m ∈ s.lines, m.dirty = true → m.pa = l.pa → m = l) →
            tget 0 t.hbmTag (l.pa / 256) = s.tagOf k ∧
            ∀ j, j < 256 → t.mem.byte (l.pa + j) = s.mem.byte (Region.slice l.home l.pa + j) ∧
              t.mem.poisoned (l.pa + j) = s.mem.poisoned (Region.slice l.home l.pa + j)) ∧
          ∀ a, a < 2 ^ 41 → (∀ l ∈ s.lines, l.key = k → l.dirty = true → a / 256 ≠ l.pa / 256) →
            t.mem.byte a = s.mem.byte a ∧ t.mem.poisoned a = s.mem.poisoned a)) ∧
    (asked 0x0A ((1, 0xC000000000000FFF) :: wordsFrom8 4) →
      let key := if bits (w 1) 63 63 = 1 then none else some (BitVec.ofNat 256 (s.cmdKey 4))
      ∃ t, exec .fkeyLoad s = .next t ∧ done t ∧ t.mem = s.mem ∧ t.threads = s.threads ∧
        (bits (w 1) 62 62 = 1 → t.agrKey = key ∧ t.agrStale = (s.agrStale && key.isNone) ∧ t.fkeys = s.fkeys) ∧
        (bits (w 1) 62 62 = 0 → tget none t.fkeys (bits (w 1) 11 0) = key ∧ t.agrKey = s.agrKey)) ∧
    (asked 0x0B [(1, 0xFFF), (2, 0xFF00FFF000000000)] → w 1 ≠ s.ident.toNat →
      let v := tget 0 s.cmd 2
      ((v.getLsbD 62 && v.getLsbD 63) = false → s.toward (w 1) = false →
        ∃ t, exec .peerSet s = .next t ∧ done t ∧ (tget 0 t.peers (w 1)).getLsbD 62 = false ∧
          tget 0 t.peers (w 1) = v &&& 0xBF00FFF000000000 ∧ t.threads = s.threads) ∧
      ((v.getLsbD 62 && v.getLsbD 63) = false → s.toward (w 1) = true →
        ∃ t, exec .peerSet s = .next t ∧ t.cmdState = 1 ∧ (tget 0 t.peers (w 1)).getLsbD 62 = false ∧ t.due = s.due ++ [.command 0x0B]) ∧
      ((v.getLsbD 62 && v.getLsbD 63) = true → (tget 0 s.peers (w 1)).getLsbD 62 = false →
        ∃ t, exec .peerSet s = .next t ∧ done t ∧ (tget 0 t.peers (w 1)).getLsbD 62 = false ∧ w 1 ∈ t.joining ∧ t.agrStale = true)) ∧
    (asked 0x0C [(1, 0xFFF), (2, allBits), (3, allBits)] →
      ∃ t, exec .mcastSet s = .next t ∧ done t ∧ tget (0, 0) t.mcast (w 1) = (tget 0 s.cmd 2, tget 0 s.cmd 3) ∧
        (∀ j, j ≠ w 1 → tget (0, 0) t.mcast j = tget (0, 0) s.mcast j) ∧ t.mem = s.mem ∧ t.threads = s.threads) ∧
    (asked 0x0D [(1, 0xFF0F1F), (2, 2 ^ 41 - 1), (3, 1)] → tfind s.paddocks (bits (w 1) 23 16) = some p →
      let q := bits (w 1) 4 0
      let slot := bits (w 1) 11 8
      p.seqs.getLsbD q = true → w 2 % 64 = 0 → (tget Sequencer.zero s.seqs q).running = false →
      (w 3 = 1 → ((tget Sequencer.zero s.seqs q).slots.map fun x => x.1).Nodup →
        ∃ t, exec .tackLoad s = .next t ∧ done t ∧ tfind (tget Sequencer.zero t.seqs q).slots slot = none) ∧
      (w 3 = 0 → s.hostRead (w 2) 64 = (head, s) → s.rangeHeld (w 2) 64 = false →
        (s.mem.anyPoison (w 2) 64 = true → refused .tackLoad 1) ∧
        (s.mem.anyPoison (w 2) 64 = false → TackImage.of (headWords head) = some i →
          i.clashes slot (tget Sequencer.zero s.seqs q).slots = false → s.hostRead (w 2 + 64) i.size = (body, s) →
          s.rangeHeld (w 2 + 64) (i.size + 512) = false → (p.sigTack = true → s.hostRead (w 2 + 64 + i.size) 512 = (sig, s)) →
          let lost := s.mem.anyPoison (w 2) (64 + i.size + if p.sigTack then 512 else 0)
          let good := p.sigTack = false ∨ Config.signed (head ++ body) sig = true
          let at_ := Region.seq q + i.load
          (lost = true → refused .tackLoad 1) ∧
          (lost = false → ¬ good → refused .tackLoad 3) ∧
          (lost = false → good → ∃ t, exec .tackLoad s = .next t ∧ done t ∧
            tfind (tget Sequencer.zero t.seqs q).slots slot = some i ∧ t.mem.anyPoison at_ i.size = false ∧
            (∀ j, j < i.size → t.mem.byte (at_ + j) = body.getD j 0) ∧
            (∀ a, a < at_ ∨ at_ + i.size ≤ a → t.mem.byte a = s.mem.byte a) ∧
            t.measure = s.measure ++ [(1, q * 16 + slot, Sha.sha512 (head ++ body))]))) ∧
      (w 3 = 0 → s.rangeHeld (w 2) 64 = true → exec .tackLoad s = .next (s.owe (.command 0x0D)))) ∧
    (asked 0x0F ((1, allBits) :: (List.range 4).map fun k => (2 + k, allBits)) → w 1 % 64 = 0 → hbmAddr (w 1) = true →
      hbmAddr (w 1 + (s.reportFields.length + 512) - 1) = true →
      (s.rangeHeld (w 1) (s.reportFields.length + 512) = true → exec .attest s = .next (s.owe (.command 0x0F))) ∧
      (s.rangeHeld (w 1) (s.reportFields.length + 512) = false → ∃ t report, exec .attest s = .next t ∧ done t ∧ report.length = s.reportFields.length + 512 ∧
        report.take s.reportFields.length = s.reportFields ∧ t.mem = (s.hostWrite (w 1) report (report.length + 1)).mem)) ∧
    (asked 0x10 [(1, allBits), (2, allBits)] → w 1 % 64 = 0 → 0 < w 2 → hbmAddr (w 1) = true → w 1 % 2 ^ 37 + w 2 ≤ 0x140000 * 2 ^ 16 →
      s.hostRead (w 1) (w 2) = (img, s) →
      (s.rangeHeld (w 1) (w 2) = true → exec .update s = .next (s.owe (.command 0x10))) ∧
      (s.rangeHeld (w 1) (w 2) = false → ∃ t, exec .update s = .next t ∧ t.mem = s.mem ∧ t.threads = s.threads ∧
        if Config.firmwareOk img && !s.mem.anyPoison (w 1) (w 2) then done t ∧ t.flash = img ∧ t.flashLog = t.log ∧ t.lognew = true
        else t.cmdState = 3 ∧ t.cmdCode = 3 ∧ t.flash = s.flash))

/-- cpy and cpy.bar enqueue a copy (R321, R323, R331, R332, R333, R334, R340, R150, R498). For every ready thread of
slot 15 with nothing under way, a record pair in the private alias that passes R151 and R333, a legal scope, and
room in the queue and the lock tables: cpy (with a token in an occupied slot or none) and cpy.bar (with an aligned
barrier of the paddock that the mode may reach) answer a next state in which the command stands last in the core's
queue, its spans are locked and its lines of HBM owned, a token register holds 0 and is pending, the engine owes its
start, and the thread goes on; memory and every other register are as before. That a copy owns its lines and yard
elements from its issue, though R340 lets the engine take a line as it reaches it, is the choice of the model
(DEDUCED, log entry 17); the way of a destination line is taken as the engine reaches it. -/
def Obligations.CopiesIssue : Prop :=
  ∀ (s : State) (p : PredNo) (ctl base scope : RegNo) (x y : Shape),
    let at_ := (s.sv base).toNat
    let w := (s.sv ctl).toNat
    let ws := (List.range 12).map fun k => s.mem.read (Region.local s.here + (at_ + 8 * k)) 8
    let reg := bits w 8 4
    let owner := s.here * 16 + bits w 3 0
    let bc := coreAt (bits w 23 16) (bits w 31 24)
    let off := bits w 51 32
    let locks := if x.count = 0 then [] else
      spanLocks s.here s.nextId true x.span.1 x.span.2 ++ spanLocks s.here s.nextId false y.span.1 y.span.2
    let issues := fun (i : Instr) (token : Option (Nat × Nat)) (bar : Option (Nat × Nat)) =>
      let c : CopyCmd :=
        { ser := s.nextId, tid := s.cur, src := x, dst := y, scope := if scope = 0 then none else some (s.sv scope)
          user := s.user, token := token, bar := bar, count := x.count, started := false, srcDone := false
          visDone := false, buf := [], asked := none, fail := none }
      ∃ t, exec i s = .next t ∧ Advances s t 4 ∧ t.mem = s.mem ∧ t.th.rest = s.th.rest ∧
        (t.core s.here).copyQ = (s.core s.here).copyQ ++ [c] ∧ t.owns = s.owns ++ s.copyLines c ∧
        (∀ k, (t.core k).locks = (s.core k).locks ++ (locks.filter fun l => l.1 == k).map (·.2)) ∧
        t.due = s.due ++ [.copyStart s.here] ∧
        (∀ slot r, token = some (slot, r) → (t.thread (s.here * 16 + slot)).sreg r = ⟨0, true, false, 0⟩) ∧
        (∀ k r, token.map (fun q => (s.here * 16 + q.1, q.2)) ≠ some (k, r) → (t.thread k).sreg r = (s.thread k).sreg r) ∧
        (∀ k r, (t.thread k).vreg r = (s.thread k).vreg r ∧ (t.thread k).pred r = (s.thread k).pred r)
    Ready s p [.s ctl.toNat, .s base.toNat, .s scope.toNat] [] → Settled s → s.cur % 16 = 15 → at_ % 8 = 0 →
    (∀ k, k < 12 → Reaches s (at_ + 8 * k) 8) → Shape.of (ws.take 6) = some x → Shape.of (ws.drop 6) = some y →
    pairCheck (s.sv base) x y = none → (scope = 0 ∨ (Scope.of (s.sv scope)).isSome = true) →
    (s.core s.here).copyQ.length < 4 → s.lockRoom locks = true →
      (reg = 0 → issues (.cpy p ctl base scope) none none) ∧
      (reg ≠ 0 → (s.thread owner).state ≠ .idle → ((s.thread owner).sreg reg).pend = false →
        issues (.cpy p ctl base scope) (some (bits w 3 0, reg)) none) ∧
      (bits w 23 16 < 64 → bits w 31 24 < 32 → s.samePaddock s.here bc = true → off % 8 = 0 →
        (s.user = true → (s.core bc).xbound.toNat ≤ off) → issues (.cpyBar p ctl base scope) none (some (bc, off)))

/-- A copy starts, reads, becomes visible, releases its destination, or fails (R330, R335, R339, R340, R341, R343,
R221). For every copy alone in its core's queue between clean, free places of the private alias: COPY_START starts
it; COPY_SRC reads every source element, releases the source locks and lines and gives the token the value 1, still
pending, or reads up to the first element that fails and owes the fault; COPY_VIS writes what has been read and
gives the token its count and 3, no longer pending; COPY_DESTINATION_RELEASE writes what is left, releases every
lock and line and ends the command; COPY_FAULT of a copy whose element k has failed writes the elements below k,
ends the command and gives the token code, subcode, k and 7, or sets ERRST of slot 15. A copy with a barrier arrives
there once visible, or when it fails, and then sets ERRST of slot 15. No other byte and no poison code of memory
changes. That one event reads, or writes, every element and that the lines are owned from issue are choices of the
model (DESIGN CHOICE, log entry 17). -/
def Obligations.CopiesRun : Prop :=
  ∀ (s : State) (core : Nat) (c : CopyCmd), (s.core core).copyQ = [c] → c.tid / 16 = core → c.asked = none → NoWatches s → s.Inv →
    let place := fun k => Region.local core + c.dst.addr k
    let fits := fun (a : Nat) => a + c.size ≤ 2 ^ 20 ∧ a % c.size = 0 ∧ (c.user = true → (s.core core).xbound.toNat ≤ a) ∧
      s.heldFor (.loc core a) c.size c.ser = false ∧ s.mem.anyPoison (Region.local core + a) c.size = false
    let readOf := fun k => (k, s.mem.read (Region.local core + c.src.addr k) c.size, ([] : List Nat))
    let whole := fun (es : List (Nat × Nat × List Nat)) => ∀ b ∈ es, fits (c.dst.addr b.1) ∧ b.2.2 = [] ∧ b.2.1 < 256 ^ c.size
    let stored := fun (t : State) (es : List (Nat × Nat × List Nat)) => (∀ a, t.mem.poisoned a = s.mem.poisoned a) ∧
      (∀ a, (∀ b ∈ es, a < place b.1 ∨ place b.1 + c.size ≤ a) → t.mem.byte a = s.mem.byte a) ∧
      (es.Pairwise (fun a b => c.dst.addr a.1 + c.size ≤ c.dst.addr b.1 ∨ c.dst.addr b.1 + c.size ≤ c.dst.addr a.1) →
        ∀ b ∈ es, t.mem.read (place b.1) c.size = b.2.1)
    let told := fun (t : State) (v : Nat) (pend : Bool) => ∀ slot r, c.token = some (slot, r) → r ≠ 0 →
      (t.thread (core * 16 + slot)).sreg r = ⟨BitVec.ofNat 64 v, pend, false, 0⟩
    let unlocked := fun (t : State) (srcOnly : Bool) =>
      (∀ k, (t.core k).locks = (s.core k).locks.filter fun l => !(l.ser == c.ser && (l.src || !srcOnly))) ∧
      t.owns = s.owns.filter fun o => !(o.ser == c.ser && (o.src || !srcOnly))
    (c.srcDone = false → c.started = false →
      ∃ t, exec (.copyStart core) s = .next t ∧ (t.core core).copyQ = [{ c with started := true }] ∧
        t.due = s.due ++ [.copySrc core] ∧ t.mem = s.mem ∧ t.threads = s.threads) ∧
    (c.srcDone = false → c.started = true → c.buf = [] → c.fail = none → (∀ k, k < c.count → fits (c.src.addr k) ∧ fits (c.dst.addr k)) →
      ∃ t, exec (.copySrc core) s = .next t ∧ t.mem = s.mem ∧
        (t.core core).copyQ = [{ c with srcDone := true, buf := (List.range c.count).map readOf }] ∧
        unlocked t true ∧ told t 1 true ∧ t.due = s.due ++ [.copyVis core c.ser, .copyRelease core c.ser, .copyStart core]) ∧
    (∀ k f, c.srcDone = false → c.started = true → c.buf = [] → c.fail = none → k < c.count → s.elemFails c k = some f →
      (∀ j, j < k → fits (c.src.addr j) ∧ fits (c.dst.addr j)) →
      ∃ t, exec (.copySrc core) s = .next t ∧ t.mem = s.mem ∧ t.threads = s.threads ∧ t.due = s.due ++ [.copyFault core c.ser] ∧
        (t.core core).copyQ = [{ c with buf := (List.range k).map readOf, fail := some (k, f) }]) ∧
    (c.srcDone = true → c.visDone = false → c.fail = none → whole c.buf → c.bar = none →
      ∃ t, exec (.copyVis core c.ser) s = .next t ∧ stored t c.buf ∧ (t.core core).copyQ = [{ c with visDone := true, buf := [] }] ∧
        told t (c.count * 2 ^ 8 + 3) false) ∧
    (∀ off, c.srcDone = true → c.visDone = false → c.fail = none → c.buf = [] → c.bar = some (core, off) → off % 8 = 0 →
      s.lockedFor core off 8 c.ser = false → s.mem.anyPoison (Region.local core + off) 8 = false →
      ∃ t, exec (.copyVis core c.ser) s = .next t ∧ KeepsOutside s t (Region.local core + off) 8 ∧
        t.mem.read (Region.local core + off) 8 = barrierArrive (s.mem.read (Region.local core + off) 8)) ∧
    (c.srcDone = true → c.visDone = true → c.fail = none → whole c.buf →
      ∃ t, exec (.copyDestinationRelease core c.ser) s = .next t ∧ stored t c.buf ∧ (t.core core).copyQ = [] ∧
        unlocked t false ∧ t.threads = s.threads) ∧
    (∀ k code sub, c.visDone = false → c.bar = none → c.fail = some (k, code, sub) → whole c.buf → (∀ b ∈ c.buf, b.1 < k) →
      ∃ t, exec (.copyFault core c.ser) s = .next t ∧ stored t c.buf ∧ (t.core core).copyQ = [] ∧
        unlocked t false ∧ t.due = s.due ++ [.copyStart core] ∧
        told t (code * 2 ^ 56 + sub * 2 ^ 48 + k * 2 ^ 8 + 7) false ∧
        (c.token = none → (t.thread (core * 16 + 15)).errSt = true)) ∧
    (∀ k code sub off, c.visDone = false → c.token = none → c.bar = some (core, off) → off % 8 = 0 → off + 8 ≤ 2 ^ 20 →
      c.fail = some (k, code, sub) → whole c.buf → (∀ b ∈ c.buf, b.1 < k) → s.lockedFor core off 8 c.ser = false →
      s.mem.anyPoison (Region.local core + off) 8 = false →
      (∀ b ∈ c.buf, c.dst.addr b.1 + c.size ≤ off ∨ off + 8 ≤ c.dst.addr b.1) →
      let bar := Region.local core + off
      ∃ t, exec (.copyFault core c.ser) s = .next t ∧ t.mem.read bar 8 = barrierArrive (s.mem.read bar 8) ∧
        (∀ a, t.mem.poisoned a = s.mem.poisoned a) ∧
        (∀ a, (a < bar ∨ bar + 8 ≤ a) → (∀ b ∈ c.buf, a < place b.1 ∨ place b.1 + c.size ≤ a) → t.mem.byte a = s.mem.byte a) ∧
        (c.buf.Pairwise (fun a b => c.dst.addr a.1 + c.size ≤ c.dst.addr b.1 ∨ c.dst.addr b.1 + c.size ≤ c.dst.addr a.1) →
          ∀ b ∈ c.buf, t.mem.read (place b.1) c.size = b.2.1) ∧
        (t.core core).copyQ = [] ∧ unlocked t false ∧ t.due = s.due ++ [.copyStart core] ∧
        (t.thread (core * 16 + 15)).errSt = true)

/-- The commands of the tile engine enter its queue (R353, R354, R359, R360, R362, R365, R366, R372, R374, R375, R376).
For every ready thread with nothing under way, a free entry in the queue and room for the locks: mzero, mldz, mstz,
msacc and msacc.v with operands that pass their checks, mma with two matrix records in the private alias, mvs with a
region that its TLB entry maps, and mresume with a record that R372 accepts answer a next state in which the command
stands last in the queue with its entry, group and operands, its spans are locked, the engine owes its start, or its
stop on a core that has been pre-empted, a record that mresume revives leaves the chain of its thread, and the
thread goes on with every register as before. Memory is as before, but that for mvs the slices write the dirty lines
of B back. -/
def Obligations.TileCommandsIssue : Prop :=
  ∀ (s : State) (p : PredNo) (z : BitVec 3) (pb : BitVec 4) (a b : RegNo) (e : Nat) (r : Rm), Settled s →
    freeEntry (s.core s.here).tileQ = some e →
    let v := s.sv a
    let fits := fun (x n : Nat) => x % 64 = 0 ∧ x + n ≤ 2 ^ 20 ∧ (s.user = true → (s.core s.here).xbound.toNat ≤ x)
    let out := (s.core s.here).preempted
    let enters := fun (i : Instr) (c : TileCmd) (record : Option Nat) =>
      let resumed := record.isSome
      let locks := c.spans.map fun x => (s.here, (⟨s.nextId, x.1, x.2.1, x.2.2⟩ : Lock))
      s.lockRoom locks = true →
      ∃ t, exec i s = .next t ∧ Advances s t 4 ∧ t.mem = (s.flushB c).mem ∧ ((∀ f m, c.op ≠ .mvs f m) → t.mem = s.mem) ∧
        (∀ k, k ≠ s.cur → t.thread k = s.thread k) ∧
        (t.core s.here).tileQ = (s.core s.here).tileQ ++
          [{ c with ser := s.nextId, entry := e, group := if resumed then c.group else s.th.commits
                    stop := if out then some (c.next, true) else none }] ∧
        (t.core s.here).locks = (s.core s.here).locks ++ locks.map (·.2) ∧
        t.due = s.due ++ [if out then .tileStop s.here e c.next else .tileStart s.here e] ∧
        t.th.chain = s.th.chain.filter (fun x => record != some x.1) ∧
        t.th.tgroups = s.th.tgroups ++ [if resumed then c.group else s.th.commits] ∧
        t.th.tstopped = (if resumed then s.th.tstopped.erase c.group else s.th.tstopped) ∧
        (∀ r, t.th.sreg r = s.th.sreg r) ∧ (∀ r, t.th.vreg r = s.th.vreg r) ∧ (∀ r, t.th.pred r = s.th.pred r)
    (Ready s p [] [] → enters (.mzero p z) (s.newTile (.mzero p z) (.mzero z.toNat) 0 0 0 0) none) ∧
    (Ready s p [.s a.toNat] [] →
      (fits v.toNat 16384 → enters (.mldz p z a) (s.newTile (.mldz p z a) (.mldz z.toNat) v 0 0 0) none) ∧
      (∀ bf rm, s.th.rounding rm = some r → fits v.toNat (if bf then 8192 else 16384) →
        enters (.mstz p bf rm z a) (s.newTile (.mstz p bf r z a) (.mstz bf r z.toNat) v 0 0 0) none) ∧
      (s.scale false pb.toNat v = none →
        enters (.msacc p z pb a) (s.newTile (.msacc p z pb a) (.msacc false z.toNat pb.toNat) v 0 0 0) none) ∧
      (s.scale true pb.toNat v = none →
        enters (.msaccV p z pb a) (s.newTile (.msaccV p z pb a) (.msacc true z.toNat pb.toNat) v 0 0 0) none) ∧
      (∀ c c' : TileCmd,
        let ws := (List.range 16).map fun k => s.mem.read (Region.local s.here + (v.toNat + 8 * k)) 8
        v.toNat % 128 = 0 → (∀ k, k < 16 → Reaches s (v.toNat + 8 * k) 8) → s.resumed ws = some c →
        (∀ bf rm m, c.op = .mstz bf rm m → s.th.rounding rm = some r) →
        let named := match c.op with
          | .mstz bf _ m => { c with op := .mstz bf r m, insn := withMode c.insn r }
          | _ => c
        s.tileCheck named v v = (.ok c', s) → enters (.mresume p a) c' (some v.toNat))) ∧
    (Ready s p [.s a.toNat, .s b.toNat] [] →
      (∀ fmt x y,
        let words := fun (q : Nat) => (List.range 6).map fun k => s.mem.read (Region.local s.here + (q + 8 * k)) 8
        let record := fun (q : RegNo) (m : Shape) => (s.sv q).toNat % 8 = 0 ∧ (∀ k, k < 6 → Reaches s ((s.sv q).toNat + 8 * k) 8) ∧
          Shape.of (words (s.sv q).toNat) = some m ∧ m.matrix = true ∧ s.rows m.base (m.st.getD 1 0).toNat (s.sv q) = none
        record a x → record b y →
        enters (.mma p fmt pb a b) (s.newTile (.mma p fmt pb a b) (.mma fmt pb.toNat) (BitVec.ofNat 64 x.base)
          (BitVec.ofNat 64 y.base) (BitVec.ofInt 64 (x.st.getD 1 0)) (BitVec.ofInt 64 (y.st.getD 1 0))) none) ∧
      (∀ fmt pa key, s.mvsArea pb.toNat v (s.sv b) = none → s.mvsBase (s.sv b) = (.ok (pa, key), s) →
        enters (.mvs p fmt pb a b)
          { s.newTile (.mvs p fmt pb a b) (.mvs fmt pb.toNat) v (s.sv b) 0 0 with bpa := pa, bkey := key } none))

/-- Groups of tile commands, the queue of the engine, its faults, and the drain of held work (R366, R367, R249, R251,
R252, R353, R355, R368, R370, R371, R378, R264). For every ready state: mcommit off any path seals the open group
while fewer than 32 are open, and waits at 32; mwait goes on once at most n sealed groups are open, and waits
otherwise. After a path has been kept, PEN_DRAIN stores the oldest held entry to its free, clean place of the
private alias and takes it from the pen, or hands a command on; COMMIT_BUFFER_RELEASE carries out the oldest
buffered mcommit and takes it from pen and buffer. For every command in its entry: TILE_COMMAND_START starts one
whose unit is free and that no older one hinders, in the mode of its island where none runs, and does not start one
that is to stop; TILE_COMMAND_COMPLETE takes one whose work is done from the queue, releases its locks, ors its
flags into MSTAT and takes it out of its group. TILE_COMMAND_STOP of one alone in the queue that has not started and
is to stop, by PREEMPT or with a poisoned one, writes its continuation record of sixteen words, which names that
event, enters it in the chain of its thread, and leaves no lock. A TILE_FAULT of a thread with HOLD = 0 off any
path, where no interrupt is due first and no command of the thread is still to stop, takes cause 48 with the first
record as TVAL; while one is still to stop it does not come. That TILE_FAULT waits until every command of the thread
that is to stop has stopped is a reading of the model (DEDUCED, log entry 28). -/
def Obligations.TileGroups : Prop :=
  (∀ (s : State) (p : PredNo) (n : BitVec 5), Ready s p [] [] →
      (Settled s → s.th.openGroups < 32 →
        ∃ t, exec (.mcommit p) s = .next t ∧ t.th.commits = s.th.commits + 1 ∧ Advances s t 4 ∧ t.mem = s.mem ∧
          t = { s with threads := t.threads } ∧ (∀ k, k ≠ s.cur → t.thread k = s.thread k) ∧ (∀ r, t.th.sreg r = s.th.sreg r) ∧
          (∀ r, t.th.vreg r = s.th.vreg r) ∧ (∀ r, t.th.pred r = s.th.pred r) ∧
          t.th.rest = { s.th.rest with commits := s.th.commits + 1 }) ∧
      (Settled s → 32 ≤ s.th.openGroups → Waits (.mcommit p) s .tile) ∧
      (s.th.spec = none → s.th.openGroups ≤ n.toNat → JustAdvances (.mwait p n) s) ∧
      (s.th.spec = none → n.toNat < s.th.openGroups → Waits (.mwait p n) s .tile) ∧
      (∀ tid e page rest, s.Inv → (s.thread tid).pen = .store false ⟨[e], page, false, false⟩ :: rest → s.flights = [] →
        e.va < privTop → e.place = .loc (tid / 16) e.va → e.done = false → e.va % e.w = 0 →
        e.w ∈ [1, 2, 4, 8] → s.heldAt e.place e.w = false → NoWatches s →
        s.mem.anyPoison (Region.local (tid / 16) + e.va) e.w = false →
        ∃ t, exec (.penDrain tid) s = .next t ∧ (t.thread tid).pen = rest ∧
          t.mem.read (Region.local (tid / 16) + e.va) e.w = e.data % 256 ^ e.w ∧
          KeepsOutside s t (Region.local (tid / 16) + e.va) e.w ∧
          t.due = s.due ++ (if rest = [] then [] else [.drain tid]) ∧ (∀ k, k ≠ tid → t.thread k = s.thread k)) ∧
      (∀ tid id rest, (s.thread tid).pen = .cmd false id :: rest →
        (∃ t, exec (.penDrain tid) s = .next t ∧ t = { s with due := s.due ++ [.release tid] }) ∧
        (∀ x, (s.core (tid / 16)).cbuf = [x] → x.id = id → x.op = .commit → (s.thread tid).openGroups < 32 →
          ∃ t, exec (.commitBufferRelease tid) s = .next t ∧ (t.thread tid).pen = rest ∧ (t.core (tid / 16)).cbuf = [] ∧
            (t.thread tid).commits = (s.thread tid).commits + 1 ∧ t.mem = s.mem ∧
            t.due = s.due ++ (if rest = [] then [] else [.drain tid])))) ∧
    (∀ (s : State) (core : Nat) (c : TileCmd), s.tileCmd core c.entry = some c → (s.core core).tileQ.Pairwise (fun a b => a.ser ≠ b.ser) →
      let cell := fun (t : State) (f : TileCmd → Option TileCmd) =>
        (t.core core).tileQ = (s.core core).tileQ.filterMap fun d => if d.ser = c.ser then f d else some d
      (c.started = false → c.stop = none → s.tileReady core c = true →
        ∃ t, exec (.tileCommandStart core c.entry) s = .next t ∧ t.mem = s.mem ∧ t.threads = s.threads ∧
          t.due = s.due ++ [.tileSource core c.entry] ∧
          cell t fun d => some { d with
            started := true
            narrow := if (s.core core).tileQ.any (fun x => x.started) then (s.core core).narrow
              else (tget 0 s.isles (islandOf core)).getLsbD 0 }) ∧
      (c.stop.isSome = true → exec (.tileCommandStart core c.entry) s = .next s) ∧
      (c.srcDone = true → NoWatches s →
        ∃ t, exec (.tileCommandComplete core c.entry) s = .next t ∧ t.mem = s.mem ∧ (cell t fun _ => none) ∧
          (∀ k, (t.core k).locks = (s.core k).locks.filter fun l => !(l.ser == c.ser)) ∧
          (t.thread c.tid).tgroups = (s.thread c.tid).tgroups.erase c.group ∧
          (t.thread c.tid).mNx = ((s.thread c.tid).mNx || c.flags &&& Flags.nx != 0) ∧
          (t.thread c.tid).mNv = ((s.thread c.tid).mNv || c.flags &&& Flags.nv != 0) ∧
          (t.thread c.tid).mOf = ((s.thread c.tid).mOf || c.flags &&& Flags.of != 0) ∧
          (t.thread c.tid).mUf = ((s.thread c.tid).mUf || c.flags &&& Flags.uf != 0) ∧
          (t.thread c.tid).mNseen = ((s.thread c.tid).mNseen || c.narrow) ∧ (∀ k, k ≠ c.tid → t.thread k = s.thread k)) ∧
      (∀ pre, s.Inv → (s.core core).tileQ = [c] → c.started = false → c.stop = some (c.next, pre) → c.entry < 16 →
        (s.thread c.tid).chain = [] → NoWatches s →
        (∀ l ∈ (s.core core).locks, l.hi ≤ 0xF5800 + 128 * c.entry ∨ 0xF5800 + 128 * c.entry + 128 ≤ l.lo) →
        ∃ t, exec (.tileCommandStop core c.entry c.next) s = .next t ∧ (t.core core).tileQ = [] ∧
          (∀ k, (t.core k).locks = (s.core k).locks.filter fun l => !(l.ser == c.ser)) ∧
          (∀ k, k < 16 → t.mem.read (Region.local core + (0xF5800 + 128 * c.entry + 8 * k)) 8 =
            (c.record c.next pre).getD k 0 % 2 ^ 64) ∧
          KeepsOutside s t (Region.local core + (0xF5800 + 128 * c.entry)) 128 ∧
          (t.thread c.tid).chain = [(0xF5800 + 128 * c.entry, true)] ∧
          (t.thread c.tid).tgroups = (s.thread c.tid).tgroups.erase c.group ∧
          (t.thread c.tid).tstopped = (s.thread c.tid).tstopped ++ [c.group]) ∧
      (∀ first rest, s.th.chain = first :: rest → s.th.ts.hold = false → s.th.ts.unrc = false → s.th.ts.unrv = false →
        s.th.spec = none → s.th.wait = none → s.th.irqDue = none → (∀ d ∈ (s.core s.here).tileQ, d.tid = s.cur → d.stop = none) →
        ∃ t, exec .tileFault s = .next t ∧ t.th.chain = [] ∧ t.th.tcause = 48 ∧ t.th.tval = BitVec.ofNat 64 first.1 ∧
          t.th.tepc = s.th.pc &&& 0xFFFFE ∧ t.th.pc = s.th.tvec ∧ t.th.ts.hold = true ∧ t.th.ts.sup = true ∧ t.mem = s.mem ∧
          (∀ k, k ≠ s.cur → t.thread k = s.thread k)) ∧
      (∀ d ∈ (s.core s.here).tileQ, d.tid = s.cur → d.stop.isSome = true → exec .tileFault s = .next s))

/-- What the tile engine computes (R354, R361, R363, R364, R365, R377, R81, R82). For every started command that is not
to stop, with clean sources and no older lock or owner in its way, TILE_SOURCE_RELEASE releases its source locks and
does its work. mzero clears its tile; mldz puts the FP32 values of the region over zero errors; mstz rounds each
pair to FP32 or BF16; mma puts into each slot of block k the exact block sum, rounded once, of row and column; msacc
and msacc.v add each scaled partial to its pair, block after block; mvs fills the partial bank and the scale bytes
with the products of the vector and the rows of the region. That every block is read, computed and written, or
freed, at the one event TILE_SOURCE_RELEASE is the choice of the model (DESIGN CHOICE, log entry 17). -/
def Obligations.TileResults : Prop :=
  ∀ (s : State) (core : Nat) (c : TileCmd), s.Inv → core < 2048 → s.tileCmd core c.entry = some c → c.started = true → c.srcDone = false →
    c.next < c.blocks → (s.flushB c).firstPoison core c c.next (c.blocks - c.next) = none → c.stop = none →
    s.tileHeld core c = false → NoWatches s → (∀ d ∈ (s.core core).tileQ, d.ser = c.ser → d = c) →
    let a := c.opa.toNat
    ∃ t, exec (.tileSourceRelease core c.entry) s = .next t ∧ t.threads = s.threads ∧ t.due = s.due ++ [.tileDone core c.entry] ∧
      (∀ k, (t.core k).locks = (s.core k).locks.filter fun l => !(l.ser == c.ser && l.src)) ∧
      (∃ d ∈ (t.core core).tileQ, d.ser = c.ser ∧ d.srcDone = true ∧ d.entry = c.entry) ∧
      (∀ z, z < 8 → c.op = .mzero z → ∀ e, e < 4096 → t.pair core z e = (0, 0)) ∧
      (∀ z, z < 8 → c.op = .mldz z → a + 16384 ≤ 2 ^ 20 →
        ∀ e, e < 4096 → t.pair core z e = (s.localNum core (a + 4 * e) 4, 0)) ∧
      (∀ bf rm z, z < 8 → c.op = .mstz bf rm z → a % 8 = 0 → a + (if bf then 8192 else 16384) ≤ 2 ^ 20 →
        s.mem.anyPoison (Region.tile core z) 32768 = false →
        ∀ e, e < 4096 → t.localNum core (a + (if bf then 2 else 4) * e) (if bf then 2 else 4) =
          (pairRound (if bf then .bf16 else .f32) rm (s.pair core z e).1 (s.pair core z e).2).1) ∧
      (∀ f pb, c.op = .mma f pb → pb + f.blocks ≤ 16 → a + 63 * c.sta.toNat + 192 ≤ 2 ^ 20 →
        c.opb.toNat + 63 * c.stb.toNat + 192 ≤ 2 ^ 20 →
        ∀ k e, c.next ≤ k → k < f.blocks → e < 4096 →
          let row := fun (base st i : Nat) => s.localNum core (base + i * st + f.blockBytes * k) f.blockBytes
          t.slotVal core (pb + k) e = (blockSum f (row a c.sta.toNat (e / 64)) (row c.opb.toNat c.stb.toNat (e % 64))).1) ∧
      (∀ vec z pb, z < 8 → c.op = .msacc vec z pb → pb + c.blocks ≤ 16 →
        ∀ e, e < 4096 →
          let byte := fun o => s.localNum core (scaleAddr c.opa + o) 1
          let exps := fun k : Nat => if scaleUnit c.opa then (0x7F, 0x7F)
            else if vec then (byte k, byte (512 + 4096 * k + e)) else (byte (128 * k + e / 64), byte (128 * k + 64 + e % 64))
          t.pair core z e = ((List.range c.blocks).drop c.next).foldl (fun (x : Nat × Nat) k =>
            let r := pairAdd x.1 x.2 (scaledPartial (s.slotVal core (pb + k) e) (exps k).1 (exps k).2).1
            (r.1, r.2.1)) (s.pair core z e)) ∧
      (∀ f pb, c.op = .mvs f pb → pb + mvsBlocks c.opb ≤ 16 → a % 8 = 0 →
        a + 512 + 4096 * mvsBlocks c.opb ≤ 2 ^ 20 → c.bkey = 0 → s.hbmTag = [] → s.lines = [] → c.bpa + 2 ^ 25 ≤ 2 ^ 41 →
        let n := f.blockBytes
        ∀ k row, k < mvsBlocks c.opb → row < 4096 →
          t.slotVal core (pb + k) row = (if row < mvsRows c.opb then
            (blockSum (.mx f) (s.localNum core (a + 64 + n * k) n) (s.mem.read (c.bpa + n * (4096 * k + row)) n)).1 else 0) ∧
          t.localNum core (a + 512 + 4096 * k + row) 1 = (if row < mvsRows c.opb then
            s.mem.read (c.bpa + 4096 * n * mvsBlocks c.opb + 4096 * k + row) 1 else 0x7F))

/-- ycfg, yswap, ywant, ysync and ygen (R382, R383, R384, R389, R390, R391, R393, R404, R408, R409, R410, R411). For
every ready thread with nothing under way: ycfg of a record and a member table in the private alias that pass R384
makes the yard anew with the identity map. For a member of a whole yard: yswap of a remote and a local position
records the swap, exchanges the two in the map, stamps the local one and raises the generation, or takes back an
equal swap pending last; with sixteen pending the oldest starts; ywant starts every pending swap and brings each
named bit to a local position; ysync starts them and waits, and goes on once nothing moves; ygen reads the
generation. Outside the membership they trap GROUP 5, after a dissolution GROUP 3, after a divergence MAP_DIVERGE.
Memory and registers otherwise stay. -/
def Obligations.YardInstructions : Prop :=
  ∀ (s : State) (a d : RegNo) (r l b0 b1 : BitVec 6) (two : Bool) (k : Nat), Settled s →
    let y := (s.core s.here).yard
    let still := fun t : State => Advances s t 4 ∧ t.mem = s.mem ∧ SameRegs s t ∧ (∀ c, c ≠ s.here → t.core c = s.core c)
    (∀ rec tab memb,
      let va := (s.sv a).toNat
      let ws := (List.range 8).map fun j => s.mem.read (Region.local s.here + (va + 8 * j)) 8
      Ready s 0 [.s a.toNat] [] → y.busy = false → (s.core s.here).axisQ = [] → va % 64 = 0 →
      (∀ j, j < 8 → Reaches s (va + 8 * j) 8) → YardRec.of ws = some rec →
      s.th.memberOf (BitVec.ofNat 48 rec.gid) = some k → memb = s.th.mem k → rec.ok (some memb) = true →
      (∀ j, j < 2 ^ (rec.n - rec.l) → Reaches s (rec.mtab + 8 * j) 8) →
      tab = ((List.range (2 ^ (rec.n - rec.l))).map fun j => s.mem.read (Region.local s.here + (rec.mtab + 8 * j)) 8) →
      tableOk rec s.ident.toNat s.here memb.index.toNat tab = true →
      ∃ t, exec (.ycfg a) s = .next t ∧ still t ∧ (t.core s.here).yard =
        { cfg := true, ty := rec.ty, n := rec.n, l := rec.l, u := rec.u, gid := BitVec.ofNat 48 rec.gid, wbase := rec.wbase
          members := tab.map (BitVec.ofNat 64 ·), recWords := ws.map (BitVec.ofNat 64 ·), me := memb.index.toNat
          map := List.range rec.n, place := List.range rec.n, gen := 0, pend := [], trig := [], moving := none
          stamps := [], count := 0, tid := s.cur, div := none, dead := false }) ∧
    (Ready s 0 [] [] → YardMember s k →
      (y.l ≤ r.toNat → r.toNat < y.n → y.unitBit ≤ l.toNat → l.toNat < y.l → y.trig = [] →
        (∀ w, y.pend.getLast? = some w → w.r = r.toNat → w.l = l.toNat →
          ∃ t, exec (.yswap r l) s = .next t ∧ still t ∧ (t.core s.here).yard =
            { y with map := swapAt y.map r.toNat l.toNat, gen := y.gen + 1, stamps := tset y.stamps l.toNat y.count,
                     pend := y.pend.dropLast }) ∧
        (y.pend.length < 16 → (∀ w, y.pend.getLast? = some w → ¬(w.r = r.toNat ∧ w.l = l.toNat)) →
          ∃ t, exec (.yswap r l) s = .next t ∧ still t ∧ (t.core s.here).yard =
            { y with map := swapAt y.map r.toNat l.toNat, gen := y.gen + 1, stamps := tset y.stamps l.toNat y.count,
                     pend := y.pend ++ [⟨r.toNat, l.toNat, y.gen + 1, 0⟩] }) ∧
        (∀ w ws, y.pend = w :: ws → y.pend.length = 16 → (∀ x, y.pend.getLast? = some x → ¬(x.r = r.toNat ∧ x.l = l.toNat)) →
          y.moving = none → (s.core s.here).axisQ = [] →
          ∃ t m, exec (.yswap r l) s = .next t ∧ still t ∧ (t.core s.here).yard.moving = some m ∧ m.sw.r = w.r ∧ m.sw.l = w.l ∧
            m.shook = false ∧ (t.core s.here).yard.pend = ws ++ [⟨r.toNat, l.toNat, y.gen + 1, 0⟩] ∧
            (t.core s.here).yard.place = swapAt y.place w.r w.l)) ∧
      (∀ named, named = (if two then [b0.toNat, b1.toNat] else [b0.toNat]) → (∀ b ∈ named, b < y.n) → (two = true → b0 ≠ b1) → (y.name true named s.nextId).isSome = true →
        ∃ t, exec (.ywant two b0 b1) s = .next t ∧ still t ∧ (t.core s.here).yard.pend = [] ∧
          (t.core s.here).yard.count = y.count + 1 ∧ ∀ b ∈ named, (t.core s.here).yard.map.getD b 0 < y.l) ∧
      (y.pend = [] → y.busy = false → (s.core s.here).axisQ = [] →
        ∃ t, exec .ysync s = .next t ∧ still t ∧ (t.core s.here).yard = y) ∧
      (y.pend ≠ [] → s.th.wait ≠ some .yard → y.trig = [] → y.moving.isSome = true →
        ∃ t, exec .ysync s = .next t ∧ t.th.state = .waiting ∧ t.th.wait = some .yard ∧ t.th.pc = s.th.pc ∧ t.mem = s.mem ∧
          (t.core s.here).yard.pend = [] ∧ (t.core s.here).yard.trig.length = y.pend.length)) ∧
    (Ready s 0 [] [.s d.toNat] → YardMember s k → ScalarResult (.ygen d) s d (y.gen.setWidth 64) 0) ∧
    (Ready s 0 [] [] → ∀ i ∈ [Instr.yswap r l, .ywant two b0 b1, .ysync],
      (s.th.memberOf y.gid = none → Traps i s 30 (groupVal 5 0)) ∧
      (s.th.memberOf y.gid = some k → y.cfg = true → (s.th.mem k).diss = true ∨ y.dead = true → Traps i s 30 (groupVal 3 k)) ∧
      (∀ v, s.th.memberOf y.gid = some k → y.cfg = true → (s.th.mem k).diss = false → y.dead = false → y.div = some v →
        Traps i s 29 v))

/-- axa, axd and axs enter the axis queue, and axn reads the norm (R392, R404, R405, R412, R413, R414, R415, R416,
R417). For every ready member of a whole yard with nothing under way, a type that is the yard's, and room in the
queue: axa with a legal bit list, control word and matrix in the private alias, axd with a list and a table, and axs
in both forms answer a next state in which the command with the values read at issue stands last in the axis queue
and the engine owes its completion; axa has brought its bits to local positions. axn, with nothing moving and no
element of the stripe held, writes the sum of squares of the stripe and its error to d and d + 1, or poisons both
after a poisoned element. -/
def Obligations.AxisCommandsIssue : Prop :=
  ∀ (s : State) (ty : YType) (d a b : RegNo) (k : Nat), Settled s → YardMember s k →
    let y := (s.core s.here).yard
    let e := entryBytes ty
    let z := 2 ^ ty.log
    let at_ := fun (q : RegNo) => (s.sv q).toNat
    let area := fun (al n : Nat) => at_ a % al = 0 ∧ ∀ j, j < n → Reaches s (at_ a + e * j) e
    let values := fun (n : Nat) => (List.range n).map fun j => s.mem.read (Region.local s.here + (at_ a + e * j)) e
    let enters := fun (i : Instr) (op : AxisOp) => ∃ t pre, exec i s = .next t ∧ Advances s t 4 ∧ t.mem = s.mem ∧ SameRegs s t ∧
      (t.core s.here).axisQ = (s.core s.here).axisQ ++ [⟨s.nextId + 1, s.cur, op, 0⟩] ∧ t.due = s.due ++ pre ++ [.axisDone s.here] ∧
      (∀ c, c ≠ s.here → t.core c = s.core c) ∧
      ∀ list ctl val mat, op = .axa list ctl val mat → ∀ q ∈ list, (t.core s.here).yard.map.getD q 0 < y.l
    ty = y.ty → (s.core s.here).axisQ.length < 4 →
    (∀ list ctl val, Ready s 0 [.s d.toNat, .s a.toNat, .s b.toNat] [] → bitList (at_ b) y.n 5 = some list →
      controlWord (at_ d) y.n list = some (ctl, val) → area 64 (4 ^ list.length) → (y.name false list s.nextId).isSome = true →
      enters (.axa ty d a b) (.axa list ctl val (values (4 ^ list.length)))) ∧
    (∀ list, Ready s 0 [.s a.toNat, .s b.toNat] [] → bitList (at_ b) y.n 8 = some list → area 64 (2 ^ list.length) →
      enters (.axd ty a b) (.axd list (values (2 ^ list.length)))) ∧
    (Ready s 0 [.s a.toNat] [] → area e 1 → enters (.axs ty false a b) (.axsScale ((values 1).getD 0 0))) ∧
    (Ready s 0 [.s a.toNat, .s b.toNat] [] → area e 1 → at_ b % 64 = 0 → (∀ j, j < 2 ^ y.l → Reaches s (at_ b + z * j) z) →
      enters (.axs ty true a b) (.axsAxpy ((values 1).getD 0 0)
        ((List.range (2 ^ y.l)).map fun j => (s.mem.read (Region.local s.here + (at_ b + z * j)) z, false)))) ∧
    (Ready s 0 [] [.s d.toNat, .s (d.toNat + 1)] → y.busy = false → (s.core s.here).axisQ = [] →
      (∀ j, j < 2 ^ y.l → s.stripeHeld y s.nextId j = false) →
      let norm := (s.axisNorm s.here y (2 ^ y.l)).1
      ∃ t, exec (.axn ty d) s = .next t ∧ Advances s t 4 ∧
        (norm.2.2 = false → HoldsS t d (BitVec.ofNat 64 norm.1) ∧ HoldsS t (d + 1) (BitVec.ofNat 64 norm.2.1)) ∧
        (norm.2.2 = true → d.toNat < 31 → t.th.sreg d.toNat = (if d = 0 then Reg.zero else ⟨0, false, true, 0⟩) ∧
          t.th.sreg (d.toNat + 1) = ⟨0, false, true, 0⟩) ∧
        (∀ r, r ≠ d.toNat → r ≠ (d + 1).toNat → r ≠ d.toNat + 1 → t.th.sreg r = s.th.sreg r))

/-- Swaps move unit by unit, accesses follow them, and a yard ends (R394, R395, R396, R397, R399, R407, R408, R422). For
two cores of this module that are partners in a swap: SWAP_HANDSHAKE with equal records, generations and swaps lets
both move, and with different generations of one swap strikes both with MAP_DIVERGE and empties their axis queues.
EXCHANGE_UNIT_START puts one more unit, at most sixteen, in flight on both. EXCHANGE_UNIT_COMPLETE with both stripes
in their slices exchanges the elements of unit F between the partners and advances both frontiers, or ends the swap.
YARD_ACCESS_FORWARD sends an element's access on to the core its hop names, performs a load of one that is here, and
refuses with DENIED one that reaches a core without a yard. YARD_END ends the yard of a member that has left. That
an exchange unit is read and written at EXCHANGE_UNIT_COMPLETE, in one step, is the choice of the model (log entry
17), and so is that a unit takes flight only where both stripes have a way and no older owner for its lines (log
entry 17). -/
def Obligations.YardMoves : Prop :=
  ∀ (s : State) (core c : Nat),
    let y := (s.core core).yard
    let z := (s.core c).yard
    (∀ m n : Moving, y.moving = some m → z.moving = some n → core ≠ c → c < 2048 → s.memberCore y (y.partner m.sw.r) = c → y.div = none → z.div = none →
    y.dead = false → z.dead = false → z.ty = y.ty → z.l = y.l → z.u = y.u → n.sw.r = m.sw.r → n.sw.l = m.sw.l →
    (m.shook = false → n.shook = false → z.cfg = true → z.gid = y.gid →
      (z.recWords = y.recWords → z.members = y.members → n.sw.gen = m.sw.gen →
        ∃ t, exec (.swapHandshake core none) s = .next t ∧ (t.core core).yard.moving = some { m with shook := true } ∧
          (t.core c).yard.moving = some { n with shook := true } ∧ t.due = s.due ++ [.unitStart core] ∧ t.mem = s.mem ∧
          t.threads = s.threads) ∧
      (n.sw.gen ≠ m.sw.gen → y.tid ≠ z.tid →
        let value := fun (theirs own : BitVec 48) => BitVec.ofNat 64 (theirs.toNat % 2 ^ 32 * 2 ^ 32 + own.toNat % 2 ^ 32)
        ∃ t, exec (.swapHandshake core none) s = .next t ∧ (t.core core).axisQ = [] ∧ (t.core c).axisQ = [] ∧ t.mem = s.mem ∧
          (t.thread y.tid).diverge = some (value n.sw.gen m.sw.gen) ∧ (t.thread z.tid).diverge = some (value m.sw.gen n.sw.gen))) ∧
    (m.shook = true → m.f + m.inflight < y.units → m.inflight < 16 → (s.core core).preempted = false → (s.core c).preempted = false →
      s.coreOut core = false → s.coreOut c = false →
      s.unitOwned core y m.sw (m.f + m.inflight) = false → s.unitOwned c z m.sw (m.f + m.inflight) = false →
      ∃ t, exec (.exchangeUnitStart core) s = .next t ∧ (t.core core).yard.moving = some { m with inflight := m.inflight + 1 } ∧
        (t.core c).yard.moving = some { n with inflight := n.inflight + 1 } ∧ t.due = s.due ++ [.unitDone core, .unitStart core] ∧
        t.mem = s.mem ∧ t.threads = s.threads) ∧
    (0 < m.inflight → n.f = m.f → n.inflight = m.inflight → Resident s core y → Resident s c z → s.Inv → y.trig = [] → z.trig = [] →
      3 ≤ y.u → y.ty.log ≤ y.u → y.unitBit ≤ m.sw.l →
      (∀ e, e < 2 ^ y.unitBit → y.unitIndex m.sw m.f e < 2 ^ y.l ∧ z.unitIndex m.sw m.f e < 2 ^ y.l) →
      ∃ t, exec (.exchangeUnitComplete core .own) s = .next t ∧ t.threads = s.threads ∧
        (∀ e, e < 2 ^ y.unitBit →
          t.stripe core y (y.unitIndex m.sw m.f e) = s.stripe c z (z.unitIndex m.sw m.f e) ∧
          t.stripe c z (z.unitIndex m.sw m.f e) = s.stripe core y (y.unitIndex m.sw m.f e)) ∧
        (∀ j, j < 2 ^ y.l → (∀ e, e < 2 ^ y.unitBit → j ≠ y.unitIndex m.sw m.f e) → t.stripe core y j = s.stripe core y j) ∧
        (∀ j, j < 2 ^ y.l → (∀ e, e < 2 ^ y.unitBit → j ≠ z.unitIndex m.sw m.f e) → t.stripe c z j = s.stripe c z j) ∧
        (t.core core).yard.moving = (if m.f + 1 = y.units then none else some { m with f := m.f + 1, inflight := m.inflight - 1 }) ∧
        (t.core c).yard.moving = (if m.f + 1 = y.units then none else some { n with f := m.f + 1, inflight := m.inflight - 1 }))) ∧
    (∀ (f : Flight) (e : Elem) (i sub : Nat), s.flights = [f] → s.fabops = [] → f.elems = [e] → e.place = .yard core i sub → core < 2048 →
      e.done = false → e.sent = false → e.poison = false →
      (∀ c', s.hop core i = .to c' → c' < 2048 →
        exec (.yardAccessForward (.own f.id e.part)) s = .next { s with
          flights := [{ f with elems := [{ e with place := .yard c' i sub }] }], due := s.due ++ [.locate (.own f.id e.part)] }) ∧
      (∀ pa j, s.hop core i = .here pa → pa = y.base + j * 2 ^ y.ty.log → j < 2 ^ y.l → Resident s core y → f.kind = .load →
        e.w = 2 ^ y.ty.log → sub = 0 → e.laid = [] → f.rel = false → f.so = false → s.heldAt (.line core pa 0) e.w = false →
        ∃ t g, exec (.yardAccessForward (.own f.id e.part)) s = .next t ∧ t.flights = [g] ∧ t.mem = s.mem ∧
          g.elems = [{ e with data := s.stripe core y j, done := true }] ∧
          t.due = s.due ++ [.arrive f.id]) ∧
      (s.hop core i = .denied → f.kind = .load → f.rel = false → f.so = false →
        ∃ t g, exec (.yardAccessForward (.own f.id e.part)) s = .next t ∧ t.flights = [g] ∧ t.mem = s.mem ∧
          g.elems = [{ e with refused := some 2, done := true }] ∧ t.due = s.due ++ [.arrive f.id])) ∧
    (∀ q, (s.core q).yard.cfg = true → (s.core q).yard.dead = true →
      (s.core q).yard.busy = false → (s.core q).axisQ = [] → s.yardArrived q = false →
      ∃ t, exec (.yardEnd q) s = .next t ∧ (t.core q).yard = { (s.core q).yard with cfg := false } ∧ t.mem = s.mem ∧
        t.threads = s.threads)

/-- What the axis engine computes (R83, R398, R406, R412, R413, R414, R415, R418). For every core whose stripe lies in
its slice, with no PREEMPT, AXIS_COMMAND_COMPLETE does the next tuple of the oldest command, where nothing moves and
no older command holds the stripe: the least local index from the position of the engine on at which the command
works. axs multiplies the element there by alpha, or adds alpha times the source element to it; axd multiplies it by
the entry of the table that its listed logical bits name; axa, whose bits are at local positions (as its issue
leaves them) and whose control bits match there, multiplies the tuple along them by the matrix, row by row. Every
other element, and every byte and poison code outside the stripe, stays. With no tuple left the command leaves the
queue and memory stays. From PREEMPT on, and while a swap triggered before the command has still to begin, nothing
is done and the engine owes the event again. That one tuple ends at each AXIS_COMMAND_COMPLETE is the choice of the
model (log entry 17). -/
def Obligations.AxisResults : Prop :=
  ∀ (s : State) (core j : Nat) (x : AxisCmd) (rest : List AxisCmd), s.Inv →
    let y := (s.core core).yard
    let put := fun v => axisRound y.ty v % 2 ^ (8 * 2 ^ y.ty.log)
    let wide := fun j => axisWiden y.ty (s.stripe core y j)
    let works := fun i : Nat => ∀ list ctl val mat, x.op = .axa list ctl val mat →
      (∀ b ∈ list, i.testBit (y.place.getD b 0) = false) ∧ y.logicalIndex i ctl = val
    (s.core core).axisQ = x :: rest →
    ((s.core core).preempted = true → exec (.axisCommandComplete core) s = .next { s with due := s.due ++ [.axisDone core] }) ∧
    ((s.core core).preempted = false → Resident s core y →
    (y.toBegin x.ser = true → y.dead = false → exec (.axisCommandComplete core) s = .next { s with due := s.due ++ [.axisDone core] }) ∧
    (y.toBegin x.ser = false → (∀ i, x.pos ≤ i → i < 2 ^ y.l → ¬ works i) →
      ∃ t, exec (.axisCommandComplete core) s = .next t ∧ (t.core core).axisQ = rest ∧ t.mem = s.mem ∧ t.threads = s.threads) ∧
    (y.moving = none → y.trig = [] → (∀ i, i < 2 ^ y.l → s.stripeHeld y x.ser i = false ∧ s.stripeNoWay core y x.ser i = false) →
      x.pos ≤ j → j < 2 ^ y.l → works j → (∀ i, x.pos ≤ i → i < j → ¬ works i) →
      (∀ list ctl val mat, x.op = .axa list ctl val mat →
        (list.map fun b => y.place.getD b 0).Nodup ∧ ∀ b ∈ list, y.place.getD b 0 < y.l) →
      ∃ t, exec (.axisCommandComplete core) s = .next t ∧ (t.core core).axisQ = { x with pos := j + 1 } :: rest ∧
        t.due = s.due ++ [.axisDone core] ∧ t.threads = s.threads ∧
        (∀ a, a < Region.slice core y.base ∨ Region.slice core y.base + 2 ^ y.l * 2 ^ y.ty.log ≤ a → t.mem.byte a = s.mem.byte a) ∧
        (∀ a, a / 8 * 8 + 8 ≤ Region.slice core y.base ∨ Region.slice core y.base + 2 ^ y.l * 2 ^ y.ty.log ≤ a / 8 * 8 →
          t.mem.poisoned a = s.mem.poisoned a) ∧
        (∀ i, i < 2 ^ y.l → i ∉ x.op.tuple y j → t.stripe core y i = s.stripe core y i) ∧
        (∀ alpha, x.op = .axsScale alpha → t.stripe core y j = put (axisMac y.ty alpha (wide j) 0)) ∧
        (∀ alpha xs, x.op = .axsAxpy alpha xs → (∀ v ∈ xs, v.2 = false) →
          t.stripe core y j = put (axisMac y.ty alpha (axisWiden y.ty (xs.getD j (0, false)).1) (wide j))) ∧
        (∀ list tab, x.op = .axd list tab →
          t.stripe core y j = put (axisMac y.ty (tab.getD (y.logicalIndex j list) 0) (wide j) 0)) ∧
        (∀ list ctl val mat, x.op = .axa list ctl val mat →
          let qs := list.map fun b => y.place.getD b 0
          let tuple := (List.range (2 ^ qs.length)).map fun i => (s.stripe core y (tupleIndex j i qs), false)
          ∀ r, r < 2 ^ qs.length → t.stripe core y (tupleIndex j r qs) =
            put (matRow y.ty ((mat.drop (r * 2 ^ qs.length)).take (2 ^ qs.length)) tuple 0))))

/-- put, puts, get and radd set out (R318, R319, R427, R428, R429, R432, R433). For every ready thread with nothing
under way and fewer than 64 fabric operations, a remote operand with zero reserved bits, a multiple of 8 as its
address, and a valid, reachable peer with the capability (radd to s0 needs none): put and puts with a clean source
in the private alias send its words read at issue, get locks its destination there, and radd marks d pending; the
operation stands among those in flight, FABCNT is one higher, and it is owed to the module itself or leaves in its
packets by the peer's port, each with the next counter, the key and the seal bit of the peer's entry and the job tag
of the paddock. Memory stays and the thread goes on. A remote operand with a reserved bit takes SHAPE, an unknown
peer NAK 2, an unreachable one NAK 3, a missing capability NAK 1. -/
def Obligations.FabricIssues : Prop :=
  ∀ (s : State) (p : PredNo) (d a b : RegNo), Settled s → s.th.fabCnt < 64 →
    let legal := fun (remote : Word) (cap : Option Nat) =>
      let e := tget 0 s.peers (remotePeer remote)
      bits remote.toNat 63 60 = 0 ∧ operandAddr remote % 8 = 0 ∧ e.getLsbD 63 = true ∧ e.getLsbD 62 = true ∧
        ∀ k, cap = some k → e.getLsbD k = true
    let departs := fun (i : Instr) (o : FabOp) =>
      ∃ t, exec i s = .next t ∧ Advances s t 4 ∧ t.mem = s.mem ∧
        t.fabops = s.fabops ++ [{ o with target := if o.peer = s.ident.toNat then s.ownTarget o else [] }] ∧ t.th.fabCnt = s.th.fabCnt + 1 ∧ t.owns = s.owns ∧
        (∀ k, k ≠ s.cur → t.thread k = s.thread k) ∧ (∀ r, (o.kind = .radd → r ≠ d.toNat) → t.th.sreg r = s.th.sreg r) ∧
        (∀ r, t.th.vreg r = s.th.vreg r) ∧ (∀ r, t.th.pred r = s.th.pred r) ∧
        (∀ k, (t.core k).locks = (s.core k).locks ++ (if o.kind = .get then
          ((spanLocks s.here o.id false (operandAddr (s.sv d)) (operandAddr (s.sv d) + 8 * o.nw)).filter fun l => l.1 == k).map (·.2) else [])) ∧
        (o.kind = .radd → d ≠ 0 → t.th.pending (.s d.toNat) = true) ∧
        (if o.peer = s.ident.toNat then t.due = s.due ++ [o.serve] ∧ t.outbox = s.outbox
          else
            let e := tget 0 s.peers o.peer
            let port := bits e.toNat 60 56
            let bodies := o.bodies (s.jobOf s.here)
            t.due = s.due ∧ tget 0 t.portCtr port = tget 0 s.portCtr port + BitVec.ofNat 64 bodies.length ∧
            t.outbox = s.outbox ++ (bodies.zip (List.range bodies.length)).map fun x =>
              .packet o.peer port (tget 0 s.portCtr port + BitVec.ofNat 64 (x.2 + 1)) (s.fabKey o.peer) (e.getLsbD 61) x.1)
    let op := fun (kind : FabKind) (remote : Word) (places : List Place) (nw lva : Nat) (data : List Dword) => ({
      id := s.nextId, tid := s.cur, kind := kind, peer := remotePeer remote, oper := remote, places := places
      target := [], nw := nw, lva := lva, data := data, sig := 0
      inc := 0, opnd := 0, dest := .none, group := 0, mcount := 1, resp := none } : FabOp)
    let n := bits (s.sv d).toNat 63 48 + 1
    let here := operandAddr (s.sv d)
    let places := (List.range n).map fun k => Place.loc s.here (here + 8 * k)
    let words := (List.range n).map fun k => (BitVec.ofNat 64 (s.mem.read (Region.local s.here + (here + 8 * k)) 8), false)
    (Ready s p [.s a.toNat, .s d.toNat] [] → legal (s.sv a) (some 0) → (∀ k, k < n → Reaches s (here + 8 * k) 8) →
      departs (.put p d a) (op .put (s.sv a) places n here words)) ∧
    (Ready s p [.s a.toNat, .s b.toNat, .s d.toNat] [] → legal (s.sv a) (some 1) → (∀ k, k < n → Reaches s (here + 8 * k) 8) →
      bits (s.sv b).toNat 55 48 = 0 → bits (s.sv b).toNat 63 56 ≠ 0 → operandAddr (s.sv b) % 8 = 0 →
      departs (.puts p d a b)
        { op .puts (s.sv a) places n here words with sig := (s.sv b).setWidth 48, inc := (s.sv b >>> 56).setWidth 8 }) ∧
    (Ready s p [.s a.toNat, .s d.toNat] [] → legal (s.sv a) (some 0) → (∀ k, k < n → Reaches s (here + 8 * k) 8) →
      s.lockRoom (spanLocks s.here s.nextId false here (here + 8 * n)) = true → departs (.get p d a) (op .get (s.sv a) places n here [])) ∧
    (Ready s p [.s a.toNat, .s b.toNat] [.s d.toNat] → legal (s.sv a) (if d = 0 then none else some 2) →
      departs (.radd p d a b) { op .radd (s.sv a) [] 1 0 [] with opnd := s.sv b, dest := .scalar d.toNat 8 false }) ∧
    (Ready s p [.s a.toNat, .s d.toNat] [] →
      let e := tget 0 s.peers (remotePeer (s.sv a))
      (bits (s.sv a).toNat 63 60 ≠ 0 → Traps (.put p d a) s 25 (s.sv a)) ∧
      (bits (s.sv a).toNat 63 60 = 0 → operandAddr (s.sv a) % 8 ≠ 0 → Traps (.put p d a) s 6 (s.sv a)) ∧
      (bits (s.sv a).toNat 63 60 = 0 → operandAddr (s.sv a) % 8 = 0 →
        (e.getLsbD 63 = false → Traps (.put p d a) s 28 (nakVal 2 (s.sv a).toNat)) ∧
        (e.getLsbD 63 = true → e.getLsbD 62 = false → Traps (.put p d a) s 28 (nakVal 3 (s.sv a).toNat)) ∧
        (e.getLsbD 63 = true → e.getLsbD 62 = true → e.getLsbD 0 = false → Traps (.put p d a) s 28 (nakVal 1 (s.sv a).toNat))))

/-- What a one-sided operation does at its target (R317, R319, R426, R427, R428, R433, R213). For every operation toward
this module, its own or in authenticated packets with rising counters, whose ranges an export of the paddock with
its job tag allows at free, clean, unwatched places of one local memory: a put writes its words, the poison code
where one came with it; a puts writes them and adds INC to the signal; a get answers with the words; a radd answers
with the old value and adds, and on a poisoned word answers with the poison and changes nothing. The answer is owed
or sent. A refusal of R427 changes no memory and is the answer; a packet whose tag or counter fails is dropped and
logged. Authentication as equality of keys is the choice of the model (log entry 11), and so is that the last
counter is kept per sender and port (log entry 28). -/
def Obligations.FabricServes : Prop :=
  ∀ (s : State) (core off n soff : Nat) (data : List Dword), s.Inv → NoWatches s → s.incoming = [] → off % 8 = 0 → off + 8 * n ≤ 2 ^ 20 →
    data.length = n → 0 < n → soff % 8 = 0 → soff + 8 ≤ 2 ^ 20 → (soff + 8 ≤ off ∨ off + 8 * n ≤ soff) →
    let q0 := Region.local core + off
    let ps := (List.range n).map fun k => Place.loc core (off + 8 * k)
    let free := (∀ k, k < n → s.heldAt (.loc core (off + 8 * k)) 8 = false) ∧ s.heldAt (.loc core soff) 8 = false ∧
      s.mem.anyPoison q0 (8 * n) = false ∧ s.mem.poisoned (Region.local core + soff) = false
    let answers := fun (mk : FabSrc → Instr) (kind : FabKind) (payload : List Dword) (r : Served) (resp : FabResp) (claim : FabReq → State → Prop) =>
      (∀ hs q peer, hs.length = reqPackets q → (∀ h ∈ hs, h ∉ s.early ∧ h.peer = peer ∧ s.fabKey peer = some h.key ∧ tget 0 s.lastCtr (streamOf h) < h.ctr) →
        hs.Pairwise (fun g h => g.port = h.port → g.ctr < h.ctr) → q.data = payload → q.nw = n →
        s.serveCheck q.job kind.cap (kind.ranges q.addr.toNat n q.sig.toNat) = r →
        ∃ t, exec (mk (.peer hs q)) s = .next t ∧ claim q t ∧ t.outbox = (s.respondTo peer q resp).outbox ∧ t.incoming = [] ∧
          (∀ h ∈ hs, h.ctr ≤ tget 0 t.lastCtr (streamOf h)) ∧ t.threads = s.threads) ∧
      (∀ o, s.fabops = [o] → o.kind = kind → o.peer = s.ident.toNat → o.resp = none → o.nw = n → o.data = payload →
        s.serveCheck (s.jobOf (o.tid / 16)) kind.cap (kind.ranges (operandAddr o.oper) n o.sig.toNat) = r →
        ∃ t, exec (mk (.own o.id)) s = .next t ∧ claim ⟨0, 0, 0, 0, [], 0, o.sig, o.inc, o.opnd⟩ t ∧
          t.fabops = [{ o with resp := some resp }] ∧ t.due = s.due ++ [.respond o.id resp] ∧ t.threads = s.threads)
    let written := fun (t : State) => ∀ k, k < n → t.mem.poisoned (q0 + 8 * k) = (data.getD k (0, false)).2 ∧
      ((data.getD k (0, false)).2 = false → t.mem.read (q0 + 8 * k) 8 = (data.getD k (0, false)).1.toNat)
    let old := s.mem.read q0 8
    (free →
      answers .fabricPutArrival .put data (.ok [ps]) (.ok []) (fun _ t => written t ∧ KeepsOutside s t q0 (8 * n)) ∧
      answers .fabricPutsArrival .puts data (.ok [ps, [.loc core soff]]) (.ok []) (fun q t => written t ∧
        t.mem.read (Region.local core + soff) 8 = (s.mem.read (Region.local core + soff) 8 + q.inc.toNat) % 2 ^ 64 ∧
        ∀ a, (a < q0 ∨ q0 + 8 * n ≤ a) → (a < Region.local core + soff ∨ Region.local core + soff + 8 ≤ a) →
          t.mem.byte a = s.mem.byte a ∧ t.mem.poisoned a = s.mem.poisoned a) ∧
      answers .fabricGetArrival .get [] (.ok [ps])
        (.ok ((List.range n).map fun k => (BitVec.ofNat 64 (s.mem.read (q0 + 8 * k) 8), false))) (fun _ t => t.mem = s.mem) ∧
      answers .fabricRaddArrival .radd [] (.ok [[.loc core off]]) (.ok [(BitVec.ofNat 64 old, false)])
        (fun q t => t.mem.read q0 8 = (old + q.opnd.toNat) % 2 ^ 64 ∧ KeepsOutside s t q0 8)) ∧
    (s.mem.poisoned q0 = true → s.heldAt (.loc core off) 8 = false →
      answers .fabricRaddArrival .radd [] (.ok [[.loc core off]]) (.ok [(0, true)]) (fun _ t => t.mem = s.mem)) ∧
    (∀ sub, answers .fabricPutArrival .put data (.refused sub) (.refused sub) (fun _ t => t.mem = s.mem) ∧
      answers .fabricPutsArrival .puts data (.refused sub) (.refused sub) (fun _ t => t.mem = s.mem) ∧
      answers .fabricGetArrival .get [] (.refused sub) (.refused sub) (fun _ t => t.mem = s.mem) ∧
      answers .fabricRaddArrival .radd [] (.refused sub) (.refused sub) (fun _ t => t.mem = s.mem)) ∧
    (∀ h q, pktPasses h (s.fabKey h.peer) (tget 0 s.lastCtr (streamOf h)) = false →
      ∀ i ∈ [Instr.fabricPutArrival (.peer [h] q), .fabricPutsArrival (.peer [h] q), .fabricGetArrival (.peer [h] q),
          .fabricRaddArrival (.peer [h] q)],
        ∃ t, exec i s = .next t ∧ t.mem = s.mem ∧ t.outbox = s.outbox ∧ t.lastCtr = s.lastCtr ∧ t.lognew = true)

/-- A one-sided operation ends (R203, R433, R434, R435). For an operation in flight of a thread that is not swapped out:
an answer, of this module itself or in authenticated packets of the peer, takes it from those in flight, lowers
FABCNT and releases its locks; a get writes its words to its destination, a radd with d ≠ s0 writes the old value to
d, or poisons d where the word held the poison code. A refusal and a timeout (subcode 6) write the refusal record of
the slot, with its sequence number, kind, operand and counts; then radd poisons d with the subcode, and the others,
and a posted radd, set ERRFAB. Authentication of a response as equality of keys is the choice of the model (log
entry 11), and so is that the last counter is kept per sender and port (log entry 28). -/
def Obligations.FabricEnds : Prop :=
  ∀ (s : State) (o : FabOp) (x : Word) (data : List Dword) (sub : BitVec 8) (hs : List PktHdr) (local_ : Nat), s.Inv → s.fabops = [o] → s.swappedOut o.tid = false →
    NoWatches s → (s.thread o.tid).spec = none →
    let gave := fun (r : FabResp) => (o.peer = s.ident.toNat → o.resp = some r ∧ hs = []) ∧
      (o.peer ≠ s.ident.toNat → o.resp = none ∧ hs.length = o.answers r ∧ hs.Pairwise (fun g h => g.port = h.port → g.ctr < h.ctr) ∧
        ∀ h ∈ hs, h ∉ s.early ∧ h.peer = o.peer ∧ s.fabKey o.peer = some h.key ∧ tget 0 s.lastCtr (streamOf h) < h.ctr)
    let ended := fun t : State => t.fabops = [] ∧ (t.thread o.tid).fabCnt = (s.thread o.tid).fabCnt - 1 ∧
      (∀ k, k ≠ o.tid → t.thread k = s.thread k) ∧ (∀ k, (t.core k).locks = (s.core k).locks.filter fun l => !(l.ser == o.id)) ∧
      t.owns = s.owns.filter fun x => !(x.ser == o.id)
    let at_ := Region.local (o.tid / 16) + (0xF5000 + 128 * (o.tid % 16))
    let told := fun (t : State) (answered : Bool) (sub : BitVec 8) => KeepsOutside s t at_ 128 ∧
      t.mem.read at_ 8 = ((s.thread o.tid).refSeq + 1).toNat * 2 ^ 48 + o.kind.code ∧ t.mem.read (at_ + 8) 8 = o.oper.toNat ∧
      t.mem.read (at_ + 16) 8 = (if answered then 2 ^ 32 + 1 else 2 ^ 48 + 1) ∧
      t.mem.read (at_ + 24) 8 = (if answered then sub.toNat * 2 ^ 24 + o.peer else 0) ∧
      match o.dest with
      | .scalar r _ _ => if r = 0 then (t.thread o.tid).errFab = true else (t.thread o.tid).sreg r = ⟨0, false, true, sub⟩
      | _ => (t.thread o.tid).errFab = true
    (gave (.ok data) → (o.kind = .put ∨ o.kind = .puts) →
      ∃ t, exec (.fabricResponse o.id ⟨.ok data, hs⟩) s = .next t ∧ ended t ∧ t.mem = s.mem ∧ SameRegs s t) ∧
    (gave (.ok data) → o.kind = .get → o.places = (List.range o.nw).map (fun k => .loc (o.tid / 16) (local_ + 8 * k)) →
      local_ % 8 = 0 → local_ + 8 * o.nw ≤ 2 ^ 20 → data.length = o.nw →
      (∀ k, k < o.nw → s.heldFor (.loc (o.tid / 16) (local_ + 8 * k)) 8 o.id = false) →
      ∃ t, exec (.fabricResponse o.id ⟨.ok data, hs⟩) s = .next t ∧ ended t ∧ SameRegs s t ∧
        KeepsOutside s t (Region.local (o.tid / 16) + local_) (8 * o.nw) ∧
        ∀ k, k < o.nw → t.mem.poisoned (Region.local (o.tid / 16) + local_ + 8 * k) = (data.getD k (0, false)).2 ∧
          ((data.getD k (0, false)).2 = false →
            t.mem.read (Region.local (o.tid / 16) + local_ + 8 * k) 8 = (data.getD k (0, false)).1.toNat)) ∧
    (∀ r w zx bad, gave (.ok [(x, bad)]) → o.kind = .radd → o.dest = .scalar r w zx →
      ∃ t, exec (.fabricResponse o.id ⟨.ok [(x, bad)], hs⟩) s = .next t ∧ ended t ∧ t.mem = s.mem ∧
        (t.thread o.tid).sreg r = (if r = 0 then Reg.zero else if bad then ⟨0, false, true, 0⟩ else ⟨x, false, false, 0⟩) ∧
        (r = 0 → bad = true → (t.thread o.tid).errFab = true) ∧
        ∀ q, q ≠ r → (t.thread o.tid).sreg q = (s.thread o.tid).sreg q) ∧
    ((o.kind = .put ∨ o.kind = .puts ∨ o.kind = .get ∨ o.kind = .radd) → o.peer < 4096 → s.recordHeld o.tid = false →
      (gave (.refused sub) → ∃ t, exec (.fabricResponse o.id ⟨.refused sub, hs⟩) s = .next t ∧ ended t ∧ told t true sub) ∧
      (o.resp = none → ∃ t, exec (.fabricTimeout o.id) s = .next t ∧ ended t ∧ told t false 6))

/-- Multicast replicas, acknowledgements, loads, and the exchange of capabilities (R424, R425, R428, R436, R437, R438,
R439, R440). For a valid, unsealed entry of which this module is a member with the capability, and a free, clean
place of one local memory: MULTICAST_REPLICA of a whole doubleword, of this module or in an authenticated packet,
writes it and acknowledges by the tree; a module that is no member answers 2 and a sealed entry 5.
MULTICAST_LOAD_COLLECT answers with the value. MULTICAST_ACK in an authenticated packet with every member positive
ends the store; with a negative one it writes a record and sets ERRST. MULTICAST_LOAD_RESULT writes the fold of the
members' values, in ascending index, to the destination; a refusal poisons it, and so does FABRIC_TIMEOUT.
CAPABILITY_EXCHANGE of a reachable or joining peer under its key enters REV and CAP and sets REACH. Authentication
of replicas, acknowledgements and load results as equality of keys is the choice of the model (log entry 11), and so
is that the last counter is kept per sender and port (log entry 28). -/
def Obligations.Multicast : Prop :=
  ∀ (s : State) (group core off w : Nat) (v : Word) (id : Nat) (o : FabOp) (f : Flight) (e : Elem) (vals : List (BitVec 64)) (sub : BitVec 8)
      (h : PktHdr),
    s.Inv → NoWatches s → s.incoming = [] → tget 0 s.lastCtr (streamOf h) < h.ctr →
    let m := tget (0, 0) s.mcast group
    let bytes := (List.range 8).map fun k => (8 * w + k, BitVec.ofNat 8 (v.toNat / 256 ^ k))
    let replica := fun (src : McastSrc) (q : McastReq) => Instr.multicastReplica q.group q.off src q.reqId q.data
    let collect := fun (src : McastSrc) (q : McastReq) => Instr.multicastLoadCollect q.group q.off src q.reqId
    let comes := fun (mk : McastSrc → McastReq → Instr) (kind : FabKind) (data : List (Nat × Byte)) (claim : State → Prop) (r : FabResp) =>
      let port := bits m.1.toNat 44 40
      let answered := fun (t : State) (reqId : Nat) => claim t ∧ t.threads = s.threads ∧ t.incoming = [] ∧
        t.outbox = s.outbox ++ [.tree group port (tget 0 s.portCtr port + 1) (s.groupKey group) (m.1.getLsbD 62) (.response reqId r)]
      (s.groupKey group = some h.key →
        ∃ t, exec (mk (.peer h) ⟨group, 8 * w, id, data⟩) s = .next t ∧ answered t id ∧ tget 0 t.lastCtr (streamOf h) = h.ctr) ∧
      (s.fabops = [o] → s.flights = [f] → o.kind = kind → o.group = group → o.resp = none → f.id = o.id → f.elems = [e] →
        e.place = .mcast group (8 * w) → e.lane = 0 → e.w = 8 → e.data = v.toNat →
        ∃ t, exec (mk .own ⟨group, 8 * w, o.id, data⟩) s = .next t ∧ answered t o.id ∧ t.fabops = [{ o with resp := some r }])
    (mcastValid m = true → m.1.getLsbD 61 = true → m.1.getLsbD 60 = false → off % 8 = 0 → 8 * w + 8 ≤ 2 ^ bits m.2.toNat 63 56 →
      (s.ownCap 3 = true → (∀ k, k < 8 → s.memberPlace m .store (8 * w + k) = some (.loc core (off + k))) →
        s.memberHeld m .store (8 * w :: bytes.map fun b => b.1) = false →
        comes replica .mstore bytes
          (fun t => t.mem.read (Region.local core + off) 8 = v.toNat ∧ KeepsOutside s t (Region.local core + off) 8) (.ok [])) ∧
      (∀ op fmt, s.ownCap 4 = true → mcastOp m.2 = some (op, fmt) → s.memberPlace m .load (8 * w) = some (.loc core off) →
        s.memberHeld m .load [8 * w] = false → s.mem.anyPoison (Region.local core + off) (fmtBytes fmt) = false →
        comes collect .mload [] (fun t => t.mem = s.mem)
          (.ok [(BitVec.ofNat 64 (s.mem.read (Region.local core + off) (fmtBytes fmt)), false)]))) ∧
    (mcastValid m = false ∨ m.1.getLsbD 61 = false → comes replica .mstore bytes (fun t => t.mem = s.mem) (.refused 2)) ∧
    (mcastValid m = true → m.1.getLsbD 61 = true → m.1.getLsbD 60 = true →
      comes replica .mstore bytes (fun t => t.mem = s.mem) (.refused 5)) ∧
    (s.fabops = [o] → s.flights = [f] → f.id = o.id → f.elems = [e] → f.orphan = false → f.path = false → e.poison = false →
      e.refused = none → s.swappedOut f.tid = false → s.swappedOut o.tid = false → o.resp = none → o.tid = f.tid →
      (s.thread f.tid).spec = none → s.groupKey o.group = some h.key →
      (o.kind = .mstore → f.kind = .store → f.dest = .none →
        (∃ t, exec (.multicastAck o.id ⟨o.group, o.mcount, 0⟩ [] h) s = .next t ∧ t.fabops = [] ∧ t.flights = [] ∧ t.mem = s.mem ∧
          (t.thread f.tid).stCnt = (s.thread f.tid).stCnt - 1 ∧ (t.thread f.tid).errSt = (s.thread f.tid).errSt) ∧
        (∀ peer, 0 < o.mcount → peer < 4096 → s.recordHeld o.tid = false →
          ∃ t, exec (.multicastAck o.id ⟨o.group, o.mcount - 1, 1⟩ [(peer, sub)] h) s = .next t ∧ t.fabops = [] ∧ t.flights = [] ∧
            (t.thread f.tid).errSt = true ∧
            t.mem.read (Region.local (o.tid / 16) + (0xF5000 + 128 * (o.tid % 16)) + 24) 8 = sub.toNat * 2 ^ 24 + peer)) ∧
      (∀ r x zx op fmt, o.kind = .mload → f.kind = .load → f.dest = .scalar r x zx → r ≠ 0 → e.laid = [] →
        mcastOp (tget (0, 0) s.mcast o.group).2 = some (op, fmt) → vals.length = o.mcount →
        (∃ t, exec (.multicastLoadResult o.id ⟨o.group, vals.map some, none⟩ h) s = .next t ∧ t.fabops = [] ∧ t.flights = [] ∧ t.mem = s.mem ∧
          (t.thread f.tid).sreg r =
            ⟨extend zx x (foldMembers op fmt (vals.map fun v => v.toNat % 256 ^ fmtBytes fmt)), false, false, 0⟩ ∧
          (t.thread f.tid).ldCnt = (s.thread f.tid).ldCnt - 1) ∧
        (∃ t, exec (.multicastLoadResult o.id ⟨o.group, vals.map some, some sub⟩ h) s = .next t ∧
          (t.thread f.tid).sreg r = ⟨0, false, true, sub⟩ ∧ t.mem = s.mem) ∧
        (∃ t, exec (.fabricTimeout o.id) s = .next t ∧ (t.thread f.tid).sreg r = ⟨0, false, true, 6⟩ ∧ t.mem = s.mem))) ∧
    (∀ rev cap, (tget 0 s.peers h.peer).getLsbD 63 = true → s.fabKey h.peer = some h.key →
      (s.joining = [h.peer] ∧ s.agrStale = false ∨ s.joining = [] ∧ (tget 0 s.peers h.peer).getLsbD 62 = true) →
      ∃ t, exec (.capabilityExchange h.peer rev cap h) s = .next t ∧ (tget 0 t.peers h.peer).getLsbD 62 = true ∧ t.joining = [] ∧
        (tget 0 t.peers h.peer).setWidth 16 = rev ++ cap ∧ t.outbox = s.outbox ∧ t.mem = s.mem)

/-- The tack instructions (R454, R455, R456, R457, R458, R459, R460, R461, R462, R463, R466). For every running
invocation: tk.send, tk.copy, tk.red, tk.sig (its own counter or a peer's) and tk.reds with good references enter an
operation among the 32 in flight and the hart goes on; with 32 in flight it holds. tk.recv and tk.recv.any take an
arrival and write its length or reference, or hold; in an image marked DET tk.recv.any ends the invocation with
STATUS 2. tk.wait goes on once the counter has reached the value, and holds before. tk.flush waits for every
operation. tk.done writes the completion word to DONEVA and the invoker's register and drops the invocation. A bad
reference ends the invocation with SUB 0x20, a sealed group with STATUS 4. -/
def Obligations.TackInstructions : Prop :=
  ∀ (s : State) (i : Invocation) (rest : List Invocation) (rs1 rs2 rd : RegNo), Runs s i rest → s.Inv →
    let q := s.curSeq
    let x := s.seq q
    let lenOf := fun (b c : Nat) => ((i.chunk b c).map (·.2)).getD 0
    let refs1 := i.ref (s.xv rs1) false
    let refs2 := i.ref (s.xv rs2) false
    let holds := fun (j : Instr) => exec j s = .next s
    let goes := fun (j : Instr) (r : Nat) (v : Word) (arrivals : List Arrival) =>
      ∃ t, exec j s = .next t ∧ HartGoes s t 4 [r] ∧ (t.seq q).xr r = (if r = 0 then 0 else v) ∧ (t.seq q).arrivals = arrivals ∧
        t.mem = s.mem ∧ t.threads = s.threads
    let enters := fun (j : Instr) (k : TackKind) =>
      (x.ops.length < 32 → ∃ t, exec j s = .next t ∧ HartGoes s t 4 [] ∧ (t.seq q).ops = x.ops ++ [⟨s.nextId, x.pc, k, false, false, none⟩] ∧
        t.due = s.due ++ [.tackDone q s.nextId] ∧ t.mem = s.mem ∧ t.threads = s.threads) ∧
      (32 ≤ x.ops.length → holds j)
    let ends := fun (j : Instr) (status : Nat) (sub : BitVec 8) (value : Nat) =>
      ∃ t, exec j s = .next t ∧ (t.seq q).fail = some (status, sub, BitVec.ofNat 32 value) ∧ (t.seq q).pc = x.pc ∧ t.mem = s.mem
    (∀ o b c, refs1 = some (o, b, c) →
      (∀ p pb pc, i.ref (s.xv rs2) true = some (p, pb, pc) → enters (.tkSend rs1 rs2) (.send b c p pb pc)) ∧
      (∀ o' xb xc, refs2 = some (o', xb, xc) → lenOf xb xc = lenOf b c →
        enters (.tkCopy rs1 rs2) (.copy b c xb xc) ∧
        ∀ op fmt, lenOf b c % fmtBytes fmt = 0 → enters (.tkRed op fmt rs1 rs2) (.red op fmt b c xb xc)) ∧
      (∀ op fmt, let e := tget (0, 0) s.mcast i.grp
        bits (i.word 3) 12 12 = 1 → mcastValid e = true → mcastOp e.2 = some (op, fmt) →
        (e.1.getLsbD 62 = false → enters (.tkReds op fmt rs1) (.reds op fmt b c)) ∧
        (e.1.getLsbD 62 = true → ends (.tkReds op fmt rs1) 4 0 i.grp)) ∧
      (⟨b, c, s.xv rs2⟩ ∈ x.arrivals →
        goes (.tkRecv rd rs1 rs2) rd.toNat (BitVec.ofNat 64 (lenOf b c)) (x.arrivals.erase ⟨b, c, s.xv rs2⟩)) ∧
      (⟨b, c, s.xv rs2⟩ ∉ x.arrivals → holds (.tkRecv rd rs1 rs2)) ∧
      (i.cntva b ≠ 0 → Area s i.core (i.counter b c) 8 →
        let now := s.mem.read (Region.local i.core + i.counter b c) 8
        ∃ t, exec (.tkWait rs1 rs2) s = .next t ∧ t.mem = s.mem ∧ t.threads = s.threads ∧ (t.seq q).xr = x.xr ∧
          (t.seq q).pc = (if s.xv rs2 ≤ now then x.pc + 4 else x.pc))) ∧
    (∀ p b c, i.ref (s.xv rs1) true = some (p, b, c) →
      (p ≠ i.index → enters (.tkSig rs1 rs2) (.sigRemote b c p (BitVec.ofNat 64 (s.xv rs2)))) ∧
      (p = i.index → i.cntva b ≠ 0 → enters (.tkSig rs1 rs2) (.sig b c (BitVec.ofNat 64 (s.xv rs2))))) ∧
    (∀ img, tfind x.slots i.slot = some img →
      (img.det = true → ends (.tkRecvAny rd rs1) 2 2 x.pc.toNat) ∧
      (img.det = false → bits (s.xv rs1) 60 32 = 0 → bits (s.xv rs1) 63 61 < i.nbuf →
        (∀ y, x.arrivals.find? (fun y => y.buf == bits (s.xv rs1) 63 61) = some y →
          goes (.tkRecvAny rd rs1) rd.toNat (BitVec.ofNat 64 (y.buf * 2 ^ 61 + y.sender * 2 ^ 48 + y.chunk)) (x.arrivals.erase y)) ∧
        ((∀ y ∈ x.arrivals, y.buf ≠ bits (s.xv rs1) 63 61) → holds (.tkRecvAny rd rs1)))) ∧
    (refs1 = none → ∀ j ∈ [Instr.tkSend rs1 rs2, .tkRecv rd rs1 rs2, .tkCopy rs1 rs2, .tkWait rs1 rs2, .tkRed .sum .f32 rs1 rs2,
      .tkReds .sum .f32 rs1], ends j 1 0x20 x.pc.toNat) ∧
    (x.ops = [] → goes .tkFlush 0 0 x.arrivals ∧
      (s.swappedOut i.tid = false → (i.doneva = 0 ∨ Area s i.core i.doneva 8) →
        let word := completion i 0 0 (BitVec.ofNat 32 (s.xv rs1))
        ∃ t, exec (.tkDone rs1) s = .next t ∧ (t.seq q).queue = rest ∧ (t.seq q).running = false ∧
          (i.reg ≠ 0 → (t.thread i.tid).sreg i.reg = ⟨BitVec.ofNat 64 word, false, false, 0⟩ ∧
            (t.thread i.tid).amoCnt = (s.thread i.tid).amoCnt - 1) ∧
          (i.doneva ≠ 0 → t.mem.read (Region.local i.core + i.doneva) 8 = word ∧ KeepsOutside s t (Region.local i.core + i.doneva) 8) ∧
          (i.doneva = 0 → t.mem = s.mem) ∧ t.due = s.due ++ (if rest = [] then [] else [.invoke q]))) ∧
    (x.ops ≠ [] → holds .tkFlush ∧ holds (.tkDone rs1))

/-- Operations of a sequencer, and what reaches one (R428, R434, R456, R457, R459, R460, R462, R466). For the one
operation in flight of a running invocation, on free, clean areas of the invoking core: TACK_OPERATION_PERFORMED
copies the chunk, folds the other chunk into it element by element, adds to its counter, or sends the chunk, the
signal or the values to reduce out of the module in packets by the port of the sequencer. In authenticated packets,
an answer that it landed ends it, the reduced values are written first, and a refusal ends the invocation with its
subcode. An answer "not ready" is kept, TACK_SEND_RETRY then sends again, and without one does nothing; a signal
whose earlier write or send was refused is dropped, and TACK_SEND_TIMEOUT ends the invocation with 6. CHUNK_ARRIVAL
and SIGNAL_ARRIVAL in authenticated packets write the chunk and enter it among the arrivals, or add to the counter,
and answer; with no such invocation they answer not ready. Authentication of chunks, signals and answers as equality
of keys is the choice of the model (log entry 11), and so is that the last counter is kept per sender and port (log
entry 28). -/
def Obligations.TackOperations : Prop :=
  ∀ (s : State) (q : Nat) (i : Invocation) (rest : List Invocation) (o : TackOpn) (h : PktHdr), s.Inv →
    Runs { s with curSeq := q } i rest → tget 0 s.lastCtr (streamOf h) < h.ctr →
    let x := s.seq q
    let at_ := fun (va : Nat) => Region.local i.core + va
    let words := fun (va n : Nat) => (List.range (n / 8)).map fun k => (BitVec.ofNat 64 (s.mem.read (at_ va + 8 * k) 8), false)
    let holds := fun (t : State) (va n : Nat) (ws : List (Word × Bool)) =>
      KeepsOutside s t (at_ va) n ∧ ∀ k, k < n / 8 → t.mem.poisoned (at_ va + 8 * k) = (ws.getD k (0, false)).2 ∧
        ((ws.getD k (0, false)).2 = false → t.mem.read (at_ va + 8 * k) 8 = ((ws.getD k (0, false)).1).toNat)
    let packet := fun (peer k : Nat) (b : Body) => Out.packet peer q (tget 0 s.portCtr q + BitVec.ofNat 64 (k + 1))
      (s.fabKey peer) ((tget 0 s.peers peer).getLsbD 61) b
    let numbered := fun (ws : List (Word × Bool)) => (packetParts 0 ws).zip (List.range (packets 0 ws.length))
    (x.ops = [o] →
      let ended := fun t : State => (t.seq q).ops = [] ∧ (t.seq q).fail = none ∧ t.threads = s.threads
      let fails := fun (j : Instr) (sub : BitVec 8) => ∃ t, exec j s = .next t ∧ (t.seq q).ops = [] ∧ t.mem = s.mem ∧
        (t.seq q).fail = some (1, sub, BitVec.ofNat 32 o.pc.toNat) ∧ t.due = s.due ++ [.invoke q]
      let leaves := fun (j : Instr) (again : Bool) (out : List Out) => ∃ t, exec j s = .next t ∧ t.mem = s.mem ∧
        t.outbox = s.outbox ++ out ∧ (t.seq q).ops = [{ o with sent := true, again := again }]
      let acts := Instr.tackOperationPerformed q o.id ⟨.landed, none, []⟩
      let again := Instr.tackSendRetry q o.id
      (o.again = false → exec again s = .next s) ∧
      (o.sent = false → x.cutOff i o = true → ∃ t, exec acts s = .next t ∧ ended t ∧ t.mem = s.mem ∧ t.outbox = s.outbox) ∧
      (∀ db dc sb sc da sa n, o.kind = .copy db dc sb sc → o.sent = false → i.chunk db dc = some (da, n) → i.chunk sb sc = some (sa, n) →
        Area s i.core da n → Area s i.core sa n → (da + n ≤ sa ∨ sa + n ≤ da) →
        ∃ t, exec acts s = .next t ∧ ended t ∧ holds t da n (words sa n)) ∧
      (∀ op fmt ab ac xb xc da sa n, o.kind = .red op fmt ab ac xb xc → o.sent = false → i.chunk ab ac = some (da, n) →
        i.chunk xb xc = some (sa, n) → Area s i.core da n → Area s i.core sa n → (da + n ≤ sa ∨ sa + n ≤ da) →
        ∃ t, exec acts s = .next t ∧ ended t ∧ KeepsOutside s t (at_ da) n ∧
          ∀ k, k < n / 8 → t.mem.read (at_ da + 8 * k) 8 =
            (redDword op fmt (s.mem.read (at_ da + 8 * k) 8, false) (s.mem.read (at_ sa + 8 * k) 8, false)).1 % 2 ^ 64) ∧
      (∀ b c inc, o.kind = .sig b c inc → o.sent = false → x.cutOff i o = false → Area s i.core (i.counter b c) 8 →
        ∃ t, exec acts s = .next t ∧ ended t ∧ KeepsOutside s t (at_ (i.counter b c)) 8 ∧
          t.mem.read (at_ (i.counter b c)) 8 = (s.mem.read (at_ (i.counter b c)) 8 + inc.toNat) % 2 ^ 64) ∧
      (∀ b c p pb pc va n, o.kind = .send b c p pb pc → i.chunk b c = some (va, n) → Area s i.core va n →
        let dest := peerPair (tget 0 x.peers p)
        dest.1 ≠ s.ident.toNat → s.reaches dest.1 = true →
        let out := (numbered (words va n)).map fun w =>
          packet dest.1 w.2 (.chunk dest.2 (BitVec.ofNat 16 i.tag) pb pc (8 * w.1.1) w.1.2)
        (o.sent = false → leaves acts o.again out) ∧ (o.again = true → leaves again false out)) ∧
      (∀ b c p inc, o.kind = .sigRemote b c p inc → x.cutOff i o = false →
        let dest := peerPair (tget 0 x.peers p)
        dest.1 ≠ s.ident.toNat → s.reaches dest.1 = true →
        let out := [packet dest.1 0 (.signal dest.2 (BitVec.ofNat 16 i.tag) b c inc)]
        (o.sent = false → leaves acts o.again out) ∧ (o.again = true → leaves again false out)) ∧
      (∀ op fmt b c va n, o.kind = .reds op fmt b c → i.chunk b c = some (va, n) → Area s i.core va n →
        (o.sent = false → leaves acts o.again ((numbered (words va n)).map fun w =>
          .tree i.grp q (tget 0 s.portCtr q + BitVec.ofNat 64 (w.2 + 1)) (s.groupKey i.grp) false (.reduce i.grp (8 * w.1.1) w.1.2))) ∧
        (∀ (data : List (Word × Bool)) (hs : List PktHdr), o.sent = true → n = 8 * data.length →
          hs.length = packets 0 data.length → (∀ g ∈ hs, s.groupKey i.grp = some g.key ∧ tget 0 s.lastCtr (streamOf g) < g.ctr) →
          hs.Pairwise (fun g h => streamOf g = streamOf h → g.ctr < h.ctr) →
          ∃ t, exec (.tackOperationPerformed q o.id ⟨.reduced data, some i.grp, hs⟩) s = .next t ∧ ended t ∧ holds t va n data)) ∧
      (∀ p, o.sent = true → ((∃ b c pb pc, o.kind = .send b c p pb pc) ∨ (∃ b c inc, o.kind = .sigRemote b c p inc)) →
        fails (.tackSendTimeout q o.id) 6 ∧
        (h.peer = (peerPair (tget 0 x.peers p)).1 → s.fabKey h.peer = some h.key →
          (∃ t, exec (.tackOperationPerformed q o.id ⟨.landed, none, [h]⟩) s = .next t ∧ ended t ∧ t.mem = s.mem) ∧
          (∃ t, exec (.tackOperationPerformed q o.id ⟨.notReady, none, [h]⟩) s = .next t ∧ (t.seq q).ops = [{ o with again := true }] ∧
            t.mem = s.mem ∧ t.outbox = s.outbox) ∧
          ∀ sub, fails (.tackOperationPerformed q o.id ⟨.refused sub, none, [h]⟩) sub))) ∧
    (∀ peerSeq (tag : BitVec 16) buf chunk sender va n (data : List (Word × Bool)) (hs : List PktHdr) (inc : Word),
      s.fabKey h.peer = some h.key → hs.length = packets 0 data.length →
      (∀ g ∈ hs, g.peer = h.peer ∧ g.key = h.key ∧ tget 0 s.lastCtr (streamOf g) < g.ctr) →
      hs.Pairwise (fun g h => g.port = h.port → g.ctr < h.ctr) →
      let reply := fun (r : TackResp) => s.outbox ++ [packet h.peer 0 (.chunkReply peerSeq r)]
      let chunkIn := Instr.chunkArrival q h.peer peerSeq tag buf chunk data hs
      let signalIn := Instr.signalArrival q h.peer peerSeq tag buf chunk inc h
      (tag.toNat = i.tag → x.senderOf (h.peer, peerSeq) = some sender → i.chunk buf chunk = some (va, n) →
        (n = 8 * data.length → x.arrivals.length < 64 → Area s i.core va n →
          ∃ t, exec chunkIn s = .next t ∧ t.outbox = reply .landed ∧ holds t va n data ∧
            (t.seq q).arrivals = x.arrivals ++ [⟨buf, chunk, sender⟩] ∧ t.threads = s.threads) ∧
        (i.cntva buf ≠ 0 → Area s i.core (i.counter buf chunk) 8 →
          ∃ t, exec signalIn s = .next t ∧ t.outbox = reply .landed ∧
            t.mem.read (at_ (i.counter buf chunk)) 8 = (s.mem.read (at_ (i.counter buf chunk)) 8 + inc.toNat) % 2 ^ 64 ∧
            KeepsOutside s t (at_ (i.counter buf chunk)) 8)) ∧
      (tag.toNat ≠ i.tag →
        (∃ t, exec chunkIn s = .next t ∧ t.outbox = reply .notReady ∧ t.mem = s.mem) ∧
        (∃ t, exec signalIn s = .next t ∧ t.outbox = reply .notReady ∧ t.mem = s.mem)))

/-- coll enters an invocation, and it starts or ends (R446, R449, R450, R451, R452, R453, R466). For every ready thread
with nothing under way whose paddock was given the sequencer, a loaded program slot, a block in the private alias
that passes R452, and fewer than four invocations queued, coll answers a next state in which the invocation stands
last in the queue and d is pending. INVOCATION_START of the head with a table of members in the private alias that
passes R453 gives the hart its entry address, its four arguments and the block at 0x3E00, and keeps the table; a bad
entry ends the invocation with STATUS 3. An invocation that is to end with its operations over gives its completion
word and leaves the queue. -/
def Obligations.Invocations : Prop :=
  ∀ (s : State) (p : PredNo) (d a b : RegNo) (q : Nat) (i : Invocation) (rest : List Invocation) (img : TackImage), s.Inv → q < 32 →
    (Ready s p [.s a.toNat, .s b.toNat] [.s d.toNat] → Settled s →
      let sel := (s.sv b).toNat
      let at_ := (s.sv a).toNat
      let word := fun k => s.mem.read (Region.local s.here + (at_ + 8 * k)) 8
      let n := 8 + 4 * bits (word 0) 27 24
      let ws := (List.range n).map word
      bits sel 7 5 = 0 → bits sel 63 12 = 0 → bits sel 4 0 = q → s.seqGiven s.here q = true →
      tfind (s.seq q).slots (bits sel 11 8) = some img → at_ % 64 = 0 → (∀ k, k < n → Reaches s (at_ + 8 * k) 8) → blockOk ws = true →
      img.reds = false → (s.seq q).queue.length < 4 → s.th.amoCnt < 16 →
        ∃ t, exec (.coll p d a b) s = .next t ∧ Advances s t 4 ∧ t.mem = s.mem ∧ t.due = s.due ++ [.invoke q] ∧
          (t.seq q).queue = (s.seq q).queue ++ [⟨s.cur, d.toNat, bits sel 11 8, ws.map (BitVec.ofNat 64)⟩] ∧
          (d ≠ 0 → t.th.pending (.s d.toNat) = true ∧ t.th.amoCnt = s.th.amoCnt + 1) ∧
          (∀ r, r ≠ d.toNat → t.th.sreg r = s.th.sreg r) ∧ (∀ k, k ≠ s.cur → t.thread k = s.thread k)) ∧
    ((s.seq q).queue = i :: rest → (s.seq q).running = false → (s.seq q).suspended = false → tfind (s.seq q).slots i.slot = some img →
      i.block.length ≤ 64 → i.core < 2048 →
      let va := bits (i.word 2) 47 0
      let table := (List.range i.count).map fun k => BitVec.ofNat 64 (s.mem.read (Region.local i.core + va + 8 * k) 8)
      Area s i.core va (8 * i.count) →
      (entryFault (s.ident.toNat, q) i.index [] 0 table = none → s.peerFault img i.index 0 table = none →
        ∃ t, exec (.invocationStart q) s = .next t ∧ (t.seq q).running = true ∧ (t.seq q).fail = none ∧
          (t.seq q).pc = BitVec.ofNat 64 img.entry ∧ (t.seq q).xr 10 = 0x3E00 ∧ (t.seq q).xr 11 = BitVec.ofNat 64 i.index ∧
          (t.seq q).xr 12 = BitVec.ofNat 64 i.count ∧ (t.seq q).xr 13 = BitVec.ofNat 64 i.tag ∧
          (∀ k, k < i.count → tget 0 (t.seq q).peers k = table.getD k 0) ∧
          (∀ k, k < i.block.length → t.mem.read (Region.seq q + 0x3E00 + 8 * k) 8 = (i.block.getD k 0).toNat) ∧
          KeepsOutside s t (Region.seq q + 0x3E00) 512 ∧ t.threads = s.threads) ∧
      (∀ m, entryFault (s.ident.toNat, q) i.index [] 0 table = some m →
        ∃ t, exec (.invocationStart q) s = .next t ∧ (t.seq q).fail = some (3, 2, BitVec.ofNat 32 m) ∧ t.due = s.due ++ [.invoke q])) ∧
    (∀ status sub value, (s.seq q).queue = i :: rest → (s.seq q).running = true → (s.seq q).fail = some (status, sub, value) →
      (s.seq q).suspended = false → (s.seq q).ops = [] → i.doneva = 0 → s.swappedOut i.tid = false →
      ∃ t, exec (.invocationStart q) s = .next t ∧ (t.seq q).queue = rest ∧ (t.seq q).running = false ∧ t.mem = s.mem ∧
        (i.reg ≠ 0 → (t.thread i.tid).sreg i.reg = ⟨BitVec.ofNat 64 (completion i status sub value), false, false, 0⟩ ∧
          (t.thread i.tid).amoCnt = (s.thread i.tid).amoCnt - 1))

/-- RISC-V instructions of a sequencer (R446, R447, R466). For every running invocation, the word of each of these RV64
instructions, written out from its fields, acts on the hart and on nothing else: addi, add, sub, mul, lui, jal, beq,
ld and sd within the image; ecall and the word 0 are no instruction of tack code and end the invocation with STATUS
2. (The RISC-V meanings are the model's own, log entry 24: R446 names the extensions only.) -/
def Obligations.RiscvInstructions : Prop :=
  ∀ (s : State) (i : Invocation) (rest : List Invocation) (img : TackImage) (imm : BitVec 12) (up : BitVec 20) (rd rs1 rs2 : RegNo),
    Runs s i rest → s.Inv →
    let q := s.curSeq
    let x := s.seq q
    let pc := x.pc
    let a := x.xr rs1.toNat
    let b := x.xr rs2.toNat
    let rType := fun (f7 : BitVec 7) (f3 : BitVec 3) (op : BitVec 7) => (f7 ++ rs2 ++ rs1 ++ f3 ++ rd ++ op : BitVec 32)
    let iType := fun (f3 : BitVec 3) (op : BitVec 7) => (imm ++ rs1 ++ f3 ++ rd ++ op : BitVec 32)
    let sType := fun (f3 : BitVec 3) (op : BitVec 7) =>
      (imm.extractLsb' 5 7 ++ rs2 ++ rs1 ++ f3 ++ imm.extractLsb' 0 5 ++ op : BitVec 32)
    let moves := fun (w : BitVec 32) (target : Word) (r : Nat) (v : Word) =>
      ∃ t, exec (.sequencerRv64Instruction w) s = .next t ∧ (t.seq q).pc = target ∧ (t.seq q).instret = x.instret + 1 ∧
        (t.seq q).xr r = (if r = 0 then 0 else v) ∧ (∀ k, k ≠ r → (t.seq q).xr k = x.xr k) ∧ (t.seq q).f = x.f ∧ (t.seq q).v = x.v ∧
        t.mem = s.mem ∧ t.threads = s.threads ∧ ∀ k, k ≠ q → t.seq k = s.seq k
    moves (iType 0 0x13) (pc + 4) rd.toNat (a + imm.signExtend 64) ∧
    moves (rType 0 0 0x33) (pc + 4) rd.toNat (a + b) ∧
    moves (rType 0x20 0 0x33) (pc + 4) rd.toNat (a - b) ∧
    moves (rType 1 0 0x33) (pc + 4) rd.toNat (a * b) ∧
    moves (up ++ rd ++ (0x37 : BitVec 7)) (pc + 4) rd.toNat ((up ++ (0 : BitVec 12) : BitVec 32).signExtend 64) ∧
    moves (0#1 ++ 4#10 ++ 0#1 ++ 0#8 ++ rd ++ 0x6F#7) (pc + 8) rd.toNat (pc + 4) ∧
    moves (0#7 ++ rs2 ++ rs1 ++ 0#3 ++ 8#5 ++ 0x63#7) (if a = b then pc + 8 else pc + 4) 0 0 ∧
    (tfind x.slots i.slot = some img →
      let va := (a + imm.signExtend 64).toNat
      va % 8 = 0 → img.load ≤ va → va + 8 ≤ img.load + img.size →
      moves (iType 3 0x03) (pc + 4) rd.toNat (BitVec.ofNat 64 (s.mem.read (Region.seq q + va) 8)) ∧
      ∃ t, exec (.sequencerRv64Instruction (sType 3 0x23)) s = .next t ∧ t.mem.read (Region.seq q + va) 8 = b.toNat ∧
        KeepsOutside s t (Region.seq q + va) 8 ∧ HartGoes s t 4 []) ∧
    (∀ w ∈ [(0 : BitVec 32), 0x00000073], ∃ t cause, exec (.sequencerRv64Instruction w) s = .next t ∧
      (t.seq q).fail = some (2, cause, BitVec.ofNat 32 pc.toNat) ∧ t.mem = s.mem)

/-- Words written out from the encodings decode to their instructions (R111, R113, R114, R122, R123, R129, R132, R133,
R134, R163, R454). The seven worked encodings of the SYS family, a word of each layout of the core (R, I, S, U, B,
both forms of L, and C), one lane form and two tack words, written out bit by bit from the layouts, decode to the
instructions they stand for; a zero halfword, a reserved major, and a shift by an immediate with a reserved bit, a
non-zero b field or an amount of 32 in its .w form are refused by name. -/
def Obligations.DecodeWords : Prop :=
  (decode32 0x00200037 = .ok (.trap 0) ∧ decode32 0x00400037 = .ok (.tret 0) ∧ decode32 0x00600337 = .ok (.srd 0 12 0) ∧
      decode32 0x00802D37 = .ok (.swr 0 20 5) ∧ decode32 0x00A00037 = .ok (.ctxs 0 0) ∧ decode32 0x00C00077 = .ok (.ctxr 0 true 0) ∧
      decode32 0x00ED6037 = .ok (.tinv 0 12 13)) ∧
    decode32 (0#2 ++ 2#2 ++ 0#1 ++ 32#6 ++ 0#5 ++ 19#5 ++ 19#5 ++ 5#5 ++ 1#1) = .ok (.sari false 32 19 19) ∧
    decode32 (0#2 ++ 2#2 ++ 1#1 ++ 5#6 ++ 0#5 ++ 13#5 ++ 12#5 ++ 5#5 ++ 1#1) = .ok (.sari true 5 12 13) ∧
    decode32 (0xFFC#12 ++ 1#4 ++ 0#5 ++ 12#5 ++ 9#5 ++ 1#1) = .ok (.bne 12 0 0xFFC) ∧
    decode32 (0#1 ++ 10#10 ++ 300#15 ++ 12#5 ++ 1#1) = .ok (.loopi 10 300) ∧
    decode32 (1#1 ++ 10#10 ++ 2#5 ++ 4#5 ++ 17#5 ++ 12#5 ++ 1#1) = .ok (.loops 10 2 17 4) ∧
    decode32 (1#1 ++ 12#11 ++ 0#1 ++ 0#1 ++ 0#1 ++ 5#6 ++ 2#3 ++ 0#2 ++ 22#5 ++ 1#1) = .ok (.cbrAll 12 false 5 2 0) ∧
    decode32 (1#1 ++ 0x7F8#11 ++ 0#1 ++ 1#1 ++ 1#1 ++ 0#6 ++ 3#3 ++ 1#2 ++ 22#5 ++ 1#1) = .ok (.cbrAny 0x7F8 true 0 3 1) ∧
    decode32 (1#2 ++ 2#2 ++ 0#1 ++ 32#6 ++ 0#5 ++ 19#5 ++ 19#5 ++ 5#5 ++ 1#1) = .error .reservedBit ∧
    decode32 (0#2 ++ 2#2 ++ 0#1 ++ 32#6 ++ 1#5 ++ 19#5 ++ 19#5 ++ 5#5 ++ 1#1) = .error .reservedBit ∧
    decode32 (0#2 ++ 2#2 ++ 1#1 ++ 32#6 ++ 0#5 ++ 13#5 ++ 12#5 ++ 5#5 ++ 1#1) = .error .operandLimit ∧
    decode32 (1#3 ++ 0#1 ++ 0#1 ++ 1#6 ++ 5#5 ++ 4#5 ++ 3#5 ++ 0#5 ++ 1#1) = .ok (.sub false 1 3 4 5) ∧
    decode32 (0xFFFF#16 ++ 4#5 ++ 3#5 ++ 1#5 ++ 1#1) = .ok (.addi 3 4 0xFFFF) ∧
    decode32 (0x12345#21 ++ 3#5 ++ 7#5 ++ 1#1) = .ok (.lhi 3 0x12345) ∧
    decode32 (2#3 ++ 0xFC#8 ++ 0#2 ++ 0#1 ++ 2#2 ++ 4#5 ++ 3#5 ++ 13#5 ++ 1#1) = .ok (.ld 2 0xFC .page false .word 3 4) ∧
    decode16 (3#3 ++ 5#4 ++ 6#4 ++ 1#4 ++ 0#1) = .ok (.vsubN 3 6 5) ∧
    decodeTack (0#7 ++ 2#5 ++ 1#5 ++ 0#3 ++ 0#5 ++ 0x0B#7) = .ok (.tkSend 1 2) ∧
    decodeTack (0#7 ++ 0#5 ++ 0#5 ++ 6#3 ++ 0#5 ++ 0x0B#7) = .ok .tkFlush ∧
    decode16 0 = .error .zeroHalfword ∧ decode32 (0#26 ++ 31#5 ++ 1#1) = .error .reservedMajor

/-- Decoding an encoded instruction gives it back (R109, R111, R113, R114, R115, R133, R134, R454). For every well-
formed instruction that is no event, with every operand at every value: the bytes of a core instruction decode to it
and its length, and the word of a tack instruction decodes to it. -/
def Obligations.EncodingsRoundTrip : Prop :=
  ∀ i : Instr, i.wf = true → i.isEvent = false →
    if i.isTack then decodeTack (encode i) = .ok i else decodeBytes (encodeBytes i) = .ok (i, i.len)

/-- A word that decodes is the encoding of its instruction (R111, R113, R114, R115, R133, R134, R454). For every word:
where the decoder of 32-bit instructions, of lane forms or of tack words gives an instruction, it is well formed and
its encoding is that word; so no two words decode to one instruction, and every reserved bit is checked. -/
def Obligations.WordsHaveOneMeaning : Prop :=
  ∀ (x : BitVec 32) (h : BitVec 16) (i : Instr), x.getLsbD 0 = true → h.getLsbD 0 = false →
    (decode32 x = .ok i → i.wf = true ∧ i.isEvent = false ∧ i.isTack = false ∧ i.isLane = false ∧ encode32 i = x) ∧
    (decode16 h = .ok i → i.wf = true ∧ i.isLane = true ∧ encode16 i = h) ∧
    (decodeTack x = .ok i → i.wf = true ∧ i.isTack = true ∧ encodeTack i = x)

/-- A step runs the decoded instruction (R29, R109, R110, R116, R144, R446). Where the agenda gives the turn to a core,
the slot of its next owned cycle is ready with no interrupt, fault or breakpoint due, and the clean bytes at its pc
below XBOUND decode to i, step is exec of i at that state with the slot current, its bubbles counted before and its
cycle after. The same where the slot holds i from an earlier turn: it is not fetched again. An instruction that
leaves its slot waiting at the same pc is held for the next turn. Where the agenda gives it to a sequencer that
runs, step is exec of the tack instruction its word decodes to, or of the RISC-V instruction. Where the agenda gives
it to an event, step is exec of the event. The order of turns by the agenda (log entry 2), that a waiting
instruction is held and tried again (log entry 8), and that it keeps the encoding fetched (log entry 15) are choices
of the model. -/
def Obligations.StepRunsDecoded : Prop :=
  ∀ (s : State) (rest : List Turn) (c q k : Nat) (i : Instr) (w : BitVec 32) (n : Invocation), s.ready = true →
    (s.agenda = .core c :: rest → s.bubbles c = some k →
      let tid := c * 16 + ((s.core c).cycle.toNat + k) % 16
      let t := s.thread tid
      let bytes := s.mem.bytes (Region.local c + t.pc.toNat) i.len
      let run := andThen (runInstr i { ({ s with agenda := rest } : State).tick c k with cur := tid }) fun u => u.tick c 1
      t.irqDue = none → t.wait ≠ some .parked → t.chain = [] → t.diverge = none → t.held = false →
      (t.ir = some i → step s = run) ∧
      (t.ir = none → t.atBreak = false → t.pc.toNat + i.len ≤ 2 ^ 20 → t.pc.toNat + i.len ≤ (s.core c).xbound.toNat → t.pc.toNat % 2 = 0 →
      s.mem.anyPoison (Region.local c + t.pc.toNat) i.len = false → s.heldAt (.loc c t.pc.toNat) i.len = false →
        decodeBytes bytes = .ok (i, i.len) → step s = run)) ∧
    (∀ u : State, runInstr i u = andThen (exec i u) fun v =>
      if v.th.state = .waiting ∧ v.th.wait ≠ some .parked ∧ v.th.pc = u.th.pc then
        { v with threads := tset v.threads v.cur { v.th with ir := some i } }
      else v) ∧
    (s.agenda = .seq q :: rest → (s.seq q).queue.head? = some n → (s.seq q).running = true → (s.seq q).suspended = false →
      (s.seq q).fail = none → s.seqFetch q n = some w →
      step s = match decodeTack w with
        | .ok j => exec j { s with agenda := rest, curSeq := q }
        | .error _ => exec (.sequencerRv64Instruction w) { s with agenda := rest, curSeq := q }) ∧
    (s.agenda = .event i :: rest → step s = exec i { s with agenda := rest })

/-- Every step keeps the canonical form of memory (R3, R204, R293). For every state whose memory has the canonical form
(bytes by rising place, none blank, poisoned words rising), a step that answers a next state leaves a memory of that
form, so that equal memories are equal data. (The form is the model's own; the rules cited say what a write leaves.) -/
def Obligations.StepKeepsMemoryCanonical : Prop :=
  ∀ s t : State, s.Inv → step s = .next t → t.Inv

/-- No state stops the machine (R115, R116, R258, R264, R266, R466). For every state, reachable or not, step answers a
next state: no instruction, event, fetch, exception or host command ends the run in a fault or a refusal. That an
event of the table in a state in which the spec does not let it happen answers the same state is the choice of the
model (log entry 7). -/
def Obligations.StepAlwaysGoesOn : Prop :=
  ∀ s : State, ∃ t, step s = .next t

/-- What reset leaves (R41, R49, R144, R223, R488). The state after reset has a canonical memory that lists nothing, no
agenda and nothing owed, the module not ready, every slot idle with every register zero, every core with XBOUND and
OVEC zero and empty mailboxes, every feed bin unarmed with FBMIN and FBPART 1, and no key, peer, paddock, group or
sequencer at work; the first step boots it. The first step that boots (log entry 3), the empty memory that lists
nothing (log entry 5) and every reset value the spec does not give (log entry 6) are choices of the model. -/
def Obligations.ResetState : Prop :=
  State.reset.Inv ∧ State.reset.mem.cells = [] ∧ State.reset.mem.poison = [] ∧ State.reset.agenda = [] ∧ State.reset.due = [] ∧
    State.reset.ready = false ∧ State.reset.flights = [] ∧ State.reset.fabops = [] ∧ State.reset.groups = [] ∧
    (∀ k, State.reset.thread k = Thread.idle) ∧ (∀ c, State.reset.core c = Core.zero) ∧
    (∀ q, State.reset.seq q = Sequencer.zero) ∧ (∀ b, tget Bin.zero State.reset.bins b = ⟨0, 0, 0, 1, 1, false⟩) ∧
    (∀ r, Thread.idle.sreg r = Reg.zero) ∧ (∀ r, Thread.idle.vreg r = VReg.zero) ∧ (∀ r, 0 < r → Thread.idle.pred r = 0) ∧
    step State.reset = exec (.moduleReset true) State.reset
end

