-- ==== Sys2Proof/Laws/State.lean ====
section
/-! SUPPORT. What each named update of the state leaves alone and what it changes, field by field. -/

namespace Sys2Proof.Machine

/-! ## `State.modCore` -/

@[simp] theorem State.modCore_mem (s : State) (c : Nat) (f : Core → Core) : (s.modCore c f).mem = s.mem := rfl
@[simp] theorem State.modCore_hbmTag (s : State) (c : Nat) (f : Core → Core) : (s.modCore c f).hbmTag = s.hbmTag := rfl
@[simp] theorem State.modCore_lines (s : State) (c : Nat) (f : Core → Core) : (s.modCore c f).lines = s.lines := rfl
@[simp] theorem State.modCore_cores (s : State) (c : Nat) (f : Core → Core) : (s.modCore c f).cores = tmod Core.zero s.cores c f := rfl
@[simp] theorem State.modCore_threads (s : State) (c : Nat) (f : Core → Core) : (s.modCore c f).threads = s.threads := rfl
@[simp] theorem State.modCore_shCores (s : State) (c : Nat) (f : Core → Core) : (s.modCore c f).shCores = s.shCores := rfl
@[simp] theorem State.modCore_shThreads (s : State) (c : Nat) (f : Core → Core) : (s.modCore c f).shThreads = s.shThreads := rfl
@[simp] theorem State.modCore_bins (s : State) (c : Nat) (f : Core → Core) : (s.modCore c f).bins = s.bins := rfl
@[simp] theorem State.modCore_hashgrp (s : State) (c : Nat) (f : Core → Core) : (s.modCore c f).hashgrp = s.hashgrp := rfl
@[simp] theorem State.modCore_mkeys (s : State) (c : Nat) (f : Core → Core) : (s.modCore c f).mkeys = s.mkeys := rfl
@[simp] theorem State.modCore_fkeys (s : State) (c : Nat) (f : Core → Core) : (s.modCore c f).fkeys = s.fkeys := rfl
@[simp] theorem State.modCore_agrKey (s : State) (c : Nat) (f : Core → Core) : (s.modCore c f).agrKey = s.agrKey := rfl
@[simp] theorem State.modCore_agrStale (s : State) (c : Nat) (f : Core → Core) : (s.modCore c f).agrStale = s.agrStale := rfl
@[simp] theorem State.modCore_peers (s : State) (c : Nat) (f : Core → Core) : (s.modCore c f).peers = s.peers := rfl
@[simp] theorem State.modCore_joining (s : State) (c : Nat) (f : Core → Core) : (s.modCore c f).joining = s.joining := rfl
@[simp] theorem State.modCore_mcast (s : State) (c : Nat) (f : Core → Core) : (s.modCore c f).mcast = s.mcast := rfl
@[simp] theorem State.modCore_portCtr (s : State) (c : Nat) (f : Core → Core) : (s.modCore c f).portCtr = s.portCtr := rfl
@[simp] theorem State.modCore_portAgr (s : State) (c : Nat) (f : Core → Core) : (s.modCore c f).portAgr = s.portAgr := rfl
@[simp] theorem State.modCore_lastCtr (s : State) (c : Nat) (f : Core → Core) : (s.modCore c f).lastCtr = s.lastCtr := rfl
@[simp] theorem State.modCore_lastAgr (s : State) (c : Nat) (f : Core → Core) : (s.modCore c f).lastAgr = s.lastAgr := rfl
@[simp] theorem State.modCore_early (s : State) (c : Nat) (f : Core → Core) : (s.modCore c f).early = s.early := rfl
@[simp] theorem State.modCore_paddocks (s : State) (c : Nat) (f : Core → Core) : (s.modCore c f).paddocks = s.paddocks := rfl
@[simp] theorem State.modCore_groups (s : State) (c : Nat) (f : Core → Core) : (s.modCore c f).groups = s.groups := rfl
@[simp] theorem State.modCore_agreements (s : State) (c : Nat) (f : Core → Core) : (s.modCore c f).agreements = s.agreements := rfl
@[simp] theorem State.modCore_flights (s : State) (c : Nat) (f : Core → Core) : (s.modCore c f).flights = s.flights := rfl
@[simp] theorem State.modCore_packets (s : State) (c : Nat) (f : Core → Core) : (s.modCore c f).packets = s.packets := rfl
@[simp] theorem State.modCore_fabops (s : State) (c : Nat) (f : Core → Core) : (s.modCore c f).fabops = s.fabops := rfl
@[simp] theorem State.modCore_incoming (s : State) (c : Nat) (f : Core → Core) : (s.modCore c f).incoming = s.incoming := rfl
@[simp] theorem State.modCore_owns (s : State) (c : Nat) (f : Core → Core) : (s.modCore c f).owns = s.owns := rfl
@[simp] theorem State.modCore_satisfied (s : State) (c : Nat) (f : Core → Core) : (s.modCore c f).satisfied = s.satisfied := rfl
@[simp] theorem State.modCore_walks (s : State) (c : Nat) (f : Core → Core) : (s.modCore c f).walks = s.walks := rfl
@[simp] theorem State.modCore_probes (s : State) (c : Nat) (f : Core → Core) : (s.modCore c f).probes = s.probes := rfl
@[simp] theorem State.modCore_tinvs (s : State) (c : Nat) (f : Core → Core) : (s.modCore c f).tinvs = s.tinvs := rfl
@[simp] theorem State.modCore_seqs (s : State) (c : Nat) (f : Core → Core) : (s.modCore c f).seqs = s.seqs := rfl
@[simp] theorem State.modCore_ident (s : State) (c : Nat) (f : Core → Core) : (s.modCore c f).ident = s.ident := rfl
@[simp] theorem State.modCore_ready (s : State) (c : Nat) (f : Core → Core) : (s.modCore c f).ready = s.ready := rfl
@[simp] theorem State.modCore_recovery (s : State) (c : Nat) (f : Core → Core) : (s.modCore c f).recovery = s.recovery := rfl
@[simp] theorem State.modCore_nested (s : State) (c : Nat) (f : Core → Core) : (s.modCore c f).nested = s.nested := rfl
@[simp] theorem State.modCore_lognew (s : State) (c : Nat) (f : Core → Core) : (s.modCore c f).lognew = s.lognew := rfl
@[simp] theorem State.modCore_w4base (s : State) (c : Nat) (f : Core → Core) : (s.modCore c f).w4base = s.w4base := rfl
@[simp] theorem State.modCore_logpage (s : State) (c : Nat) (f : Core → Core) : (s.modCore c f).logpage = s.logpage := rfl
@[simp] theorem State.modCore_loghead (s : State) (c : Nat) (f : Core → Core) : (s.modCore c f).loghead = s.loghead := rfl
@[simp] theorem State.modCore_cmd (s : State) (c : Nat) (f : Core → Core) : (s.modCore c f).cmd = s.cmd := rfl
@[simp] theorem State.modCore_cmdState (s : State) (c : Nat) (f : Core → Core) : (s.modCore c f).cmdState = s.cmdState := rfl
@[simp] theorem State.modCore_cmdCode (s : State) (c : Nat) (f : Core → Core) : (s.modCore c f).cmdCode = s.cmdCode := rfl
@[simp] theorem State.modCore_ingress (s : State) (c : Nat) (f : Core → Core) : (s.modCore c f).ingress = s.ingress := rfl
@[simp] theorem State.modCore_accept (s : State) (c : Nat) (f : Core → Core) : (s.modCore c f).accept = s.accept := rfl
@[simp] theorem State.modCore_spreads (s : State) (c : Nat) (f : Core → Core) : (s.modCore c f).spreads = s.spreads := rfl
@[simp] theorem State.modCore_posted (s : State) (c : Nat) (f : Core → Core) : (s.modCore c f).posted = s.posted := rfl
@[simp] theorem State.modCore_log (s : State) (c : Nat) (f : Core → Core) : (s.modCore c f).log = s.log := rfl
@[simp] theorem State.modCore_flashLog (s : State) (c : Nat) (f : Core → Core) : (s.modCore c f).flashLog = s.flashLog := rfl
@[simp] theorem State.modCore_isles (s : State) (c : Nat) (f : Core → Core) : (s.modCore c f).isles = s.isles := rfl
@[simp] theorem State.modCore_flash (s : State) (c : Nat) (f : Core → Core) : (s.modCore c f).flash = s.flash := rfl
@[simp] theorem State.modCore_measure (s : State) (c : Nat) (f : Core → Core) : (s.modCore c f).measure = s.measure := rfl
@[simp] theorem State.modCore_agenda (s : State) (c : Nat) (f : Core → Core) : (s.modCore c f).agenda = s.agenda := rfl
@[simp] theorem State.modCore_due (s : State) (c : Nat) (f : Core → Core) : (s.modCore c f).due = s.due := rfl
@[simp] theorem State.modCore_outbox (s : State) (c : Nat) (f : Core → Core) : (s.modCore c f).outbox = s.outbox := rfl
@[simp] theorem State.modCore_oracle (s : State) (c : Nat) (f : Core → Core) : (s.modCore c f).oracle = s.oracle := rfl
@[simp] theorem State.modCore_nextId (s : State) (c : Nat) (f : Core → Core) : (s.modCore c f).nextId = s.nextId := rfl
@[simp] theorem State.modCore_cur (s : State) (c : Nat) (f : Core → Core) : (s.modCore c f).cur = s.cur := rfl
@[simp] theorem State.modCore_curSeq (s : State) (c : Nat) (f : Core → Core) : (s.modCore c f).curSeq = s.curSeq := rfl
@[simp] theorem State.modCore_rot (s : State) (c : Nat) (f : Core → Core) : (s.modCore c f).rot = s.rot := rfl
@[simp] theorem State.modCore_netTurn (s : State) (c : Nat) (f : Core → Core) : (s.modCore c f).netTurn = s.netTurn := rfl

/-! ## `State.modThread` -/

@[simp] theorem State.modThread_mem (s : State) (k : Nat) (f : Thread → Thread) : (s.modThread k f).mem = s.mem := rfl
@[simp] theorem State.modThread_hbmTag (s : State) (k : Nat) (f : Thread → Thread) : (s.modThread k f).hbmTag = s.hbmTag := rfl
@[simp] theorem State.modThread_lines (s : State) (k : Nat) (f : Thread → Thread) : (s.modThread k f).lines = s.lines := rfl
@[simp] theorem State.modThread_cores (s : State) (k : Nat) (f : Thread → Thread) : (s.modThread k f).cores = s.cores := rfl
@[simp] theorem State.modThread_threads (s : State) (k : Nat) (f : Thread → Thread) : (s.modThread k f).threads = tmod Thread.idle s.threads k f := rfl
@[simp] theorem State.modThread_shCores (s : State) (k : Nat) (f : Thread → Thread) : (s.modThread k f).shCores = s.shCores := rfl
@[simp] theorem State.modThread_shThreads (s : State) (k : Nat) (f : Thread → Thread) : (s.modThread k f).shThreads = s.shThreads := rfl
@[simp] theorem State.modThread_bins (s : State) (k : Nat) (f : Thread → Thread) : (s.modThread k f).bins = s.bins := rfl
@[simp] theorem State.modThread_hashgrp (s : State) (k : Nat) (f : Thread → Thread) : (s.modThread k f).hashgrp = s.hashgrp := rfl
@[simp] theorem State.modThread_mkeys (s : State) (k : Nat) (f : Thread → Thread) : (s.modThread k f).mkeys = s.mkeys := rfl
@[simp] theorem State.modThread_fkeys (s : State) (k : Nat) (f : Thread → Thread) : (s.modThread k f).fkeys = s.fkeys := rfl
@[simp] theorem State.modThread_agrKey (s : State) (k : Nat) (f : Thread → Thread) : (s.modThread k f).agrKey = s.agrKey := rfl
@[simp] theorem State.modThread_agrStale (s : State) (k : Nat) (f : Thread → Thread) : (s.modThread k f).agrStale = s.agrStale := rfl
@[simp] theorem State.modThread_peers (s : State) (k : Nat) (f : Thread → Thread) : (s.modThread k f).peers = s.peers := rfl
@[simp] theorem State.modThread_joining (s : State) (k : Nat) (f : Thread → Thread) : (s.modThread k f).joining = s.joining := rfl
@[simp] theorem State.modThread_mcast (s : State) (k : Nat) (f : Thread → Thread) : (s.modThread k f).mcast = s.mcast := rfl
@[simp] theorem State.modThread_portCtr (s : State) (k : Nat) (f : Thread → Thread) : (s.modThread k f).portCtr = s.portCtr := rfl
@[simp] theorem State.modThread_portAgr (s : State) (k : Nat) (f : Thread → Thread) : (s.modThread k f).portAgr = s.portAgr := rfl
@[simp] theorem State.modThread_lastCtr (s : State) (k : Nat) (f : Thread → Thread) : (s.modThread k f).lastCtr = s.lastCtr := rfl
@[simp] theorem State.modThread_lastAgr (s : State) (k : Nat) (f : Thread → Thread) : (s.modThread k f).lastAgr = s.lastAgr := rfl
@[simp] theorem State.modThread_early (s : State) (k : Nat) (f : Thread → Thread) : (s.modThread k f).early = s.early := rfl
@[simp] theorem State.modThread_paddocks (s : State) (k : Nat) (f : Thread → Thread) : (s.modThread k f).paddocks = s.paddocks := rfl
@[simp] theorem State.modThread_groups (s : State) (k : Nat) (f : Thread → Thread) : (s.modThread k f).groups = s.groups := rfl
@[simp] theorem State.modThread_agreements (s : State) (k : Nat) (f : Thread → Thread) : (s.modThread k f).agreements = s.agreements := rfl
@[simp] theorem State.modThread_flights (s : State) (k : Nat) (f : Thread → Thread) : (s.modThread k f).flights = s.flights := rfl
@[simp] theorem State.modThread_packets (s : State) (k : Nat) (f : Thread → Thread) : (s.modThread k f).packets = s.packets := rfl
@[simp] theorem State.modThread_fabops (s : State) (k : Nat) (f : Thread → Thread) : (s.modThread k f).fabops = s.fabops := rfl
@[simp] theorem State.modThread_incoming (s : State) (k : Nat) (f : Thread → Thread) : (s.modThread k f).incoming = s.incoming := rfl
@[simp] theorem State.modThread_owns (s : State) (k : Nat) (f : Thread → Thread) : (s.modThread k f).owns = s.owns := rfl
@[simp] theorem State.modThread_satisfied (s : State) (k : Nat) (f : Thread → Thread) : (s.modThread k f).satisfied = s.satisfied := rfl
@[simp] theorem State.modThread_walks (s : State) (k : Nat) (f : Thread → Thread) : (s.modThread k f).walks = s.walks := rfl
@[simp] theorem State.modThread_probes (s : State) (k : Nat) (f : Thread → Thread) : (s.modThread k f).probes = s.probes := rfl
@[simp] theorem State.modThread_tinvs (s : State) (k : Nat) (f : Thread → Thread) : (s.modThread k f).tinvs = s.tinvs := rfl
@[simp] theorem State.modThread_seqs (s : State) (k : Nat) (f : Thread → Thread) : (s.modThread k f).seqs = s.seqs := rfl
@[simp] theorem State.modThread_ident (s : State) (k : Nat) (f : Thread → Thread) : (s.modThread k f).ident = s.ident := rfl
@[simp] theorem State.modThread_ready (s : State) (k : Nat) (f : Thread → Thread) : (s.modThread k f).ready = s.ready := rfl
@[simp] theorem State.modThread_recovery (s : State) (k : Nat) (f : Thread → Thread) : (s.modThread k f).recovery = s.recovery := rfl
@[simp] theorem State.modThread_nested (s : State) (k : Nat) (f : Thread → Thread) : (s.modThread k f).nested = s.nested := rfl
@[simp] theorem State.modThread_lognew (s : State) (k : Nat) (f : Thread → Thread) : (s.modThread k f).lognew = s.lognew := rfl
@[simp] theorem State.modThread_w4base (s : State) (k : Nat) (f : Thread → Thread) : (s.modThread k f).w4base = s.w4base := rfl
@[simp] theorem State.modThread_logpage (s : State) (k : Nat) (f : Thread → Thread) : (s.modThread k f).logpage = s.logpage := rfl
@[simp] theorem State.modThread_loghead (s : State) (k : Nat) (f : Thread → Thread) : (s.modThread k f).loghead = s.loghead := rfl
@[simp] theorem State.modThread_cmd (s : State) (k : Nat) (f : Thread → Thread) : (s.modThread k f).cmd = s.cmd := rfl
@[simp] theorem State.modThread_cmdState (s : State) (k : Nat) (f : Thread → Thread) : (s.modThread k f).cmdState = s.cmdState := rfl
@[simp] theorem State.modThread_cmdCode (s : State) (k : Nat) (f : Thread → Thread) : (s.modThread k f).cmdCode = s.cmdCode := rfl
@[simp] theorem State.modThread_ingress (s : State) (k : Nat) (f : Thread → Thread) : (s.modThread k f).ingress = s.ingress := rfl
@[simp] theorem State.modThread_accept (s : State) (k : Nat) (f : Thread → Thread) : (s.modThread k f).accept = s.accept := rfl
@[simp] theorem State.modThread_spreads (s : State) (k : Nat) (f : Thread → Thread) : (s.modThread k f).spreads = s.spreads := rfl
@[simp] theorem State.modThread_posted (s : State) (k : Nat) (f : Thread → Thread) : (s.modThread k f).posted = s.posted := rfl
@[simp] theorem State.modThread_log (s : State) (k : Nat) (f : Thread → Thread) : (s.modThread k f).log = s.log := rfl
@[simp] theorem State.modThread_flashLog (s : State) (k : Nat) (f : Thread → Thread) : (s.modThread k f).flashLog = s.flashLog := rfl
@[simp] theorem State.modThread_isles (s : State) (k : Nat) (f : Thread → Thread) : (s.modThread k f).isles = s.isles := rfl
@[simp] theorem State.modThread_flash (s : State) (k : Nat) (f : Thread → Thread) : (s.modThread k f).flash = s.flash := rfl
@[simp] theorem State.modThread_measure (s : State) (k : Nat) (f : Thread → Thread) : (s.modThread k f).measure = s.measure := rfl
@[simp] theorem State.modThread_agenda (s : State) (k : Nat) (f : Thread → Thread) : (s.modThread k f).agenda = s.agenda := rfl
@[simp] theorem State.modThread_due (s : State) (k : Nat) (f : Thread → Thread) : (s.modThread k f).due = s.due := rfl
@[simp] theorem State.modThread_outbox (s : State) (k : Nat) (f : Thread → Thread) : (s.modThread k f).outbox = s.outbox := rfl
@[simp] theorem State.modThread_oracle (s : State) (k : Nat) (f : Thread → Thread) : (s.modThread k f).oracle = s.oracle := rfl
@[simp] theorem State.modThread_nextId (s : State) (k : Nat) (f : Thread → Thread) : (s.modThread k f).nextId = s.nextId := rfl
@[simp] theorem State.modThread_cur (s : State) (k : Nat) (f : Thread → Thread) : (s.modThread k f).cur = s.cur := rfl
@[simp] theorem State.modThread_curSeq (s : State) (k : Nat) (f : Thread → Thread) : (s.modThread k f).curSeq = s.curSeq := rfl
@[simp] theorem State.modThread_rot (s : State) (k : Nat) (f : Thread → Thread) : (s.modThread k f).rot = s.rot := rfl
@[simp] theorem State.modThread_netTurn (s : State) (k : Nat) (f : Thread → Thread) : (s.modThread k f).netTurn = s.netTurn := rfl

/-! ## `State.modTh` -/

@[simp] theorem State.modTh_mem (s : State) (f : Thread → Thread) : (s.modTh f).mem = s.mem := rfl
@[simp] theorem State.modTh_hbmTag (s : State) (f : Thread → Thread) : (s.modTh f).hbmTag = s.hbmTag := rfl
@[simp] theorem State.modTh_lines (s : State) (f : Thread → Thread) : (s.modTh f).lines = s.lines := rfl
@[simp] theorem State.modTh_cores (s : State) (f : Thread → Thread) : (s.modTh f).cores = s.cores := rfl
@[simp] theorem State.modTh_threads (s : State) (f : Thread → Thread) : (s.modTh f).threads = tmod Thread.idle s.threads s.cur f := rfl
@[simp] theorem State.modTh_shCores (s : State) (f : Thread → Thread) : (s.modTh f).shCores = s.shCores := rfl
@[simp] theorem State.modTh_shThreads (s : State) (f : Thread → Thread) : (s.modTh f).shThreads = s.shThreads := rfl
@[simp] theorem State.modTh_bins (s : State) (f : Thread → Thread) : (s.modTh f).bins = s.bins := rfl
@[simp] theorem State.modTh_hashgrp (s : State) (f : Thread → Thread) : (s.modTh f).hashgrp = s.hashgrp := rfl
@[simp] theorem State.modTh_mkeys (s : State) (f : Thread → Thread) : (s.modTh f).mkeys = s.mkeys := rfl
@[simp] theorem State.modTh_fkeys (s : State) (f : Thread → Thread) : (s.modTh f).fkeys = s.fkeys := rfl
@[simp] theorem State.modTh_agrKey (s : State) (f : Thread → Thread) : (s.modTh f).agrKey = s.agrKey := rfl
@[simp] theorem State.modTh_agrStale (s : State) (f : Thread → Thread) : (s.modTh f).agrStale = s.agrStale := rfl
@[simp] theorem State.modTh_peers (s : State) (f : Thread → Thread) : (s.modTh f).peers = s.peers := rfl
@[simp] theorem State.modTh_joining (s : State) (f : Thread → Thread) : (s.modTh f).joining = s.joining := rfl
@[simp] theorem State.modTh_mcast (s : State) (f : Thread → Thread) : (s.modTh f).mcast = s.mcast := rfl
@[simp] theorem State.modTh_portCtr (s : State) (f : Thread → Thread) : (s.modTh f).portCtr = s.portCtr := rfl
@[simp] theorem State.modTh_portAgr (s : State) (f : Thread → Thread) : (s.modTh f).portAgr = s.portAgr := rfl
@[simp] theorem State.modTh_lastCtr (s : State) (f : Thread → Thread) : (s.modTh f).lastCtr = s.lastCtr := rfl
@[simp] theorem State.modTh_lastAgr (s : State) (f : Thread → Thread) : (s.modTh f).lastAgr = s.lastAgr := rfl
@[simp] theorem State.modTh_early (s : State) (f : Thread → Thread) : (s.modTh f).early = s.early := rfl
@[simp] theorem State.modTh_paddocks (s : State) (f : Thread → Thread) : (s.modTh f).paddocks = s.paddocks := rfl
@[simp] theorem State.modTh_groups (s : State) (f : Thread → Thread) : (s.modTh f).groups = s.groups := rfl
@[simp] theorem State.modTh_agreements (s : State) (f : Thread → Thread) : (s.modTh f).agreements = s.agreements := rfl
@[simp] theorem State.modTh_flights (s : State) (f : Thread → Thread) : (s.modTh f).flights = s.flights := rfl
@[simp] theorem State.modTh_packets (s : State) (f : Thread → Thread) : (s.modTh f).packets = s.packets := rfl
@[simp] theorem State.modTh_fabops (s : State) (f : Thread → Thread) : (s.modTh f).fabops = s.fabops := rfl
@[simp] theorem State.modTh_incoming (s : State) (f : Thread → Thread) : (s.modTh f).incoming = s.incoming := rfl
@[simp] theorem State.modTh_owns (s : State) (f : Thread → Thread) : (s.modTh f).owns = s.owns := rfl
@[simp] theorem State.modTh_satisfied (s : State) (f : Thread → Thread) : (s.modTh f).satisfied = s.satisfied := rfl
@[simp] theorem State.modTh_walks (s : State) (f : Thread → Thread) : (s.modTh f).walks = s.walks := rfl
@[simp] theorem State.modTh_probes (s : State) (f : Thread → Thread) : (s.modTh f).probes = s.probes := rfl
@[simp] theorem State.modTh_tinvs (s : State) (f : Thread → Thread) : (s.modTh f).tinvs = s.tinvs := rfl
@[simp] theorem State.modTh_seqs (s : State) (f : Thread → Thread) : (s.modTh f).seqs = s.seqs := rfl
@[simp] theorem State.modTh_ident (s : State) (f : Thread → Thread) : (s.modTh f).ident = s.ident := rfl
@[simp] theorem State.modTh_ready (s : State) (f : Thread → Thread) : (s.modTh f).ready = s.ready := rfl
@[simp] theorem State.modTh_recovery (s : State) (f : Thread → Thread) : (s.modTh f).recovery = s.recovery := rfl
@[simp] theorem State.modTh_nested (s : State) (f : Thread → Thread) : (s.modTh f).nested = s.nested := rfl
@[simp] theorem State.modTh_lognew (s : State) (f : Thread → Thread) : (s.modTh f).lognew = s.lognew := rfl
@[simp] theorem State.modTh_w4base (s : State) (f : Thread → Thread) : (s.modTh f).w4base = s.w4base := rfl
@[simp] theorem State.modTh_logpage (s : State) (f : Thread → Thread) : (s.modTh f).logpage = s.logpage := rfl
@[simp] theorem State.modTh_loghead (s : State) (f : Thread → Thread) : (s.modTh f).loghead = s.loghead := rfl
@[simp] theorem State.modTh_cmd (s : State) (f : Thread → Thread) : (s.modTh f).cmd = s.cmd := rfl
@[simp] theorem State.modTh_cmdState (s : State) (f : Thread → Thread) : (s.modTh f).cmdState = s.cmdState := rfl
@[simp] theorem State.modTh_cmdCode (s : State) (f : Thread → Thread) : (s.modTh f).cmdCode = s.cmdCode := rfl
@[simp] theorem State.modTh_ingress (s : State) (f : Thread → Thread) : (s.modTh f).ingress = s.ingress := rfl
@[simp] theorem State.modTh_accept (s : State) (f : Thread → Thread) : (s.modTh f).accept = s.accept := rfl
@[simp] theorem State.modTh_spreads (s : State) (f : Thread → Thread) : (s.modTh f).spreads = s.spreads := rfl
@[simp] theorem State.modTh_posted (s : State) (f : Thread → Thread) : (s.modTh f).posted = s.posted := rfl
@[simp] theorem State.modTh_log (s : State) (f : Thread → Thread) : (s.modTh f).log = s.log := rfl
@[simp] theorem State.modTh_flashLog (s : State) (f : Thread → Thread) : (s.modTh f).flashLog = s.flashLog := rfl
@[simp] theorem State.modTh_isles (s : State) (f : Thread → Thread) : (s.modTh f).isles = s.isles := rfl
@[simp] theorem State.modTh_flash (s : State) (f : Thread → Thread) : (s.modTh f).flash = s.flash := rfl
@[simp] theorem State.modTh_measure (s : State) (f : Thread → Thread) : (s.modTh f).measure = s.measure := rfl
@[simp] theorem State.modTh_agenda (s : State) (f : Thread → Thread) : (s.modTh f).agenda = s.agenda := rfl
@[simp] theorem State.modTh_due (s : State) (f : Thread → Thread) : (s.modTh f).due = s.due := rfl
@[simp] theorem State.modTh_outbox (s : State) (f : Thread → Thread) : (s.modTh f).outbox = s.outbox := rfl
@[simp] theorem State.modTh_oracle (s : State) (f : Thread → Thread) : (s.modTh f).oracle = s.oracle := rfl
@[simp] theorem State.modTh_nextId (s : State) (f : Thread → Thread) : (s.modTh f).nextId = s.nextId := rfl
@[simp] theorem State.modTh_cur (s : State) (f : Thread → Thread) : (s.modTh f).cur = s.cur := rfl
@[simp] theorem State.modTh_curSeq (s : State) (f : Thread → Thread) : (s.modTh f).curSeq = s.curSeq := rfl
@[simp] theorem State.modTh_rot (s : State) (f : Thread → Thread) : (s.modTh f).rot = s.rot := rfl
@[simp] theorem State.modTh_netTurn (s : State) (f : Thread → Thread) : (s.modTh f).netTurn = s.netTurn := rfl

/-! ## `State.modSeq` -/

@[simp] theorem State.modSeq_mem (s : State) (q : Nat) (f : Sequencer → Sequencer) : (s.modSeq q f).mem = s.mem := rfl
@[simp] theorem State.modSeq_hbmTag (s : State) (q : Nat) (f : Sequencer → Sequencer) : (s.modSeq q f).hbmTag = s.hbmTag := rfl
@[simp] theorem State.modSeq_lines (s : State) (q : Nat) (f : Sequencer → Sequencer) : (s.modSeq q f).lines = s.lines := rfl
@[simp] theorem State.modSeq_cores (s : State) (q : Nat) (f : Sequencer → Sequencer) : (s.modSeq q f).cores = s.cores := rfl
@[simp] theorem State.modSeq_threads (s : State) (q : Nat) (f : Sequencer → Sequencer) : (s.modSeq q f).threads = s.threads := rfl
@[simp] theorem State.modSeq_shCores (s : State) (q : Nat) (f : Sequencer → Sequencer) : (s.modSeq q f).shCores = s.shCores := rfl
@[simp] theorem State.modSeq_shThreads (s : State) (q : Nat) (f : Sequencer → Sequencer) : (s.modSeq q f).shThreads = s.shThreads := rfl
@[simp] theorem State.modSeq_bins (s : State) (q : Nat) (f : Sequencer → Sequencer) : (s.modSeq q f).bins = s.bins := rfl
@[simp] theorem State.modSeq_hashgrp (s : State) (q : Nat) (f : Sequencer → Sequencer) : (s.modSeq q f).hashgrp = s.hashgrp := rfl
@[simp] theorem State.modSeq_mkeys (s : State) (q : Nat) (f : Sequencer → Sequencer) : (s.modSeq q f).mkeys = s.mkeys := rfl
@[simp] theorem State.modSeq_fkeys (s : State) (q : Nat) (f : Sequencer → Sequencer) : (s.modSeq q f).fkeys = s.fkeys := rfl
@[simp] theorem State.modSeq_agrKey (s : State) (q : Nat) (f : Sequencer → Sequencer) : (s.modSeq q f).agrKey = s.agrKey := rfl
@[simp] theorem State.modSeq_agrStale (s : State) (q : Nat) (f : Sequencer → Sequencer) : (s.modSeq q f).agrStale = s.agrStale := rfl
@[simp] theorem State.modSeq_peers (s : State) (q : Nat) (f : Sequencer → Sequencer) : (s.modSeq q f).peers = s.peers := rfl
@[simp] theorem State.modSeq_joining (s : State) (q : Nat) (f : Sequencer → Sequencer) : (s.modSeq q f).joining = s.joining := rfl
@[simp] theorem State.modSeq_mcast (s : State) (q : Nat) (f : Sequencer → Sequencer) : (s.modSeq q f).mcast = s.mcast := rfl
@[simp] theorem State.modSeq_portCtr (s : State) (q : Nat) (f : Sequencer → Sequencer) : (s.modSeq q f).portCtr = s.portCtr := rfl
@[simp] theorem State.modSeq_portAgr (s : State) (q : Nat) (f : Sequencer → Sequencer) : (s.modSeq q f).portAgr = s.portAgr := rfl
@[simp] theorem State.modSeq_lastCtr (s : State) (q : Nat) (f : Sequencer → Sequencer) : (s.modSeq q f).lastCtr = s.lastCtr := rfl
@[simp] theorem State.modSeq_lastAgr (s : State) (q : Nat) (f : Sequencer → Sequencer) : (s.modSeq q f).lastAgr = s.lastAgr := rfl
@[simp] theorem State.modSeq_early (s : State) (q : Nat) (f : Sequencer → Sequencer) : (s.modSeq q f).early = s.early := rfl
@[simp] theorem State.modSeq_paddocks (s : State) (q : Nat) (f : Sequencer → Sequencer) : (s.modSeq q f).paddocks = s.paddocks := rfl
@[simp] theorem State.modSeq_groups (s : State) (q : Nat) (f : Sequencer → Sequencer) : (s.modSeq q f).groups = s.groups := rfl
@[simp] theorem State.modSeq_agreements (s : State) (q : Nat) (f : Sequencer → Sequencer) : (s.modSeq q f).agreements = s.agreements := rfl
@[simp] theorem State.modSeq_flights (s : State) (q : Nat) (f : Sequencer → Sequencer) : (s.modSeq q f).flights = s.flights := rfl
@[simp] theorem State.modSeq_packets (s : State) (q : Nat) (f : Sequencer → Sequencer) : (s.modSeq q f).packets = s.packets := rfl
@[simp] theorem State.modSeq_fabops (s : State) (q : Nat) (f : Sequencer → Sequencer) : (s.modSeq q f).fabops = s.fabops := rfl
@[simp] theorem State.modSeq_incoming (s : State) (q : Nat) (f : Sequencer → Sequencer) : (s.modSeq q f).incoming = s.incoming := rfl
@[simp] theorem State.modSeq_owns (s : State) (q : Nat) (f : Sequencer → Sequencer) : (s.modSeq q f).owns = s.owns := rfl
@[simp] theorem State.modSeq_satisfied (s : State) (q : Nat) (f : Sequencer → Sequencer) : (s.modSeq q f).satisfied = s.satisfied := rfl
@[simp] theorem State.modSeq_walks (s : State) (q : Nat) (f : Sequencer → Sequencer) : (s.modSeq q f).walks = s.walks := rfl
@[simp] theorem State.modSeq_probes (s : State) (q : Nat) (f : Sequencer → Sequencer) : (s.modSeq q f).probes = s.probes := rfl
@[simp] theorem State.modSeq_tinvs (s : State) (q : Nat) (f : Sequencer → Sequencer) : (s.modSeq q f).tinvs = s.tinvs := rfl
@[simp] theorem State.modSeq_seqs (s : State) (q : Nat) (f : Sequencer → Sequencer) : (s.modSeq q f).seqs = tmod Sequencer.zero s.seqs q f := rfl
@[simp] theorem State.modSeq_ident (s : State) (q : Nat) (f : Sequencer → Sequencer) : (s.modSeq q f).ident = s.ident := rfl
@[simp] theorem State.modSeq_ready (s : State) (q : Nat) (f : Sequencer → Sequencer) : (s.modSeq q f).ready = s.ready := rfl
@[simp] theorem State.modSeq_recovery (s : State) (q : Nat) (f : Sequencer → Sequencer) : (s.modSeq q f).recovery = s.recovery := rfl
@[simp] theorem State.modSeq_nested (s : State) (q : Nat) (f : Sequencer → Sequencer) : (s.modSeq q f).nested = s.nested := rfl
@[simp] theorem State.modSeq_lognew (s : State) (q : Nat) (f : Sequencer → Sequencer) : (s.modSeq q f).lognew = s.lognew := rfl
@[simp] theorem State.modSeq_w4base (s : State) (q : Nat) (f : Sequencer → Sequencer) : (s.modSeq q f).w4base = s.w4base := rfl
@[simp] theorem State.modSeq_logpage (s : State) (q : Nat) (f : Sequencer → Sequencer) : (s.modSeq q f).logpage = s.logpage := rfl
@[simp] theorem State.modSeq_loghead (s : State) (q : Nat) (f : Sequencer → Sequencer) : (s.modSeq q f).loghead = s.loghead := rfl
@[simp] theorem State.modSeq_cmd (s : State) (q : Nat) (f : Sequencer → Sequencer) : (s.modSeq q f).cmd = s.cmd := rfl
@[simp] theorem State.modSeq_cmdState (s : State) (q : Nat) (f : Sequencer → Sequencer) : (s.modSeq q f).cmdState = s.cmdState := rfl
@[simp] theorem State.modSeq_cmdCode (s : State) (q : Nat) (f : Sequencer → Sequencer) : (s.modSeq q f).cmdCode = s.cmdCode := rfl
@[simp] theorem State.modSeq_ingress (s : State) (q : Nat) (f : Sequencer → Sequencer) : (s.modSeq q f).ingress = s.ingress := rfl
@[simp] theorem State.modSeq_accept (s : State) (q : Nat) (f : Sequencer → Sequencer) : (s.modSeq q f).accept = s.accept := rfl
@[simp] theorem State.modSeq_spreads (s : State) (q : Nat) (f : Sequencer → Sequencer) : (s.modSeq q f).spreads = s.spreads := rfl
@[simp] theorem State.modSeq_posted (s : State) (q : Nat) (f : Sequencer → Sequencer) : (s.modSeq q f).posted = s.posted := rfl
@[simp] theorem State.modSeq_log (s : State) (q : Nat) (f : Sequencer → Sequencer) : (s.modSeq q f).log = s.log := rfl
@[simp] theorem State.modSeq_flashLog (s : State) (q : Nat) (f : Sequencer → Sequencer) : (s.modSeq q f).flashLog = s.flashLog := rfl
@[simp] theorem State.modSeq_isles (s : State) (q : Nat) (f : Sequencer → Sequencer) : (s.modSeq q f).isles = s.isles := rfl
@[simp] theorem State.modSeq_flash (s : State) (q : Nat) (f : Sequencer → Sequencer) : (s.modSeq q f).flash = s.flash := rfl
@[simp] theorem State.modSeq_measure (s : State) (q : Nat) (f : Sequencer → Sequencer) : (s.modSeq q f).measure = s.measure := rfl
@[simp] theorem State.modSeq_agenda (s : State) (q : Nat) (f : Sequencer → Sequencer) : (s.modSeq q f).agenda = s.agenda := rfl
@[simp] theorem State.modSeq_due (s : State) (q : Nat) (f : Sequencer → Sequencer) : (s.modSeq q f).due = s.due := rfl
@[simp] theorem State.modSeq_outbox (s : State) (q : Nat) (f : Sequencer → Sequencer) : (s.modSeq q f).outbox = s.outbox := rfl
@[simp] theorem State.modSeq_oracle (s : State) (q : Nat) (f : Sequencer → Sequencer) : (s.modSeq q f).oracle = s.oracle := rfl
@[simp] theorem State.modSeq_nextId (s : State) (q : Nat) (f : Sequencer → Sequencer) : (s.modSeq q f).nextId = s.nextId := rfl
@[simp] theorem State.modSeq_cur (s : State) (q : Nat) (f : Sequencer → Sequencer) : (s.modSeq q f).cur = s.cur := rfl
@[simp] theorem State.modSeq_curSeq (s : State) (q : Nat) (f : Sequencer → Sequencer) : (s.modSeq q f).curSeq = s.curSeq := rfl
@[simp] theorem State.modSeq_rot (s : State) (q : Nat) (f : Sequencer → Sequencer) : (s.modSeq q f).rot = s.rot := rfl
@[simp] theorem State.modSeq_netTurn (s : State) (q : Nat) (f : Sequencer → Sequencer) : (s.modSeq q f).netTurn = s.netTurn := rfl

/-! ## `State.owe` -/

@[simp] theorem State.owe_mem (s : State) (d : Duty) : (s.owe d).mem = s.mem := rfl
@[simp] theorem State.owe_hbmTag (s : State) (d : Duty) : (s.owe d).hbmTag = s.hbmTag := rfl
@[simp] theorem State.owe_lines (s : State) (d : Duty) : (s.owe d).lines = s.lines := rfl
@[simp] theorem State.owe_cores (s : State) (d : Duty) : (s.owe d).cores = s.cores := rfl
@[simp] theorem State.owe_threads (s : State) (d : Duty) : (s.owe d).threads = s.threads := rfl
@[simp] theorem State.owe_shCores (s : State) (d : Duty) : (s.owe d).shCores = s.shCores := rfl
@[simp] theorem State.owe_shThreads (s : State) (d : Duty) : (s.owe d).shThreads = s.shThreads := rfl
@[simp] theorem State.owe_bins (s : State) (d : Duty) : (s.owe d).bins = s.bins := rfl
@[simp] theorem State.owe_hashgrp (s : State) (d : Duty) : (s.owe d).hashgrp = s.hashgrp := rfl
@[simp] theorem State.owe_mkeys (s : State) (d : Duty) : (s.owe d).mkeys = s.mkeys := rfl
@[simp] theorem State.owe_fkeys (s : State) (d : Duty) : (s.owe d).fkeys = s.fkeys := rfl
@[simp] theorem State.owe_agrKey (s : State) (d : Duty) : (s.owe d).agrKey = s.agrKey := rfl
@[simp] theorem State.owe_agrStale (s : State) (d : Duty) : (s.owe d).agrStale = s.agrStale := rfl
@[simp] theorem State.owe_peers (s : State) (d : Duty) : (s.owe d).peers = s.peers := rfl
@[simp] theorem State.owe_joining (s : State) (d : Duty) : (s.owe d).joining = s.joining := rfl
@[simp] theorem State.owe_mcast (s : State) (d : Duty) : (s.owe d).mcast = s.mcast := rfl
@[simp] theorem State.owe_portCtr (s : State) (d : Duty) : (s.owe d).portCtr = s.portCtr := rfl
@[simp] theorem State.owe_portAgr (s : State) (d : Duty) : (s.owe d).portAgr = s.portAgr := rfl
@[simp] theorem State.owe_lastCtr (s : State) (d : Duty) : (s.owe d).lastCtr = s.lastCtr := rfl
@[simp] theorem State.owe_lastAgr (s : State) (d : Duty) : (s.owe d).lastAgr = s.lastAgr := rfl
@[simp] theorem State.owe_early (s : State) (d : Duty) : (s.owe d).early = s.early := rfl
@[simp] theorem State.owe_paddocks (s : State) (d : Duty) : (s.owe d).paddocks = s.paddocks := rfl
@[simp] theorem State.owe_groups (s : State) (d : Duty) : (s.owe d).groups = s.groups := rfl
@[simp] theorem State.owe_agreements (s : State) (d : Duty) : (s.owe d).agreements = s.agreements := rfl
@[simp] theorem State.owe_flights (s : State) (d : Duty) : (s.owe d).flights = s.flights := rfl
@[simp] theorem State.owe_packets (s : State) (d : Duty) : (s.owe d).packets = s.packets := rfl
@[simp] theorem State.owe_fabops (s : State) (d : Duty) : (s.owe d).fabops = s.fabops := rfl
@[simp] theorem State.owe_incoming (s : State) (d : Duty) : (s.owe d).incoming = s.incoming := rfl
@[simp] theorem State.owe_owns (s : State) (d : Duty) : (s.owe d).owns = s.owns := rfl
@[simp] theorem State.owe_satisfied (s : State) (d : Duty) : (s.owe d).satisfied = s.satisfied := rfl
@[simp] theorem State.owe_walks (s : State) (d : Duty) : (s.owe d).walks = s.walks := rfl
@[simp] theorem State.owe_probes (s : State) (d : Duty) : (s.owe d).probes = s.probes := rfl
@[simp] theorem State.owe_tinvs (s : State) (d : Duty) : (s.owe d).tinvs = s.tinvs := rfl
@[simp] theorem State.owe_seqs (s : State) (d : Duty) : (s.owe d).seqs = s.seqs := rfl
@[simp] theorem State.owe_ident (s : State) (d : Duty) : (s.owe d).ident = s.ident := rfl
@[simp] theorem State.owe_ready (s : State) (d : Duty) : (s.owe d).ready = s.ready := rfl
@[simp] theorem State.owe_recovery (s : State) (d : Duty) : (s.owe d).recovery = s.recovery := rfl
@[simp] theorem State.owe_nested (s : State) (d : Duty) : (s.owe d).nested = s.nested := rfl
@[simp] theorem State.owe_lognew (s : State) (d : Duty) : (s.owe d).lognew = s.lognew := rfl
@[simp] theorem State.owe_w4base (s : State) (d : Duty) : (s.owe d).w4base = s.w4base := rfl
@[simp] theorem State.owe_logpage (s : State) (d : Duty) : (s.owe d).logpage = s.logpage := rfl
@[simp] theorem State.owe_loghead (s : State) (d : Duty) : (s.owe d).loghead = s.loghead := rfl
@[simp] theorem State.owe_cmd (s : State) (d : Duty) : (s.owe d).cmd = s.cmd := rfl
@[simp] theorem State.owe_cmdState (s : State) (d : Duty) : (s.owe d).cmdState = s.cmdState := rfl
@[simp] theorem State.owe_cmdCode (s : State) (d : Duty) : (s.owe d).cmdCode = s.cmdCode := rfl
@[simp] theorem State.owe_ingress (s : State) (d : Duty) : (s.owe d).ingress = s.ingress := rfl
@[simp] theorem State.owe_accept (s : State) (d : Duty) : (s.owe d).accept = s.accept := rfl
@[simp] theorem State.owe_spreads (s : State) (d : Duty) : (s.owe d).spreads = s.spreads := rfl
@[simp] theorem State.owe_posted (s : State) (d : Duty) : (s.owe d).posted = s.posted := rfl
@[simp] theorem State.owe_log (s : State) (d : Duty) : (s.owe d).log = s.log := rfl
@[simp] theorem State.owe_flashLog (s : State) (d : Duty) : (s.owe d).flashLog = s.flashLog := rfl
@[simp] theorem State.owe_isles (s : State) (d : Duty) : (s.owe d).isles = s.isles := rfl
@[simp] theorem State.owe_flash (s : State) (d : Duty) : (s.owe d).flash = s.flash := rfl
@[simp] theorem State.owe_measure (s : State) (d : Duty) : (s.owe d).measure = s.measure := rfl
@[simp] theorem State.owe_agenda (s : State) (d : Duty) : (s.owe d).agenda = s.agenda := rfl
@[simp] theorem State.owe_due (s : State) (d : Duty) : (s.owe d).due = s.due ++ [d] := rfl
@[simp] theorem State.owe_outbox (s : State) (d : Duty) : (s.owe d).outbox = s.outbox := rfl
@[simp] theorem State.owe_oracle (s : State) (d : Duty) : (s.owe d).oracle = s.oracle := rfl
@[simp] theorem State.owe_nextId (s : State) (d : Duty) : (s.owe d).nextId = s.nextId := rfl
@[simp] theorem State.owe_cur (s : State) (d : Duty) : (s.owe d).cur = s.cur := rfl
@[simp] theorem State.owe_curSeq (s : State) (d : Duty) : (s.owe d).curSeq = s.curSeq := rfl
@[simp] theorem State.owe_rot (s : State) (d : Duty) : (s.owe d).rot = s.rot := rfl
@[simp] theorem State.owe_netTurn (s : State) (d : Duty) : (s.owe d).netTurn = s.netTurn := rfl

/-! ## `State.send` -/

@[simp] theorem State.send_mem (s : State) (o : Out) : (s.send o).mem = s.mem := rfl
@[simp] theorem State.send_hbmTag (s : State) (o : Out) : (s.send o).hbmTag = s.hbmTag := rfl
@[simp] theorem State.send_lines (s : State) (o : Out) : (s.send o).lines = s.lines := rfl
@[simp] theorem State.send_cores (s : State) (o : Out) : (s.send o).cores = s.cores := rfl
@[simp] theorem State.send_threads (s : State) (o : Out) : (s.send o).threads = s.threads := rfl
@[simp] theorem State.send_shCores (s : State) (o : Out) : (s.send o).shCores = s.shCores := rfl
@[simp] theorem State.send_shThreads (s : State) (o : Out) : (s.send o).shThreads = s.shThreads := rfl
@[simp] theorem State.send_bins (s : State) (o : Out) : (s.send o).bins = s.bins := rfl
@[simp] theorem State.send_hashgrp (s : State) (o : Out) : (s.send o).hashgrp = s.hashgrp := rfl
@[simp] theorem State.send_mkeys (s : State) (o : Out) : (s.send o).mkeys = s.mkeys := rfl
@[simp] theorem State.send_fkeys (s : State) (o : Out) : (s.send o).fkeys = s.fkeys := rfl
@[simp] theorem State.send_agrKey (s : State) (o : Out) : (s.send o).agrKey = s.agrKey := rfl
@[simp] theorem State.send_agrStale (s : State) (o : Out) : (s.send o).agrStale = s.agrStale := rfl
@[simp] theorem State.send_peers (s : State) (o : Out) : (s.send o).peers = s.peers := rfl
@[simp] theorem State.send_joining (s : State) (o : Out) : (s.send o).joining = s.joining := rfl
@[simp] theorem State.send_mcast (s : State) (o : Out) : (s.send o).mcast = s.mcast := rfl
@[simp] theorem State.send_portCtr (s : State) (o : Out) : (s.send o).portCtr = s.portCtr := rfl
@[simp] theorem State.send_portAgr (s : State) (o : Out) : (s.send o).portAgr = s.portAgr := rfl
@[simp] theorem State.send_lastCtr (s : State) (o : Out) : (s.send o).lastCtr = s.lastCtr := rfl
@[simp] theorem State.send_lastAgr (s : State) (o : Out) : (s.send o).lastAgr = s.lastAgr := rfl
@[simp] theorem State.send_early (s : State) (o : Out) : (s.send o).early = s.early := rfl
@[simp] theorem State.send_paddocks (s : State) (o : Out) : (s.send o).paddocks = s.paddocks := rfl
@[simp] theorem State.send_groups (s : State) (o : Out) : (s.send o).groups = s.groups := rfl
@[simp] theorem State.send_agreements (s : State) (o : Out) : (s.send o).agreements = s.agreements := rfl
@[simp] theorem State.send_flights (s : State) (o : Out) : (s.send o).flights = s.flights := rfl
@[simp] theorem State.send_packets (s : State) (o : Out) : (s.send o).packets = s.packets := rfl
@[simp] theorem State.send_fabops (s : State) (o : Out) : (s.send o).fabops = s.fabops := rfl
@[simp] theorem State.send_incoming (s : State) (o : Out) : (s.send o).incoming = s.incoming := rfl
@[simp] theorem State.send_owns (s : State) (o : Out) : (s.send o).owns = s.owns := rfl
@[simp] theorem State.send_satisfied (s : State) (o : Out) : (s.send o).satisfied = s.satisfied := rfl
@[simp] theorem State.send_walks (s : State) (o : Out) : (s.send o).walks = s.walks := rfl
@[simp] theorem State.send_probes (s : State) (o : Out) : (s.send o).probes = s.probes := rfl
@[simp] theorem State.send_tinvs (s : State) (o : Out) : (s.send o).tinvs = s.tinvs := rfl
@[simp] theorem State.send_seqs (s : State) (o : Out) : (s.send o).seqs = s.seqs := rfl
@[simp] theorem State.send_ident (s : State) (o : Out) : (s.send o).ident = s.ident := rfl
@[simp] theorem State.send_ready (s : State) (o : Out) : (s.send o).ready = s.ready := rfl
@[simp] theorem State.send_recovery (s : State) (o : Out) : (s.send o).recovery = s.recovery := rfl
@[simp] theorem State.send_nested (s : State) (o : Out) : (s.send o).nested = s.nested := rfl
@[simp] theorem State.send_lognew (s : State) (o : Out) : (s.send o).lognew = s.lognew := rfl
@[simp] theorem State.send_w4base (s : State) (o : Out) : (s.send o).w4base = s.w4base := rfl
@[simp] theorem State.send_logpage (s : State) (o : Out) : (s.send o).logpage = s.logpage := rfl
@[simp] theorem State.send_loghead (s : State) (o : Out) : (s.send o).loghead = s.loghead := rfl
@[simp] theorem State.send_cmd (s : State) (o : Out) : (s.send o).cmd = s.cmd := rfl
@[simp] theorem State.send_cmdState (s : State) (o : Out) : (s.send o).cmdState = s.cmdState := rfl
@[simp] theorem State.send_cmdCode (s : State) (o : Out) : (s.send o).cmdCode = s.cmdCode := rfl
@[simp] theorem State.send_ingress (s : State) (o : Out) : (s.send o).ingress = s.ingress := rfl
@[simp] theorem State.send_accept (s : State) (o : Out) : (s.send o).accept = s.accept := rfl
@[simp] theorem State.send_spreads (s : State) (o : Out) : (s.send o).spreads = s.spreads := rfl
@[simp] theorem State.send_posted (s : State) (o : Out) : (s.send o).posted = s.posted := rfl
@[simp] theorem State.send_log (s : State) (o : Out) : (s.send o).log = s.log := rfl
@[simp] theorem State.send_flashLog (s : State) (o : Out) : (s.send o).flashLog = s.flashLog := rfl
@[simp] theorem State.send_isles (s : State) (o : Out) : (s.send o).isles = s.isles := rfl
@[simp] theorem State.send_flash (s : State) (o : Out) : (s.send o).flash = s.flash := rfl
@[simp] theorem State.send_measure (s : State) (o : Out) : (s.send o).measure = s.measure := rfl
@[simp] theorem State.send_agenda (s : State) (o : Out) : (s.send o).agenda = s.agenda := rfl
@[simp] theorem State.send_due (s : State) (o : Out) : (s.send o).due = s.due := rfl
@[simp] theorem State.send_outbox (s : State) (o : Out) : (s.send o).outbox = s.outbox ++ [o] := rfl
@[simp] theorem State.send_oracle (s : State) (o : Out) : (s.send o).oracle = s.oracle := rfl
@[simp] theorem State.send_nextId (s : State) (o : Out) : (s.send o).nextId = s.nextId := rfl
@[simp] theorem State.send_cur (s : State) (o : Out) : (s.send o).cur = s.cur := rfl
@[simp] theorem State.send_curSeq (s : State) (o : Out) : (s.send o).curSeq = s.curSeq := rfl
@[simp] theorem State.send_rot (s : State) (o : Out) : (s.send o).rot = s.rot := rfl
@[simp] theorem State.send_netTurn (s : State) (o : Out) : (s.send o).netTurn = s.netTurn := rfl

/-! ## `State.freeWord` -/

@[simp] theorem State.freeWord_mem (s : State) : s.freeWord.2.mem = s.mem := rfl
@[simp] theorem State.freeWord_hbmTag (s : State) : s.freeWord.2.hbmTag = s.hbmTag := rfl
@[simp] theorem State.freeWord_lines (s : State) : s.freeWord.2.lines = s.lines := rfl
@[simp] theorem State.freeWord_cores (s : State) : s.freeWord.2.cores = s.cores := rfl
@[simp] theorem State.freeWord_threads (s : State) : s.freeWord.2.threads = s.threads := rfl
@[simp] theorem State.freeWord_shCores (s : State) : s.freeWord.2.shCores = s.shCores := rfl
@[simp] theorem State.freeWord_shThreads (s : State) : s.freeWord.2.shThreads = s.shThreads := rfl
@[simp] theorem State.freeWord_bins (s : State) : s.freeWord.2.bins = s.bins := rfl
@[simp] theorem State.freeWord_hashgrp (s : State) : s.freeWord.2.hashgrp = s.hashgrp := rfl
@[simp] theorem State.freeWord_mkeys (s : State) : s.freeWord.2.mkeys = s.mkeys := rfl
@[simp] theorem State.freeWord_fkeys (s : State) : s.freeWord.2.fkeys = s.fkeys := rfl
@[simp] theorem State.freeWord_agrKey (s : State) : s.freeWord.2.agrKey = s.agrKey := rfl
@[simp] theorem State.freeWord_agrStale (s : State) : s.freeWord.2.agrStale = s.agrStale := rfl
@[simp] theorem State.freeWord_peers (s : State) : s.freeWord.2.peers = s.peers := rfl
@[simp] theorem State.freeWord_joining (s : State) : s.freeWord.2.joining = s.joining := rfl
@[simp] theorem State.freeWord_mcast (s : State) : s.freeWord.2.mcast = s.mcast := rfl
@[simp] theorem State.freeWord_portCtr (s : State) : s.freeWord.2.portCtr = s.portCtr := rfl
@[simp] theorem State.freeWord_portAgr (s : State) : s.freeWord.2.portAgr = s.portAgr := rfl
@[simp] theorem State.freeWord_lastCtr (s : State) : s.freeWord.2.lastCtr = s.lastCtr := rfl
@[simp] theorem State.freeWord_lastAgr (s : State) : s.freeWord.2.lastAgr = s.lastAgr := rfl
@[simp] theorem State.freeWord_early (s : State) : s.freeWord.2.early = s.early := rfl
@[simp] theorem State.freeWord_paddocks (s : State) : s.freeWord.2.paddocks = s.paddocks := rfl
@[simp] theorem State.freeWord_groups (s : State) : s.freeWord.2.groups = s.groups := rfl
@[simp] theorem State.freeWord_agreements (s : State) : s.freeWord.2.agreements = s.agreements := rfl
@[simp] theorem State.freeWord_flights (s : State) : s.freeWord.2.flights = s.flights := rfl
@[simp] theorem State.freeWord_packets (s : State) : s.freeWord.2.packets = s.packets := rfl
@[simp] theorem State.freeWord_fabops (s : State) : s.freeWord.2.fabops = s.fabops := rfl
@[simp] theorem State.freeWord_incoming (s : State) : s.freeWord.2.incoming = s.incoming := rfl
@[simp] theorem State.freeWord_owns (s : State) : s.freeWord.2.owns = s.owns := rfl
@[simp] theorem State.freeWord_satisfied (s : State) : s.freeWord.2.satisfied = s.satisfied := rfl
@[simp] theorem State.freeWord_walks (s : State) : s.freeWord.2.walks = s.walks := rfl
@[simp] theorem State.freeWord_probes (s : State) : s.freeWord.2.probes = s.probes := rfl
@[simp] theorem State.freeWord_tinvs (s : State) : s.freeWord.2.tinvs = s.tinvs := rfl
@[simp] theorem State.freeWord_seqs (s : State) : s.freeWord.2.seqs = s.seqs := rfl
@[simp] theorem State.freeWord_ident (s : State) : s.freeWord.2.ident = s.ident := rfl
@[simp] theorem State.freeWord_ready (s : State) : s.freeWord.2.ready = s.ready := rfl
@[simp] theorem State.freeWord_recovery (s : State) : s.freeWord.2.recovery = s.recovery := rfl
@[simp] theorem State.freeWord_nested (s : State) : s.freeWord.2.nested = s.nested := rfl
@[simp] theorem State.freeWord_lognew (s : State) : s.freeWord.2.lognew = s.lognew := rfl
@[simp] theorem State.freeWord_w4base (s : State) : s.freeWord.2.w4base = s.w4base := rfl
@[simp] theorem State.freeWord_logpage (s : State) : s.freeWord.2.logpage = s.logpage := rfl
@[simp] theorem State.freeWord_loghead (s : State) : s.freeWord.2.loghead = s.loghead := rfl
@[simp] theorem State.freeWord_cmd (s : State) : s.freeWord.2.cmd = s.cmd := rfl
@[simp] theorem State.freeWord_cmdState (s : State) : s.freeWord.2.cmdState = s.cmdState := rfl
@[simp] theorem State.freeWord_cmdCode (s : State) : s.freeWord.2.cmdCode = s.cmdCode := rfl
@[simp] theorem State.freeWord_ingress (s : State) : s.freeWord.2.ingress = s.ingress := rfl
@[simp] theorem State.freeWord_accept (s : State) : s.freeWord.2.accept = s.accept := rfl
@[simp] theorem State.freeWord_spreads (s : State) : s.freeWord.2.spreads = s.spreads := rfl
@[simp] theorem State.freeWord_posted (s : State) : s.freeWord.2.posted = s.posted := rfl
@[simp] theorem State.freeWord_log (s : State) : s.freeWord.2.log = s.log := rfl
@[simp] theorem State.freeWord_flashLog (s : State) : s.freeWord.2.flashLog = s.flashLog := rfl
@[simp] theorem State.freeWord_isles (s : State) : s.freeWord.2.isles = s.isles := rfl
@[simp] theorem State.freeWord_flash (s : State) : s.freeWord.2.flash = s.flash := rfl
@[simp] theorem State.freeWord_measure (s : State) : s.freeWord.2.measure = s.measure := rfl
@[simp] theorem State.freeWord_agenda (s : State) : s.freeWord.2.agenda = s.agenda := rfl
@[simp] theorem State.freeWord_due (s : State) : s.freeWord.2.due = s.due := rfl
@[simp] theorem State.freeWord_outbox (s : State) : s.freeWord.2.outbox = s.outbox := rfl
@[simp] theorem State.freeWord_oracle (s : State) : s.freeWord.2.oracle = s.oracle + 1 := rfl
@[simp] theorem State.freeWord_nextId (s : State) : s.freeWord.2.nextId = s.nextId := rfl
@[simp] theorem State.freeWord_cur (s : State) : s.freeWord.2.cur = s.cur := rfl
@[simp] theorem State.freeWord_curSeq (s : State) : s.freeWord.2.curSeq = s.curSeq := rfl
@[simp] theorem State.freeWord_rot (s : State) : s.freeWord.2.rot = s.rot := rfl
@[simp] theorem State.freeWord_netTurn (s : State) : s.freeWord.2.netTurn = s.netTurn := rfl

/-! ## `State.fresh` -/

@[simp] theorem State.fresh_mem (s : State) : s.fresh.2.mem = s.mem := rfl
@[simp] theorem State.fresh_hbmTag (s : State) : s.fresh.2.hbmTag = s.hbmTag := rfl
@[simp] theorem State.fresh_lines (s : State) : s.fresh.2.lines = s.lines := rfl
@[simp] theorem State.fresh_cores (s : State) : s.fresh.2.cores = s.cores := rfl
@[simp] theorem State.fresh_threads (s : State) : s.fresh.2.threads = s.threads := rfl
@[simp] theorem State.fresh_shCores (s : State) : s.fresh.2.shCores = s.shCores := rfl
@[simp] theorem State.fresh_shThreads (s : State) : s.fresh.2.shThreads = s.shThreads := rfl
@[simp] theorem State.fresh_bins (s : State) : s.fresh.2.bins = s.bins := rfl
@[simp] theorem State.fresh_hashgrp (s : State) : s.fresh.2.hashgrp = s.hashgrp := rfl
@[simp] theorem State.fresh_mkeys (s : State) : s.fresh.2.mkeys = s.mkeys := rfl
@[simp] theorem State.fresh_fkeys (s : State) : s.fresh.2.fkeys = s.fkeys := rfl
@[simp] theorem State.fresh_agrKey (s : State) : s.fresh.2.agrKey = s.agrKey := rfl
@[simp] theorem State.fresh_agrStale (s : State) : s.fresh.2.agrStale = s.agrStale := rfl
@[simp] theorem State.fresh_peers (s : State) : s.fresh.2.peers = s.peers := rfl
@[simp] theorem State.fresh_joining (s : State) : s.fresh.2.joining = s.joining := rfl
@[simp] theorem State.fresh_mcast (s : State) : s.fresh.2.mcast = s.mcast := rfl
@[simp] theorem State.fresh_portCtr (s : State) : s.fresh.2.portCtr = s.portCtr := rfl
@[simp] theorem State.fresh_portAgr (s : State) : s.fresh.2.portAgr = s.portAgr := rfl
@[simp] theorem State.fresh_lastCtr (s : State) : s.fresh.2.lastCtr = s.lastCtr := rfl
@[simp] theorem State.fresh_lastAgr (s : State) : s.fresh.2.lastAgr = s.lastAgr := rfl
@[simp] theorem State.fresh_early (s : State) : s.fresh.2.early = s.early := rfl
@[simp] theorem State.fresh_paddocks (s : State) : s.fresh.2.paddocks = s.paddocks := rfl
@[simp] theorem State.fresh_groups (s : State) : s.fresh.2.groups = s.groups := rfl
@[simp] theorem State.fresh_agreements (s : State) : s.fresh.2.agreements = s.agreements := rfl
@[simp] theorem State.fresh_flights (s : State) : s.fresh.2.flights = s.flights := rfl
@[simp] theorem State.fresh_packets (s : State) : s.fresh.2.packets = s.packets := rfl
@[simp] theorem State.fresh_fabops (s : State) : s.fresh.2.fabops = s.fabops := rfl
@[simp] theorem State.fresh_incoming (s : State) : s.fresh.2.incoming = s.incoming := rfl
@[simp] theorem State.fresh_owns (s : State) : s.fresh.2.owns = s.owns := rfl
@[simp] theorem State.fresh_satisfied (s : State) : s.fresh.2.satisfied = s.satisfied := rfl
@[simp] theorem State.fresh_walks (s : State) : s.fresh.2.walks = s.walks := rfl
@[simp] theorem State.fresh_probes (s : State) : s.fresh.2.probes = s.probes := rfl
@[simp] theorem State.fresh_tinvs (s : State) : s.fresh.2.tinvs = s.tinvs := rfl
@[simp] theorem State.fresh_seqs (s : State) : s.fresh.2.seqs = s.seqs := rfl
@[simp] theorem State.fresh_ident (s : State) : s.fresh.2.ident = s.ident := rfl
@[simp] theorem State.fresh_ready (s : State) : s.fresh.2.ready = s.ready := rfl
@[simp] theorem State.fresh_recovery (s : State) : s.fresh.2.recovery = s.recovery := rfl
@[simp] theorem State.fresh_nested (s : State) : s.fresh.2.nested = s.nested := rfl
@[simp] theorem State.fresh_lognew (s : State) : s.fresh.2.lognew = s.lognew := rfl
@[simp] theorem State.fresh_w4base (s : State) : s.fresh.2.w4base = s.w4base := rfl
@[simp] theorem State.fresh_logpage (s : State) : s.fresh.2.logpage = s.logpage := rfl
@[simp] theorem State.fresh_loghead (s : State) : s.fresh.2.loghead = s.loghead := rfl
@[simp] theorem State.fresh_cmd (s : State) : s.fresh.2.cmd = s.cmd := rfl
@[simp] theorem State.fresh_cmdState (s : State) : s.fresh.2.cmdState = s.cmdState := rfl
@[simp] theorem State.fresh_cmdCode (s : State) : s.fresh.2.cmdCode = s.cmdCode := rfl
@[simp] theorem State.fresh_ingress (s : State) : s.fresh.2.ingress = s.ingress := rfl
@[simp] theorem State.fresh_accept (s : State) : s.fresh.2.accept = s.accept := rfl
@[simp] theorem State.fresh_spreads (s : State) : s.fresh.2.spreads = s.spreads := rfl
@[simp] theorem State.fresh_posted (s : State) : s.fresh.2.posted = s.posted := rfl
@[simp] theorem State.fresh_log (s : State) : s.fresh.2.log = s.log := rfl
@[simp] theorem State.fresh_flashLog (s : State) : s.fresh.2.flashLog = s.flashLog := rfl
@[simp] theorem State.fresh_isles (s : State) : s.fresh.2.isles = s.isles := rfl
@[simp] theorem State.fresh_flash (s : State) : s.fresh.2.flash = s.flash := rfl
@[simp] theorem State.fresh_measure (s : State) : s.fresh.2.measure = s.measure := rfl
@[simp] theorem State.fresh_agenda (s : State) : s.fresh.2.agenda = s.agenda := rfl
@[simp] theorem State.fresh_due (s : State) : s.fresh.2.due = s.due := rfl
@[simp] theorem State.fresh_outbox (s : State) : s.fresh.2.outbox = s.outbox := rfl
@[simp] theorem State.fresh_oracle (s : State) : s.fresh.2.oracle = s.oracle := rfl
@[simp] theorem State.fresh_nextId (s : State) : s.fresh.2.nextId = s.nextId + 1 := rfl
@[simp] theorem State.fresh_cur (s : State) : s.fresh.2.cur = s.cur := rfl
@[simp] theorem State.fresh_curSeq (s : State) : s.fresh.2.curSeq = s.curSeq := rfl
@[simp] theorem State.fresh_rot (s : State) : s.fresh.2.rot = s.rot := rfl
@[simp] theorem State.fresh_netTurn (s : State) : s.fresh.2.netTurn = s.netTurn := rfl

end Sys2Proof.Machine
end

