-- ==== Sys2Proof/Laws/Table.lean ====
section
/-! SUPPORT. Reading a table after a write. -/

namespace Sys2Proof

@[simp] theorem tget_tset_same {α : Type} (d : α) (m : Table α) (k : Nat) (v : α) : tget d (tset m k v) k = v := by
  induction m with
  | nil => simp [tset, tget]
  | cons e m ih =>
    obtain ⟨j, w⟩ := e
    simp only [tset]
    split
    · simp [tget]
    · split
      · simp [tget]
      · simp [tget, *]

theorem tget_tset_other {α : Type} (d : α) (m : Table α) {k j : Nat} (v : α) (h : j ≠ k) :
    tget d (tset m k v) j = tget d m j := by
  induction m with
  | nil => simp [tset, tget, h]
  | cons e m ih =>
    obtain ⟨i, w⟩ := e
    simp only [tset]
    split
    · next hk => subst hk; simp [tget, h]
    · split
      · simp [tget, h]
      · simp [tget, ih]

@[simp] theorem tget_tmod_same {α : Type} (d : α) (m : Table α) (k : Nat) (f : α → α) :
    tget d (tmod d m k f) k = f (tget d m k) := by simp [tmod]

theorem tget_tmod_other {α : Type} (d : α) (m : Table α) {k j : Nat} (f : α → α) (h : j ≠ k) :
    tget d (tmod d m k f) j = tget d m j := by simp [tmod, tget_tset_other d m _ h]

theorem tset_tset {α : Type} (m : Table α) (k : Nat) (v w : α) : tset (tset m k v) k w = tset m k w := by
  induction m with
  | nil => simp [tset]
  | cons e m ih =>
    obtain ⟨j, u⟩ := e
    simp only [tset]
    split
    · simp [tset]
    · next h1 =>
      split
      · simp [tset]
      · next h2 => simp [tset, h1, h2, ih]

end Sys2Proof
end

