-- ==== Sys2Proof/Laws/Issue.lean ====
section
/-! SUPPORT. Issuing an instruction: what a ready thread does, what retiring changes, and the shared results. -/

namespace Sys2Proof.Machine

/-! ## Threads and their registers -/

theorem State.thread_modThread_same (s : State) (k : Nat) (f : Thread → Thread) : (s.modThread k f).thread k = f (s.thread k) := by
  simp [State.thread]

theorem State.thread_modThread_other (s : State) {k j : Nat} (f : Thread → Thread) (h : j ≠ k) :
    (s.modThread k f).thread j = s.thread j := by
  simp [State.thread, tget_tmod_other _ _ _ h]

@[simp] theorem State.th_modTh (s : State) (f : Thread → Thread) : (s.modTh f).th = f s.th := by
  simp [State.th, State.thread]

theorem State.thread_modTh_other (s : State) {k : Nat} (f : Thread → Thread) (h : k ≠ s.cur) : (s.modTh f).thread k = s.thread k := by
  simp [State.modTh, State.thread_modThread_other _ _ h]

theorem State.modTh_modTh (s : State) (f g : Thread → Thread) : (s.modTh f).modTh g = s.modTh fun t => g (f t) := by
  simp [State.modTh, State.modThread, tmod, tset_tset]

@[simp] theorem Thread.sreg_setS (t : Thread) (n k : Nat) (v : Word) :
    (t.setS n v).sreg k = if k = 0 then Reg.zero else if k = n then ⟨v, false, false, 0⟩ else t.sreg k := by
  unfold Thread.setS Thread.sreg
  by_cases hn : n = 0
  · by_cases hk : k = 0 <;> simp [hn, hk]
  · by_cases hk : k = 0
    · simp [hk]
    · by_cases h : k = n
      · subst h; simp [hk]
      · simp [hn, hk, h, tget_tset_other _ _ _ h]

@[simp] theorem Thread.vreg_setS (t : Thread) (n k : Nat) (v : Word) : (t.setS n v).vreg k = t.vreg k := by
  unfold Thread.setS; split <;> rfl
@[simp] theorem Thread.pred_setS (t : Thread) (n k : Nat) (v : Word) : (t.setS n v).pred k = t.pred k := by
  unfold Thread.setS; split <;> rfl
@[simp] theorem Thread.rest_setS (t : Thread) (n : Nat) (v : Word) : (t.setS n v).rest = t.rest := by
  unfold Thread.setS; split <;> rfl

@[simp] theorem Thread.vreg_setV (t : Thread) (n k : Nat) (v : Vec) :
    (t.setV n v).vreg k = if k = n then ⟨v, false, false, 0⟩ else t.vreg k := by
  unfold Thread.setV Thread.vreg
  split
  · next h => subst h; simp
  · next h => simp [tget_tset_other _ _ _ h]
@[simp] theorem Thread.sreg_setV (t : Thread) (n k : Nat) (v : Vec) : (t.setV n v).sreg k = t.sreg k := rfl
@[simp] theorem Thread.pred_setV (t : Thread) (n k : Nat) (v : Vec) : (t.setV n v).pred k = t.pred k := rfl
@[simp] theorem Thread.rest_setV (t : Thread) (n : Nat) (v : Vec) : (t.setV n v).rest = t.rest := rfl

@[simp] theorem Thread.pred_setP (t : Thread) (n k : Nat) (v : Word) :
    (t.setP n v).pred k = if k = 0 then BitVec.allOnes 64 else if k = n then v else t.pred k := by
  unfold Thread.setP Thread.pred
  by_cases hn : n = 0
  · by_cases hk : k = 0 <;> simp [hn, hk]
  · by_cases hk : k = 0
    · simp [hk]
    · by_cases h : k = n
      · subst h; simp [hk]
      · simp [hn, hk, h, tget_tset_other _ _ _ h]
@[simp] theorem Thread.sreg_setP (t : Thread) (n k : Nat) (v : Word) : (t.setP n v).sreg k = t.sreg k := by
  unfold Thread.setP; split <;> rfl
@[simp] theorem Thread.vreg_setP (t : Thread) (n k : Nat) (v : Word) : (t.setP n v).vreg k = t.vreg k := by
  unfold Thread.setP; split <;> rfl
@[simp] theorem Thread.rest_setP (t : Thread) (n : Nat) (v : Word) : (t.setP n v).rest = t.rest := by
  unfold Thread.setP; split <;> rfl

/-! ## Going on -/

/-- What `seqFrom` may change. -/
theorem Thread.seqFrom_keeps (t : Thread) (next : Word) (n : Nat) :
    (t.seqFrom next n).rest = t.rest ∧ (t.seqFrom next n).s = t.s ∧ (t.seqFrom next n).v = t.v ∧ (t.seqFrom next n).p = t.p ∧
      (t.seqFrom next n).fflags = t.fflags ∧ (t.seqFrom next n).instret = t.instret := by
  induction n generalizing t with
  | zero => exact ⟨rfl, rfl, rfl, rfl, rfl, rfl⟩
  | succ n ih =>
    simp only [Thread.seqFrom]
    split
    · split
      · exact ⟨rfl, rfl, rfl, rfl, rfl, rfl⟩
      · exact ih _
    · exact ⟨rfl, rfl, rfl, rfl, rfl, rfl⟩

/-- Where `seqFrom` goes depends on the thread's mode and loops alone. -/
theorem Thread.seqFrom_congr {t u : Thread} (next : Word) (n : Nat) (hl : u.loops = t.loops) (hs : u.ts.sup = t.ts.sup) :
    (u.seqFrom next n).pc = (t.seqFrom next n).pc ∧ (u.seqFrom next n).loops = (t.seqFrom next n).loops ∧
      (u.seqFrom next n).ldep = (t.seqFrom next n).ldep := by
  induction n generalizing t u with
  | zero => exact ⟨rfl, hl, rfl⟩
  | succ n ih =>
    have he : u.loop n = t.loop n := by simp [Thread.loop, hl]
    simp only [Thread.seqFrom, he, hs]
    split
    · split
      · simp [Thread.setPc, hl]
      · exact ih (by simp [hl]) hs
    · simp [Thread.setPc, hl]

/-- A retired instruction that changed the current thread by `g` alone, where `g` writes only registers and flags. -/
theorem retire_modTh (s : State) (len : Nat) (g : Thread → Thread) (ds dv dp : List Nat)
    (hrest : (g s.th).rest = s.th.rest) (hpc : (g s.th).pc = s.th.pc) (hl : (g s.th).loops = s.th.loops)
    (hd : (g s.th).ldep = s.th.ldep) (hs : (g s.th).ts = s.th.ts) (hi : (g s.th).instret = s.th.instret)
    (hds : ∀ r, r ∉ ds → (g s.th).sreg r = s.th.sreg r) (hdv : ∀ r, r ∉ dv → (g s.th).vreg r = s.th.vreg r)
    (hdp : ∀ r, r ∉ dp → (g s.th).pred r = s.th.pred r) :
    Frame s (finish s len (.retire (s.modTh g))) ds dv dp ∧ Advances s (finish s len (.retire (s.modTh g))) len := by
  have hk := Thread.seqFrom_keeps (g s.th) ((g s.th).pc + BitVec.ofNat 64 len) (g s.th).ldep
  have hc := Thread.seqFrom_congr (t := s.th) (u := g s.th) (s.th.pc + BitVec.ofNat 64 len) s.th.ldep hl (by rw [hs])
  have hth : (finish s len (.retire (s.modTh g))).th =
      ((g s.th).seqTo ((g s.th).pc + BitVec.ofNat 64 len)).retired := by simp [finish]
  constructor
  · constructor
    · intro a; simp [finish]
    · rfl
    · intro k h
      exact (State.thread_modTh_other (s.modTh g) _ h).trans (State.thread_modTh_other s _ h)
    · rw [hth]
      show Thread.rest _ = _
      rw [← hrest, ← hk.1]; rfl
    · intro r h
      rw [hth, ← hds r h]
      unfold Thread.sreg
      rw [show ((g s.th).seqTo ((g s.th).pc + BitVec.ofNat 64 len)).retired.s = (g s.th).s from hk.2.1]
    · intro r h
      rw [hth, ← hdv r h]
      unfold Thread.vreg
      rw [show ((g s.th).seqTo ((g s.th).pc + BitVec.ofNat 64 len)).retired.v = (g s.th).v from hk.2.2.1]
    · intro r h
      rw [hth, ← hdp r h]
      unfold Thread.pred
      rw [show ((g s.th).seqTo ((g s.th).pc + BitVec.ofNat 64 len)).retired.p = (g s.th).p from hk.2.2.2.1]
  · constructor
    · rw [hth]; rfl
    · rw [hth]; rfl
    · rw [hth]
      show ((g s.th).seqTo ((g s.th).pc + BitVec.ofNat 64 len)).instret + 1 = _
      rw [← hi]; congr 1; exact hk.2.2.2.2.2
    · rw [hth]
      show ((g s.th).seqTo ((g s.th).pc + BitVec.ofNat 64 len)).pc = _
      unfold Thread.seqTo; rw [hpc, hd]; exact hc.1
    · rw [hth]
      show ((g s.th).seqTo ((g s.th).pc + BitVec.ofNat 64 len)).loops = _
      unfold Thread.seqTo; rw [hpc, hd]; exact hc.2.1
    · rw [hth]
      show ((g s.th).seqTo ((g s.th).pc + BitVec.ofNat 64 len)).ldep = _
      unfold Thread.seqTo; rw [hpc, hd]; exact hc.2.2

/-! ## The checks of R116 -/

/-- A ready thread carries its instruction out. -/
theorem begin_ready {s : State} {h : Head} (act : State → Act) (r : Ready s h.pred h.uses h.defs)
    (hsup : h.sup = true → s.th.ts.sup = true) (hmover : h.mover = true → s.cur % 16 = 15)
    (hpath : h.path = .stall → s.th.spec = none) : begin s h act = act s := by
  have hp : (h.uses.any s.th.pending || h.defs.any s.th.pending) = false := by
    simp only [Bool.or_eq_false_iff, List.any_eq_false]
    exact ⟨fun x hx => by simp [r.pending x (by simp [hx])], fun x hx => by simp [r.pending x (by simp [hx])]⟩
  have hc : s.th.firstPoison h.uses = none := by
    have := r.clean
    generalize h.uses = l at this
    induction l with
    | nil => rfl
    | cons x l ih =>
      simp only [Thread.firstPoison, this x (by simp)]
      exact ih fun y hy => this y (by simp [hy])
  unfold begin
  have h1 : (h.sup && !s.th.ts.sup) = false := by
    cases hs : h.sup <;> simp [hs] at hsup ⊢; exact hsup
  have h2 : (h.mover && s.cur % 16 != 15) = false := by
    cases hs : h.mover <;> simp [hs] at hmover ⊢; exact hmover
  have h3 : (h.path == PathRule.stall && s.th.spec.isSome) = false := by
    cases hs : h.path <;> simp [hs] at hpath ⊢
    simp [hpath]
  have h4 : (!(s.pv h.pred).getLsbD 0) = false := by rw [r.on]; rfl
  simp only [r.held, h1, h2, h3, h4, hp, hc, Bool.false_eq_true, if_false]

/-- A ready thread carries its instruction out: the answer. -/
theorem issue_ready {s : State} {h : Head} (act : State → Act) (r : Ready s h.pred h.uses h.defs)
    (hsup : h.sup = true → s.th.ts.sup = true) (hmover : h.mover = true → s.cur % 16 = 15)
    (hpath : h.path = .stall → s.th.spec = none) : issue s h act = .next (finish s h.instr.len (act s)) := by
  rw [issue, begin_ready act r hsup hmover hpath]

/-- Issuing always gives a next state. -/
theorem issue_next (s : State) (h : Head) (act : State → Act) : ∃ t, issue s h act = .next t := ⟨_, rfl⟩

end Sys2Proof.Machine
end

