-- ==== Sys2Proof/Laws/Memory.lean ====
section
/-! SUPPORT. Memory operations keep the canonical form; a byte read after a write. -/

namespace Sys2Proof.Machine

theorem cellsFrom_mono {m : List Host.Cell} {lo lo' : Nat} (h : lo' ≤ lo) (hm : cellsFrom lo m = true) : cellsFrom lo' m = true := by
  cases m with
  | nil => rfl
  | cons e m =>
    obtain ⟨a, b⟩ := e
    simp only [cellsFrom, Bool.and_eq_true, decide_eq_true_eq] at *
    exact ⟨⟨by omega, hm.1.2⟩, hm.2⟩

theorem cellsFrom_put {m : List Host.Cell} {lo a : Nat} (v : Byte) (hm : cellsFrom lo m = true) (ha : lo ≤ a) :
    cellsFrom lo (cellPut m a v) = true := by
  induction m generalizing lo with
  | nil => unfold cellPut; split <;> simp_all [cellsFrom]
  | cons e m ih =>
    obtain ⟨j, b⟩ := e
    simp only [cellsFrom, Bool.and_eq_true, decide_eq_true_eq] at hm
    obtain ⟨⟨hj, hb⟩, hm⟩ := hm
    unfold cellPut
    split
    · next h =>
      subst h
      split
      · exact cellsFrom_mono (by omega) hm
      · next hv => simp [cellsFrom, ha, hv, hm]
    · split
      · split
        · simp [cellsFrom, hj, hb, hm]
        · next h1 h2 hv => simp only [cellsFrom, Bool.and_eq_true, decide_eq_true_eq]; exact ⟨⟨ha, hv⟩, ⟨⟨by omega, hb⟩, hm⟩⟩
      · next h1 h2 => simp only [cellsFrom, Bool.and_eq_true, decide_eq_true_eq]; exact ⟨⟨hj, hb⟩, ih hm (by omega)⟩

theorem cellsFrom_filter {m : List Host.Cell} {lo : Nat} (p : Host.Cell → Bool) (hm : cellsFrom lo m = true) :
    cellsFrom lo (m.filter p) = true := by
  induction m generalizing lo with
  | nil => rfl
  | cons e m ih =>
    obtain ⟨j, b⟩ := e
    simp only [cellsFrom, Bool.and_eq_true, decide_eq_true_eq] at hm
    simp only [List.filter_cons]
    split
    · simp only [cellsFrom, Bool.and_eq_true, decide_eq_true_eq]; exact ⟨hm.1, ih hm.2⟩
    · exact ih (cellsFrom_mono (by omega) hm.2)

theorem risingFrom_mono {m : List Nat} {lo lo' : Nat} (h : lo' ≤ lo) (hm : risingFrom lo m = true) : risingFrom lo' m = true := by
  cases m with
  | nil => rfl
  | cons a m =>
    simp only [risingFrom, Bool.and_eq_true, decide_eq_true_eq] at *
    exact ⟨by omega, hm.2⟩

theorem risingFrom_insert {m : List Nat} {lo a : Nat} (hm : risingFrom lo m = true) (ha : lo ≤ a) :
    risingFrom lo (insertNat m a) = true := by
  induction m generalizing lo with
  | nil => simp [insertNat, risingFrom, ha]
  | cons j m ih =>
    simp only [risingFrom, Bool.and_eq_true, decide_eq_true_eq] at hm
    unfold insertNat
    split
    · simp [risingFrom, hm]
    · split
      · simp only [risingFrom, Bool.and_eq_true, decide_eq_true_eq]; exact ⟨ha, by omega, hm.2⟩
      · simp only [risingFrom, Bool.and_eq_true, decide_eq_true_eq]; exact ⟨hm.1, ih hm.2 (by omega)⟩

theorem risingFrom_filter {m : List Nat} {lo : Nat} (p : Nat → Bool) (hm : risingFrom lo m = true) :
    risingFrom lo (m.filter p) = true := by
  induction m generalizing lo with
  | nil => rfl
  | cons j m ih =>
    simp only [risingFrom, Bool.and_eq_true, decide_eq_true_eq] at hm
    simp only [List.filter_cons]
    split
    · simp only [risingFrom, Bool.and_eq_true, decide_eq_true_eq]; exact ⟨hm.1, ih hm.2⟩
    · exact ih (risingFrom_mono (by omega) hm.2)

theorem risingFrom_remove {m : List Nat} {lo a : Nat} (hm : risingFrom lo m = true) : risingFrom lo (removeNat m a) = true := by
  induction m generalizing lo with
  | nil => rfl
  | cons j m ih =>
    simp only [risingFrom, Bool.and_eq_true, decide_eq_true_eq] at hm
    unfold removeNat
    split
    · exact risingFrom_mono (by omega) hm.2
    · simp only [risingFrom, Bool.and_eq_true, decide_eq_true_eq]; exact ⟨hm.1, ih hm.2⟩

theorem Memory.wf_iff (m : Memory) : m.wf = true ↔ cellsFrom 0 m.cells = true ∧ risingFrom 0 m.poison = true := by
  simp [Memory.wf]

/-! ## Every memory operation keeps the canonical form -/

theorem Memory.wf_putByte {m : Memory} (a : Nat) (v : Byte) (h : m.wf = true) : (m.putByte a v).wf = true := by
  rw [Memory.wf_iff] at *; exact ⟨cellsFrom_put v h.1 (by omega), h.2⟩

theorem Memory.wf_poisonWord {m : Memory} (a : Nat) (h : m.wf = true) : (m.poisonWord a).wf = true := by
  rw [Memory.wf_iff] at *; exact ⟨h.1, risingFrom_insert h.2 (by omega)⟩

theorem Memory.wf_cleanWord {m : Memory} (a : Nat) (h : m.wf = true) : (m.cleanWord a).wf = true := by
  rw [Memory.wf_iff] at *; exact ⟨h.1, risingFrom_remove h.2⟩

theorem Memory.wf_write {m : Memory} (a n v : Nat) (h : m.wf = true) : (m.write a n v).wf = true := by
  induction n generalizing m a v with
  | zero => exact h
  | succ n ih => exact ih _ _ (Memory.wf_putByte _ _ h)

theorem Memory.wf_store {m : Memory} (a n v : Nat) (h : m.wf = true) : (m.store a n v).wf = true := by
  unfold Memory.store
  split
  · exact Memory.wf_write _ _ _ (Memory.wf_cleanWord _ h)
  · split
    · exact h
    · exact Memory.wf_write _ _ _ h

theorem Memory.wf_putBytes {m : Memory} (a : Nat) (bs : List Byte) (h : m.wf = true) : (m.putBytes a bs).wf = true := by
  induction bs generalizing m a with
  | nil => exact h
  | cons b bs ih => exact ih _ (Memory.wf_putByte _ _ h)

theorem Memory.wf_storeWords {m : Memory} (a : Nat) (f : Nat → Nat) (n : Nat) (h : m.wf = true) : (m.storeWords a f n).wf = true := by
  induction n with
  | zero => exact h
  | succ n ih => exact Memory.wf_store _ _ _ ih

theorem Memory.wf_copyWords {m : Memory} (a b n : Nat) (h : m.wf = true) : (m.copyWords a b n).wf = true := by
  induction n with
  | zero => exact h
  | succ n ih =>
    unfold Memory.copyWords
    simp only
    split
    · exact Memory.wf_poisonWord _ (Memory.wf_store _ _ _ ih)
    · exact Memory.wf_store _ _ _ ih

theorem Memory.wf_erase {m : Memory} (lo hi : Nat) (h : m.wf = true) : (m.erase lo hi).wf = true := by
  rw [Memory.wf_iff] at *; exact ⟨cellsFrom_filter _ h.1, risingFrom_filter _ h.2⟩

theorem Memory.wf_foldl {α : Type} (f : Memory → α → Memory) (hf : ∀ m x, m.wf = true → (f m x).wf = true) (l : List α) {m : Memory}
    (h : m.wf = true) : (l.foldl f m).wf = true := by
  induction l generalizing m with
  | nil => exact h
  | cons x l ih => exact ih (hf _ _ h)

theorem Memory.wf_exchange {m : Memory} (a b n : Nat) (h : m.wf = true) : (m.exchange a b n).wf = true := by
  unfold Memory.exchange
  refine Memory.wf_foldl _ (fun m x hm => Memory.wf_poisonWord _ hm) _ ?_
  refine Memory.wf_foldl _ (fun m x hm => Memory.wf_poisonWord _ hm) _ ?_
  refine Memory.wf_foldl _ (fun m x hm => Memory.wf_putByte _ _ hm) _ ?_
  refine Memory.wf_foldl _ (fun m x hm => Memory.wf_putByte _ _ hm) _ ?_
  exact Memory.wf_erase _ _ (Memory.wf_erase _ _ h)

/-! ## Reading a byte after a write -/

theorem cellGet_put_same {m : List Host.Cell} (lo a : Nat) (v : Byte) (hm : cellsFrom lo m = true) :
    cellGet (cellPut m a v) a = v := by
  induction m generalizing lo with
  | nil => unfold cellPut; split <;> simp_all [cellGet]
  | cons e m ih =>
    obtain ⟨j, b⟩ := e
    simp only [cellsFrom, Bool.and_eq_true, decide_eq_true_eq] at hm
    unfold cellPut
    split
    · next h =>
      subst h
      split
      · next hv =>
        subst hv
        cases m with
        | nil => rfl
        | cons e m =>
          obtain ⟨k, c⟩ := e
          simp only [cellsFrom, Bool.and_eq_true, decide_eq_true_eq] at hm
          have : ¬ a = k := by omega
          have : a < k := by omega
          simp [cellGet, *]
      · simp [cellGet]
    · split
      · split
        · next h1 h2 hv => simp [cellGet, h1, h2, hv]
        · simp [cellGet]
      · next h1 h2 => simp only [cellGet, h1, h2, if_false]; exact ih _ hm.2

theorem cellGet_below {m : List Host.Cell} {lo a : Nat} (hm : cellsFrom lo m = true) (h : a < lo) : cellGet m a = Memory.blank := by
  cases m with
  | nil => rfl
  | cons e m =>
    obtain ⟨k, c⟩ := e
    simp only [cellsFrom, Bool.and_eq_true, decide_eq_true_eq] at hm
    have h1 : ¬ a = k := by omega
    have h2 : a < k := by omega
    simp [cellGet, h1, h2]

theorem cellGet_put_other {m : List Host.Cell} (lo : Nat) {a c : Nat} (v : Byte) (hm : cellsFrom lo m = true) (h : c ≠ a) :
    cellGet (cellPut m a v) c = cellGet m c := by
  induction m generalizing lo with
  | nil => unfold cellPut; split <;> simp [cellGet, h]
  | cons e m ih =>
    obtain ⟨j, b⟩ := e
    simp only [cellsFrom, Bool.and_eq_true, decide_eq_true_eq] at hm
    unfold cellPut
    split
    · next hj =>
      subst hj
      split
      · by_cases hc : c < a
        · rw [cellGet_below hm.2 (by omega)]; simp [cellGet, h, hc]
        · simp [cellGet, h, hc]
      · simp [cellGet, h]
    · split
      · next h1 h2 =>
        split
        · rfl
        · by_cases hc : c < a
          · have h3 : ¬ c = j := by omega
            have h4 : c < j := by omega
            simp [cellGet, h, hc, h3, h4]
          · simp [cellGet, h, hc]
      · next h1 h2 =>
        by_cases hj : c = j
        · simp [cellGet, hj]
        · simp only [cellGet, hj, if_false]
          rw [ih _ hm.2]

theorem Memory.byte_putByte_same {m : Memory} (a : Nat) (v : Byte) (h : m.wf = true) : (m.putByte a v).byte a = v :=
  cellGet_put_same 0 a v ((Memory.wf_iff m).mp h).1

theorem Memory.byte_putByte_other {m : Memory} {a c : Nat} (v : Byte) (h : m.wf = true) (hc : c ≠ a) :
    (m.putByte a v).byte c = m.byte c :=
  cellGet_put_other 0 v ((Memory.wf_iff m).mp h).1 hc

@[simp] theorem Memory.byte_poisonWord (m : Memory) (a c : Nat) : (m.poisonWord a).byte c = m.byte c := rfl
@[simp] theorem Memory.byte_cleanWord (m : Memory) (a c : Nat) : (m.cleanWord a).byte c = m.byte c := rfl

/-- A write leaves every byte outside it alone. -/
theorem Memory.byte_write_outside {m : Memory} {a n c : Nat} (v : Nat) (h : m.wf = true) (hc : c < a ∨ a + n ≤ c) :
    (m.write a n v).byte c = m.byte c := by
  induction n generalizing m a v with
  | zero => rfl
  | succ n ih =>
    unfold Memory.write
    rw [ih _ (Memory.wf_putByte _ _ h) (by omega), Memory.byte_putByte_other _ h (by omega)]

/-- A write of `n` bytes reads back, byte by byte. -/
theorem Memory.byte_write_inside {m : Memory} {a n k : Nat} (v : Nat) (h : m.wf = true) (hk : k < n) :
    (m.write a n v).byte (a + k) = BitVec.ofNat 8 (v / 256 ^ k) := by
  induction n generalizing m a v k with
  | zero => omega
  | succ n ih =>
    unfold Memory.write
    cases k with
    | zero =>
      rw [Memory.byte_write_outside _ (Memory.wf_putByte _ _ h) (by omega), Nat.add_zero, Memory.byte_putByte_same _ _ h]
      simp
    | succ k =>
      have := ih (m := m.putByte a (BitVec.ofNat 8 v)) (a := a + 1) (v := v / 256) (k := k) (Memory.wf_putByte _ _ h) (by omega)
      rw [show a + (k + 1) = a + 1 + k by omega, this, Nat.div_div_eq_div_mul, Nat.pow_succ, Nat.mul_comm]

/-- What is read back is what was written. -/
theorem Memory.read_write_same {m : Memory} (a n v : Nat) (h : m.wf = true) : (m.write a n v).read a n = v % 256 ^ n := by
  induction n generalizing m a v with
  | zero => simp [Memory.read, Nat.mod_one]
  | succ n ih =>
    simp only [Memory.read, Memory.write]
    rw [Memory.byte_write_outside _ (Memory.wf_putByte _ _ h) (by omega), Memory.byte_putByte_same _ _ h,
      ih _ _ (Memory.wf_putByte _ _ h), Nat.pow_succ, BitVec.toNat_ofNat]
    rw [Nat.mul_comm (256 ^ n) 256, Nat.mod_mul]

end Sys2Proof.Machine
end

