-- ==== Sys2Proof/Laws/Translate.lean ====
section
/-! SUPPORT. What a look-up and a translation answer: on a hit, on a miss with a walk free, and on a miss without one (R299, R300). -/

namespace Sys2Proof.Machine

/-- A look-up that meets one entry takes it and changes nothing. -/
theorem State.lookup_hit {s : State} {core va : Nat} {e : TlbEntry} (h : s.tlbHits core va = [e]) :
    s.lookup core va = (.leaf e.size e.leaf, s) := by simp [State.lookup, h]

/-- A look-up that misses while the die's 64 walks are under way is busy and changes nothing. -/
theorem State.lookup_busy {s : State} {core va : Nat} (h : s.tlbHits core va = []) (hb : s.walksBusy core = true) :
    s.lookup core va = (.busy, s) := by simp [State.lookup, h, hb]

/-- A look-up that misses with a walk free walks, and what the walk finds enters the TLB. -/
theorem State.lookup_miss {s : State} {core va : Nat} (h : s.tlbHits core va = []) (hb : s.walksBusy core = false) :
    s.lookup core va = (s.walk core va, match (s.walk core va).entry va with
      | none => s
      | some e => s.fillTlb core e) := by
  cases he : (s.walk core va).entry va <;> simp [State.lookup, h, hb, he]

/-- A translated address whose look-up is busy is busy. -/
theorem State.translate_busy {s : State} {core va : Nat} (user : Bool) (acc : Acc) (ht : isTranslated va = true)
    (h : s.tlbHits core va = []) (hb : s.walksBusy core = true) : s.translate core user acc va = (.busy, s) := by
  have hw : privTop ≤ va ∧ ¬(meshBase ≤ va ∧ va < binBase) ∧ ¬(binBase ≤ va ∧ va < reservedBase) := by
    simp only [isTranslated, Bool.or_eq_true, Bool.and_eq_true, decide_eq_true_eq] at ht
    unfold privTop meshBase reservedTop at ht
    unfold privTop meshBase binBase reservedBase
    omega
  unfold State.translate
  rw [if_neg (Nat.not_lt.mpr hw.1), if_neg hw.2.1, if_neg hw.2.2, State.lookup_busy h hb]
  simp [ht]

end Sys2Proof.Machine
end

