-- ==== Sys2Proof/Tests/Slice0.lean ====
section
/-! SUPPORT. Tests of the model on small states, the ill-formed terms that WellFormed refuses, words written out from the
spec's encodings, and for every statement with hypotheses a concrete state that meets them, clause by clause. They are
elaborated one after another, so that few threads wait for the kernel at a time. -/

set_option Elab.async false

namespace Sys2Proof.Tests

open Sys2Proof.Machine

/-! ## Small states -/

/-- A ready thread at 0x100 with the given scalar registers. -/
def thr (regs : List (Nat × Nat)) : Thread :=
  { Thread.idle with state := .ready, pc := 0x100, s := regs.map fun r => (r.1, ⟨BitVec.ofNat 64 r.2, false, false, 0⟩) }

/-- A paddock of core 0 alone, with the job tag 7. -/
def pad : Paddock := ⟨0, 0, 0, 0, 7, 0x100, 0, 0, 0, 0, 0, 0, false, [], false⟩

/-- Core 0 with XBOUND at 0x8000, in paddock 0. -/
def core0 : Core := { Core.zero with xbound := 0x8000, paddock := some 0 }

/-- A ready module in which one thread of core 0 has its turn. -/
def sys (slot : Nat) (t : Thread) : State :=
  { State.reset with ready := true, cur := slot, threads := [(slot, t)], cores := [(0, core0)], paddocks := [(0, pad)] }

/-- The same with doublewords placed in core 0's local memory. -/
def put (s : State) (ws : List (Nat × Nat)) : State :=
  { s with mem := ws.foldl (fun m w => m.write (Region.local 0 + w.1) 8 w.2) s.mem }

theorem tget_all {α : Type} (P : α → Bool) (d : α) (hd : P d = true) (t : Table α) (h : t.all (fun x => P x.2) = true) (k : Nat) :
    P (tget d t k) = true := by
  induction t with
  | nil => exact hd
  | cons x xs ih =>
    simp only [List.all_cons, Bool.and_eq_true] at h
    unfold tget
    split
    · exact h.1
    · exact ih h.2

theorem ready_of {s : State} {us ds : List RName} (hs : s.th.spec = none)
    (hr : s.th.s.all (fun x => !x.2.pend && !x.2.poison) = true) (hv : s.th.v.all (fun x => !x.2.pend && !x.2.poison) = true) :
    Ready s 0 us ds := by
  have h : ∀ r, s.th.pending r = false ∧ s.th.poisonOf r = none := by
    intro r
    cases r with
    | s n =>
      have := tget_all (fun r : Reg => !r.pend && !r.poison) Reg.zero rfl _ hr n
      simp only [Bool.and_eq_true, Bool.not_eq_true'] at this
      by_cases hn : n = 0
      · simp [Thread.pending, Thread.poisonOf, Thread.sreg, hn, Reg.zero]
      · simp [Thread.pending, Thread.poisonOf, Thread.sreg, hn, this.1, this.2]
    | v n =>
      have := tget_all (fun r : VReg => !r.pend && !r.poison) VReg.zero rfl _ hv n
      simp only [Bool.and_eq_true, Bool.not_eq_true'] at this
      simp [Thread.pending, Thread.poisonOf, Thread.vreg, this.1, this.2]
  exact ⟨by simp [Thread.held, hs], by simp [State.pv, Thread.pred], fun r _ => (h r).1, fun r _ => (h r).2⟩

theorem settled_of {s : State} (h1 : s.th.spec = none) (h2 : s.th.pen = []) (h3 : s.flights = []) (h4 : s.fabops = []) : Settled s :=
  ⟨h1, h2, by simp [h3], by simp [h4]⟩

/-! ## Ill-formed terms: one for each limit -/

theorem test_ill_shift : (Instr.shli true 32 1 2).wf = false ∧ (Instr.shri true 32 1 2).wf = false ∧
    (Instr.sari true 63 1 2).wf = false ∧ (Instr.rori true 32 1 2).wf = false ∧ (Instr.rori false 63 1 2).wf = true := by decide
theorem test_ill_loop : (Instr.loopi 0 5).wf = false ∧ (Instr.loops 0 1 2 3).wf = false := by decide
theorem test_ill_load : (Instr.ld 0 0 .page true .dword 1 2).wf = false ∧ (Instr.ld 0 0 .page true .word 1 2).wf = true := by decide
theorem test_ill_posted : (Instr.amoswap 0 true .page false 1 2 3).wf = false ∧ (Instr.amoadd 0 true .page false 1 2 3).wf = false ∧
    (Instr.amoand 0 true .page false 1 2 3).wf = false ∧ (Instr.amoor 0 true .page false 1 2 3).wf = false ∧
    (Instr.amoxor 0 true .page false 1 2 3).wf = false ∧ (Instr.amomin 0 true .page false 1 2 3).wf = false ∧
    (Instr.amomax 0 true .page false 1 2 3).wf = false ∧ (Instr.amominu 0 true .page false 1 2 3).wf = false ∧
    (Instr.amomaxu 0 true .page false 1 2 3).wf = false ∧ (Instr.amofadd 0 true .page 1 2 3).wf = false := by decide
theorem test_ill_vector_type : (Instr.vmul 0 .c64 1 2 3).wf = false ∧ (Instr.vmax 0 .c64 1 2 3).wf = false ∧
    (Instr.vmin 0 .c64 1 2 3).wf = false ∧ (Instr.vabs 0 .c64 1 2).wf = false ∧ (Instr.vmaxUnsigned 0 .f32 1 2 3).wf = false ∧
    (Instr.vminUnsigned 0 .c64 1 2 3).wf = false ∧ (Instr.vshl 0 .f16 1 2 3).wf = false ∧ (Instr.vshr 0 .f32 1 2 3).wf = false ∧
    (Instr.vsar 0 .bf16 1 2 3).wf = false ∧ (Instr.vadds 0 .f32 1 2 3).wf = false ∧ (Instr.vsubs 0 .c64 1 2 3).wf = false ∧
    (Instr.vdiv 0 .i32 1 2 3).wf = false ∧ (Instr.vsqrt 0 .c64 1 2).wf = false := by decide
theorem test_ill_fma : (Instr.vfma 0 .rne .i8 1 2 3).wf = false ∧ (Instr.vfma 0 .dyn .c64 1 2 3).wf = false ∧
    (Instr.vfms 0 .rne .c64 1 2 3).wf = false ∧ (Instr.vfnma 0 .rne .i8 1 2 3).wf = false ∧
    (Instr.vfnms 0 .rne .c64 1 2 3).wf = false := by decide
theorem test_ill_compare : (Instr.vcmplt 0 .c64 1 2 3).wf = false ∧ (Instr.vcmple 0 .c64 1 2 3).wf = false ∧
    (Instr.vcmpltUnsigned 0 .f32 1 2 3).wf = false ∧ (Instr.vcmpleUnsigned 0 .f16 1 2 3).wf = false ∧
    (Instr.vcmpun 0 .i8 1 2 3).wf = false := by decide
theorem test_ill_convert : (Instr.vcvt 0 .f32 .f32 .rne 1 2).wf = false ∧ (Instr.vcvt 0 .c64 .f32 .rne 1 2).wf = false ∧
    (Instr.vcvt 0 .f32 .c64 .rne 1 2).wf = false ∧ (Instr.vredmax 0 .c64 1 2).wf = false ∧ (Instr.vredmin 0 .c64 1 2).wf = false ∧
    (Instr.vpack 0 .e4m3 .rne 1 3).wf = false ∧ (Instr.vunpk 0 .e4m3 3 1 2).wf = false := by decide
theorem test_ill_lane : (Instr.vaddN 0 0 0).wf = false ∧ (Instr.vaddN 0 0 1).wf = true := by decide
theorem test_ill_pairs : (Instr.rgrab 0 31 1).wf = false ∧ (Instr.axn .f32 3).wf = false := by decide
theorem test_ill_tile : (Instr.mma 0 .bf16 10 1 2).wf = false ∧ (Instr.mma 0 .bf16 12 1 2).wf = false ∧
    (Instr.mma 0 .bf16 9 1 2).wf = true ∧ (Instr.msacc 0 0 12 1).wf = false ∧ (Instr.msaccV 0 0 12 1).wf = false ∧
    (Instr.mvs 0 .e4m3 12 1 2).wf = false := by decide
theorem test_ill_yard : (Instr.ywant false 1 2).wf = false ∧ (Instr.axs .f32 true 1 0).wf = false ∧
    (Instr.axs .f32 false 1 2).wf = false := by decide
theorem test_ill_reduction : (Instr.tkRed .and .f32 1 2).wf = false ∧ (Instr.tkReds .or .bf16 1).wf = false ∧
    (Instr.tkRed .or .i64 1 2).wf = true := by decide
/-! ## Words written out from the encodings (R111 to R134, R272, R454), one for each instruction -/

theorem test_decode_arithmetic :
    [0x280520C1, 0x282520C1, 0x284520C1, 0x286520C1, 0x288520C1, 0x28A520C1, 0x28C520C1, 0x28E520C1, 0x290520C1,
    0x292520C1, 0x214520C1, 0x216520C1, 0x218520C1, 0x21A520C1, 0x21C520C1, 0x21E520C1, 0x220520C1, 0x222520C1,
    0x224520C1, 0x226520C1, 0x228520C1, 0x2AA020C1, 0x2AC020C1, 0x2AE020C1, 0x230020C1, 0x232520C1, 0x234520C1,
    0x236520C1, 0x238520C1, 0x2BA520C1, 0x2BC520C1, 0x23E020C1].map decode32 =
      ([.add true 1 3 4 5, .sub true 1 3 4 5, .and true 1 3 4 5, .or true 1 3 4 5, .xor true 1 3 4 5,
      .shl true 1 3 4 5, .shr true 1 3 4 5, .sar true 1 3 4 5, .slt true 1 3 4 5, .sltu true 1 3 4 5, .mul 1 3 4 5,
      .mulh 1 3 4 5, .mulhu 1 3 4 5, .div 1 3 4 5, .divu 1 3 4 5, .rem 1 3 4 5, .remu 1 3 4 5, .min 1 3 4 5,
      .max 1 3 4 5, .minu 1 3 4 5, .maxu 1 3 4 5, .popc true 1 3 4, .clz true 1 3 4, .ctz true 1 3 4, .brev 1 3 4,
      .bfx 1 3 4 5, .bfi 1 3 4 5, .andn 1 3 4 5, .orn 1 3 4 5, .rol true 1 3 4 5, .ror true 1 3 4 5,
      .bswap 1 3 4].map fun i => .ok i) := rfl

theorem test_decode_vector :
    [0x20C520E3, 0x21C520E3, 0x22C520E3, 0x236520E3, 0x24C520E3, 0x25C520E3, 0x26C520E3, 0x27C520E3, 0x28C020E3,
    0x29C020E3, 0x2AC520E3, 0x2BC520E3, 0x2CC520E3, 0x2D0520E3, 0x2E0520E3, 0x2F0520E3, 0x300020E3, 0x312520E3,
    0x322020E3, 0x336020E3, 0x34C520E3, 0x35C520E3].map decode32 =
      ([.vadd 1 .i32 3 4 5, .vsub 1 .i32 3 4 5, .vmul 1 .i32 3 4 5, .vcmul 1 3 4 5, .vmax 1 .i32 3 4 5,
      .vmin 1 .i32 3 4 5, .vmaxUnsigned 1 .i32 3 4 5, .vminUnsigned 1 .i32 3 4 5, .vneg 1 .i32 3 4, .vabs 1 .i32 3 4,
      .vshl 1 .i32 3 4 5, .vshr 1 .i32 3 4 5, .vsar 1 .i32 3 4 5, .vand 1 3 4 5, .vor 1 3 4 5, .vxor 1 3 4 5,
      .vmov 1 3 4, .vdiv 1 .bf16 3 4 5, .vsqrt 1 .bf16 3 4, .vconj 1 3 4, .vadds 1 .i32 3 4 5,
      .vsubs 1 .i32 3 4 5].map fun i => .ok i) := rfl

theorem test_decode_fused :
    [0x2C4520E5, 0x2D4520E5, 0x2E4520E5, 0x2F4520E5].map decode32 =
      ([.vfma 1 .rup .f16 3 4 5, .vfms 1 .rup .f16 3 4 5, .vfnma 1 .rup .f16 3 4 5,
      .vfnms 1 .rup .f16 3 4 5].map fun i => .ok i) := rfl

theorem test_decode_vector_memory :
    [0x224730E7, 0x2A4730E7, 0x324730E7, 0x26473127, 0x2E473127, 0x36473127].map decode32 =
      ([.vld 1 .word .acq 3 6 7, .vlds 1 .word .acq 3 6 7, .vldx 1 .word .acq 3 6 7, .vst 1 .word .rel 4 6 7,
      .vsts 1 .word .rel 4 6 7, .vstx 1 .word .rel 4 6 7].map fun i => .ok i) := rfl

theorem test_decode_vector_moves :
    [0x20C520E9, 0x21C520E9, 0x22C520E9, 0x23C520E9, 0x24C520E9, 0x25C520E9, 0x264520E9, 0x28C320E9, 0x304020E9,
    0x30C520E9, 0x314520E9, 0x318520E9, 0x31A520E9, 0x31C520E9, 0x31E520E9, 0x120520E9, 0x122520E9, 0x124520E9,
    0x126020E9, 0x128020E9, 0x12A020E9, 0x12C020E9, 0x12E020E9, 0x38C020E9, 0x39C020E9, 0x3AC020E9, 0x3B2340E9,
    0x3C2521A9].map decode32 =
      ([.vcmpeq 1 .i32 3 4 5, .vcmpne 1 .i32 3 4 5, .vcmplt 1 .i32 3 4 5, .vcmple 1 .i32 3 4 5,
      .vcmpltUnsigned 1 .i32 3 4 5, .vcmpleUnsigned 1 .i32 3 4 5, .vcmpun 1 .f16 3 4 5, .vcvt 1 .f32 .i32 .rup 3 4,
      .vbcast 1 .word 3 4, .vext 1 .word 3 4 5, .vins 1 .word 3 4 5, .vperm 1 3 4 5, .vsel 1 3 4 5, .vslideup 1 3 4 5,
      .vslidedn 1 3 4 5, .pand 3 4 5, .por 3 4 5, .pxor 3 4 5, .pnot 3 4, .pmov 3 4, .pget 3 4, .pcnt 3 4, .pfirst 3 4,
      .vredadd 1 .i32 3 4, .vredmax 1 .i32 3 4, .vredmin 1 .i32 3 4, .vpack 1 .e5m2 .rup 3 8,
      .vunpk 1 .e5m2 6 4 5].map fun i => .ok i) := rfl

theorem test_decode_lane :
    [0x2860, 0x2862, 0x2864, 0x2866, 0x2868, 0x286A, 0x286C, 0x286E, 0x2870, 0x2872, 0x2874, 0x2876, 0x2878, 0x287A,
    0x287C, 0x287E].map decode16 =
      ([.vaddN 1 3 4, .vsubN 1 3 4, .vmulN 1 3 4, .vmaxN 1 3 4, .vminN 1 3 4, .vnegN 1 3 4, .vabsN 1 3 4,
      .vaddI32N 1 3 4, .vsubI32N 1 3 4, .vmulI32N 1 3 4, .vshlI32N 1 3 4, .vandN 1 3 4, .vorN 1 3 4, .vxorN 1 3 4,
      .vmovN 1 3 4, .vcmulC64N 1 3 4].map fun i => .ok i) := rfl

theorem test_decode_messages :
    [0x2005202B, 0x202020EB, 0x204520EB, 0x206520EB, 0x208020EB].map decode32 =
      ([.sendm 1 4 5, .recvm 1 3 4, .rcall 1 3 4 5, .rret 1 3 4 5, .rgrab 1 3 4].map fun i => .ok i) := rfl

theorem test_decode_groups :
    [0x4005202D, 0x4020002D, 0x404000ED, 0x4060002D, 0xC014A9AD, 0xC016A9AD].map decode32 =
      ([.gjoin 2 4 5, .gleave 2, .ginfo 2 3, .gabsent 2, .cbrAll 0x401 true 0x15 1 2,
      .cbrAny 0x401 true 0x15 1 2].map fun i => .ok i) := rfl

theorem test_decode_copies :
    [0x2008326F, 0x2028326F].map decode32 =
      ([.cpy 1 9 6 8, .cpyBar 1 9 6 8].map fun i => .ok i) := rfl

theorem test_decode_tile :
    [0x260000F1, 0x280020F1, 0x2AE020F1, 0x2C000031, 0x2E130031, 0x30002031, 0x202521B1, 0x220530F1, 0x240530F1,
    0x322521B1].map decode32 =
      ([.mzero 1 3, .mldz 1 3 4, .mstz 1 true .rup 3 4, .mcommit 1, .mwait 1 0x13, .mresume 1 4,
      .mma 1 (.mx .e5m2) 6 4 5, .msacc 1 3 6 5, .msaccV 1 3 6 5, .mvs 1 .e5m2 6 4 5].map fun i => .ok i) := rfl

theorem test_decode_yard :
    [0x00002033, 0x12A0B033, 0x2AA0B033, 0x30000033, 0x400000F3, 0x540520F3, 0x64052033, 0x74252033,
    0x840001B3].map decode32 =
      ([.ycfg 4, .yswap 0x15 0x16, .ywant true 0x15 0x16, .ysync, .ygen 3, .axa .f32 3 4 5, .axd .f32 4 5,
      .axs .f32 true 4 5, .axn .f32 6].map fun i => .ok i) := rfl

theorem test_decode_fabric :
    [0x200020F5, 0x202520F5, 0x204020F5, 0x206520F5, 0x208520F5].map decode32 =
      ([.put 1 3 4, .puts 1 3 4 5, .get 1 3 4, .radd 1 3 4 5, .coll 1 3 4 5].map fun i => .ok i) := rfl

theorem test_decode_system :
    [0x20000037, 0x20200037, 0x20400037, 0x206918F7, 0x20891937, 0x20A02037, 0x20C02077, 0x20E52037].map decode32 =
      ([.exit 1, .trap 1, .tret 1, .srd 1 3 0x123, .swr 1 4 0x123, .ctxs 1 4, .ctxr 1 true 4,
      .tinv 1 4 5].map fun i => .ok i) := rfl

theorem test_decode_tack :
    [0x0052000B, 0x0052118B, 0x0002218B, 0x0052300B, 0x0052400B, 0x0052500B, 0x0000600B, 0x0002700B, 0x4852002B,
    0x1802102B].map decodeTack =
      ([.tkSend 4 5, .tkRecv 3 4 5, .tkRecvAny 3 4, .tkCopy 4 5, .tkWait 4 5, .tkSig 4 5, .tkFlush, .tkDone 4,
      .tkRed .or .i64 4 5, .tkReds .min .i64 4].map fun i => .ok i) := rfl

theorem test_decode_immediate :
    [0x876520C3, 0x876520C5, 0x876520C7, 0x876520C9, 0x0AA020CB, 0x1AA020CB, 0x2AA020CB, 0x3AA020CB, 0x876520CD,
    0x091A28CF, 0x091A28D1].map decode32 =
      ([.addi 3 4 0x8765, .andi 3 4 0x8765, .ori 3 4 0x8765, .xori 3 4 0x8765, .shli true 0x15 3 4,
      .shri true 0x15 3 4, .sari true 0x15 3 4, .rori true 0x15 3 4, .slti 3 4 0x8765, .lhi 3 0x12345,
      .addpc 3 0x12345].map fun i => .ok i) := rfl

theorem test_decode_control :
    [0x80102913, 0x80112913, 0x80122913, 0x80132913, 0x80142913, 0x80152913, 0x80162913, 0x80172913, 0x80180113,
    0x80190113, 0x801A0113, 0x091A28D5, 0x876520D7, 0x54B0C859, 0xD4A220D9].map decode32 =
      ([.beq 4 5 0x801, .bne 4 5 0x801, .blt 4 5 0x801, .bge 4 5 0x801, .bltu 4 5 0x801, .bgeu 4 5 0x801,
      .bbs 4 5 0x801, .bbc 4 5 0x801, .bany 4 0x801, .ball 4 0x801, .bnone 4 0x801, .jal 3 0x12345, .jalr 3 4 0x8765,
      .loopi 0x2a5 0x4321, .loops 0x2a5 2 3 4].map fun i => .ok i) := rfl

theorem test_decode_memory :
    [0x3F8E30DB, 0x3F8A311D, 0x2E0430DF, 0x2E2430DF, 0x2E4430DF, 0x2E6430DF, 0x2E8430DF, 0x2EA430DF, 0x2EC430DF,
    0x2EE430DF, 0x2F0430DF, 0x2F2430DF, 0x2F4430DF, 0x20002021, 0x20200021, 0x204520A1, 0x20602021, 0x20852021,
    0x20A52021, 0x20C500E1, 0x20E30021, 0x21002021, 0x21202021].map decode32 =
      ([.ld 1 0xfc .acq true .word 3 6, .st 1 0xfc .rel .word 4 6, .amoswap 1 false .acqrel true 3 4 6,
      .amoadd 1 false .acqrel true 3 4 6, .amoand 1 false .acqrel true 3 4 6, .amoor 1 false .acqrel true 3 4 6,
      .amoxor 1 false .acqrel true 3 4 6, .amomin 1 false .acqrel true 3 4 6, .amomax 1 false .acqrel true 3 4 6,
      .amominu 1 false .acqrel true 3 4 6, .amomaxu 1 false .acqrel true 3 4 6, .amocas 1 .acqrel true 3 4 6,
      .amofadd 1 false .acqrel 3 4 6, .fence 1 4, .fenceLb 1, .watch 1 .geu 4 5, .barArr 1 4, .barWait 1 4 5,
      .mput 1 4 5, .mget 1 3 5, .wait 1 .amo, .twaitSrc 1 4, .twaitVis 1 4].map fun i => .ok i) := rfl


/-! ## States that meet the hypotheses of the statements, clause by clause -/

/-- Slot 0 ready with two scalar registers. -/
def two (x y : Nat) : State := sys 0 (thr [(1, x), (2, y)])

theorem witness_ScalarArithmetic : Ready (two 5 7) 0 [.s 1, .s 2] [.s 3] ∧ Ready (two 5 7) 0 [.s 1, .s 2] [.s 0] :=
  ⟨ready_of rfl rfl rfl, ready_of rfl rfl rfl⟩

theorem witness_ShiftsAndBits : Ready (two 5 7) 0 [.s 1, .s 2, .s 3] [.s 3] ∧ (true = true → (31 : BitVec 6).toNat < 32) :=
  ⟨ready_of rfl rfl rfl, by decide⟩

theorem witness_Division : Ready (two (2 ^ 63) (2 ^ 64 - 1)) 0 [.s 1, .s 2] [.s 3] ∧ (two 5 0).sv 2 = 0 ∧
    ((two (2 ^ 63) (2 ^ 64 - 1)).sv 1).toInt = -2 ^ 63 ∧ ((two (2 ^ 63) (2 ^ 64 - 1)).sv 2).toInt = -1 ∧
    Ready (two 5 0) 0 [.s 1, .s 2] [.s 3] ∧ Ready (two 5 7) 0 [.s 1, .s 2] [.s 3] ∧ (two 5 7).sv 2 ≠ 0 ∧
    ¬ (((two 5 7).sv 1).toInt = -2 ^ 63 ∧ ((two 5 7).sv 2).toInt = -1) :=
  ⟨ready_of rfl rfl rfl, by decide, by decide, by decide, ready_of rfl rfl rfl, ready_of rfl rfl rfl, by decide, by decide⟩

/-- Slot 0 ready at the last word of local memory. -/
def last (x y : Nat) : State := sys 0 { thr [(1, x), (2, y)] with pc := 0xFFFFC }

theorem witness_ControlTransfers_branch : Ready (last 5 5) 0 [.s 1, .s 2] [] ∧ (last 5 5).sv 1 = (last 5 5).sv 2 ∧
    (last 5 5).th.spec = none ∧ ((last 5 5).th.pc + (1 : BitVec 12).signExtend 64 <<< 1).toNat < 2 ^ 20 ∧
    2 ^ 20 ≤ ((last 5 5).th.pc + (2 : BitVec 12).signExtend 64 <<< 1).toNat ∧ ¬ ((last 5 7).sv 1 = (last 5 7).sv 2) ∧
    (last 5 5).pv 0 = BitVec.allOnes 64 ∧ (last 5 5).pv 1 = 0 ∧ Ready (last 5 5) 0 [] [] :=
  ⟨ready_of rfl rfl rfl, by decide, rfl, by decide, by decide, by decide, by decide, by decide, ready_of rfl rfl rfl⟩

theorem witness_ControlTransfers_jump : Ready (last (2 ^ 20 - 2) 0) 0 [.s 1] [.s 3] ∧ Ready (last 0 0) 0 [] [.s 3] ∧
    ((last 0 0).th.pc + (1 : BitVec 21).signExtend 64 <<< 1).toNat < 2 ^ 20 ∧
    2 ^ 20 ≤ ((last 0 0).th.pc + (2 : BitVec 21).signExtend 64 <<< 1).toNat ∧
    ((last (2 ^ 20 - 2) 0).sv 1 + (0 : BitVec 16).signExtend 64).toNat < 2 ^ 20 ∧
    ((last (2 ^ 20 - 2) 0).sv 1 + (0 : BitVec 16).signExtend 64).getLsbD 0 = false ∧
    ((last (2 ^ 20 - 2) 0).sv 1 + (1 : BitVec 16).signExtend 64).getLsbD 0 = true ∧
    2 ^ 20 ≤ ((last (2 ^ 20 - 2) 0).sv 1 + (2 : BitVec 16).signExtend 64).toNat :=
  ⟨ready_of rfl rfl rfl, ready_of rfl rfl rfl, by decide, by decide, by decide, by decide, by decide, by decide⟩

theorem witness_PredicateOffAdvances : (two 5 7).th.held = false ∧ ((two 5 7).pv 1).getLsbD 0 = false ∧
    (sys 15 { thr [] with ts := { TStatus.zero with sup := true } }).th.ts.sup = true ∧
    (sys 15 { thr [] with ts := { TStatus.zero with sup := true } }).th.held = false ∧
    ((sys 15 { thr [] with ts := { TStatus.zero with sup := true } }).pv 7).getLsbD 0 = false ∧
    (sys 15 { thr [] with ts := { TStatus.zero with sup := true } }).cur % 16 = 15 := by decide

/-- Slot 0 with s1 pending or poisoned. -/
def marked (r : Reg) : State := sys 0 { thr [] with s := [(1, r)] }

theorem witness_IssueChecks : (two 5 7).th.held = false ∧ (two 5 7).th.spec = none ∧ (two 5 7).th.ts.sup = false ∧
    (two 5 7).cur % 16 ≠ 15 ∧ ((two 5 7).pv 0).getLsbD 0 = true ∧
    (marked ⟨0, true, false, 0⟩).th.held = false ∧ (marked ⟨0, true, false, 0⟩).th.pending (.s 1) = true ∧
    ((marked ⟨0, true, false, 0⟩).pv 0).getLsbD 0 = true ∧
    (marked ⟨0, false, true, 4⟩).th.held = false ∧ (marked ⟨0, false, true, 4⟩).th.spec = none ∧
    ((marked ⟨0, false, true, 4⟩).pv 0).getLsbD 0 = true ∧
    (∀ r ∈ [(1 : RegNo), 2, 3], (marked ⟨0, false, true, 4⟩).th.pending (.s r.toNat) = false) ∧
    ((marked ⟨0, false, true, 4⟩).th.sreg 1).poison = true := by decide

/-- Slot 0 with a loop stack. -/
def looping (pc : Word) (es : List LoopEntry) : State :=
  sys 0 { thr [] with pc := pc, loops := (List.range es.length).zip es, ldep := es.length }

theorem witness_HardwareLoops_loopi :
    let e : LoopEntry := ⟨0x100, 0x110, 3, false⟩
    Ready (looping 0x100 [e]) 0 [] [] ∧ (looping 0x100 [e]).th.spec = none ∧ (5 : BitVec 10) ≠ 0 ∧
    (∃ e', (looping 0x100 [e]).th.innermost 1 = some e' ∧ e'.lend < (0x104 : Word) + (7 : BitVec 10).setWidth 64 <<< 1) ∧
    (¬ ∃ e', (looping 0x100 [e]).th.innermost 1 = some e' ∧ e'.lend < (0x104 : Word) + (6 : BitVec 10).setWidth 64 <<< 1) ∧
    (looping 0x100 [e]).th.ldep < 4 ∧ 4 ≤ (looping 0x100 [e, e, e, e]).th.ldep := by
  refine ⟨ready_of rfl rfl rfl, rfl, by decide, ⟨_, rfl, by decide⟩, ?_, by decide, by decide⟩
  rintro ⟨e', h, h2⟩
  cases h
  exact absurd h2 (by decide)

/-- Slot 0 with a shape record of two dimensions, 3 and 0 elements, at s1 = 0x8000. -/
def shaped : State := put (sys 0 (thr [(1, 0x8000)])) [(0x8000, 2 * 2 ^ 52 + 3 * 2 ^ 48), (0x8008, 8 * 2 ^ 32 + 3), (0x8010, 24 * 2 ^ 32)]

theorem witness_HardwareLoops_loops : Ready shaped 0 [.s 1] [.s 3] ∧ shaped.th.spec = none ∧
    (∃ r, shaped.readShape (shaped.sv 1).toNat = .ok r shaped ∧ r.rank = 2 ∧ r.n.getD 0 0 = 3 ∧ r.n.getD 1 0 = 0) ∧
    shaped.th.innermost shaped.th.ldep = none ∧ shaped.th.ldep < 4 :=
  ⟨ready_of rfl rfl rfl, rfl, ⟨_, rfl, rfl, rfl, rfl⟩, rfl, by decide⟩

theorem witness_HardwareLoops_end :
    let s := looping 0x100 [⟨0x80, 0x104, 1, false⟩]
    Ready s 0 [.s 1, .s 2] [.s 3] ∧ s.th.ldep = 0 + 1 ∧ (s.th.loop 0).sup = s.th.ts.sup ∧ s.th.pc + 4 = (s.th.loop 0).lend ∧
    (s.th.loop 0).lcnt.toNat ≤ 1 ∧ 1 < ((looping 0x100 [⟨0x80, 0x104, 2, false⟩]).th.loop 0).lcnt.toNat :=
  ⟨ready_of rfl rfl rfl, rfl, rfl, rfl, by decide, by decide⟩

theorem witness_VectorIntegers : Ready (two 5 7) 0 [.v 1, .v 2, .v 3] [] ∧ VType.i8.isInt = true ∧ VType.i64.isInt = true ∧
    8 ∈ [1, 2, 4, 8] ∧ (∀ k, k < 64 / 8 → ((fun j => (j, (0 : Flags))) k).1 < 2 ^ (8 * 8)) :=
  ⟨ready_of rfl rfl rfl, rfl, rfl, by decide, by decide⟩

/-- Slot 0 with the given rounding mode. -/
def rounding (m : BitVec 3) : State := sys 0 { thr [] with frm := m }

theorem witness_VectorFloats : Ready (rounding 2) 0 [.v 1, .v 2, .v 3] [] ∧ (rounding 2).th.rounding .dyn = some .rdn ∧
    VType.bf16.isReal = true ∧ (rounding 4).th.held = false ∧ (rounding 4).th.spec = none ∧ 4 ≤ (rounding 4).th.frm.toNat :=
  ⟨ready_of rfl rfl rfl, rfl, rfl, rfl, rfl, by decide⟩

theorem witness_LaneForms : Ready (two 5 7) 0 [.v (3 : BitVec 4).toNat, .v (15 : BitVec 4).toNat] [] := ready_of rfl rfl rfl

theorem witness_VectorCompares : Ready (two 5 7) 0 [.v 1, .v 2] [] ∧ VType.i16.isInt = true ∧ VType.f16.isReal = true :=
  ⟨ready_of rfl rfl rfl, rfl, rfl⟩

theorem witness_PredicateOps : Ready (two 5 7) 0 [] [] ∧ Ready (two 5 7) 0 [.s 1] [] ∧ Ready (two 5 7) 0 [] [.s 3] ∧
    (0 < 8 ∧ 0 < 5 ∧ 7 < (8 : BitVec 5).toNat) :=
  ⟨ready_of rfl rfl rfl, ready_of rfl rfl rfl, ready_of rfl rfl rfl, by decide⟩

theorem witness_LaneMoves : Ready (two 5 7) 0 [.s 1, .s 2, .v 3] [] ∧ Ready (two 5 7) 0 [.v 4, .s 2] [.v 6, .v 7] ∧
    Ready (two 5 7) 0 [.v 4, .v 5] [.v 3] ∧ (two 5 7).th.rounding .rup = some .rup ∧ VType.f32 ≠ .i16 ∧ VType.i16 ≠ .c64 ∧
    VType.c64.isInt = false ∧ VType.i32.isInt = true ∧ Ready (two 5 7) 0 [.v 1] [.s 3] :=
  ⟨ready_of rfl rfl rfl, ready_of rfl rfl rfl, ready_of rfl rfl rfl, rfl, by decide, by decide, rfl, rfl, ready_of rfl rfl rfl⟩

/-! ### Memory -/

theorem witness_LocalLoads_scalar :
    let s := put (two 0x8000 7) [(0x8000, 0xFFFF8001)]
    Ready s 0 [.s 1] [.s 3] ∧ Settled s ∧ Reaches s (s.sv 1 + (0 : BitVec 8).signExtend 64 * BitVec.ofNat 64 4).toNat 4 ∧
    Reaches (two (2 ^ 20 - 8) 0) ((two (2 ^ 20 - 8) 0).sv 1).toNat 8 :=
  ⟨ready_of rfl rfl rfl, settled_of rfl rfl rfl rfl, ⟨by decide, by decide, by decide, rfl, rfl⟩,
    ⟨by decide, by decide, by decide, rfl, rfl⟩⟩

theorem witness_LocalLoads_vector :
    let s := two 0x8000 8
    Ready s 0 [.s 1, .s 2, .v 3] [] ∧ Settled s ∧
    ∀ k, k < 64 / 8 → (s.pv 0).getLsbD (8 * k) = true → Reaches s (s.sv 1 + BitVec.ofNat 64 k * s.sv 2).toNat 8 := by
  refine ⟨ready_of rfl rfl rfl, settled_of rfl rfl rfl rfl, fun k hk _ => ?_⟩
  have : k = 0 ∨ k = 1 ∨ k = 2 ∨ k = 3 ∨ k = 4 ∨ k = 5 ∨ k = 6 ∨ k = 7 := by omega
  rcases this with h | h | h | h | h | h | h | h <;> subst h <;> exact ⟨by decide, by decide, by decide, rfl, rfl⟩

theorem no_watches {s : State} (h : s.cores.all (fun x => x.2.watches.isEmpty) = true) : NoWatches s := fun c hc => by
  simpa using List.all_eq_true.mp h c hc

theorem unwatched_of {s : State} (a : Nat) (h : s.cores.all (fun x => x.2.watches.isEmpty) = true) : Unwatched s a := by
  intro c hc w hw
  simp [no_watches h c hc] at hw

theorem witness_LocalStores_scalar :
    let s := two 0x8000 8
    s.Inv ∧ Ready s 0 [.s 2, .s 1] [] ∧ Settled s ∧ Reaches s (s.sv 1 + (1 : BitVec 8).signExtend 64 * BitVec.ofNat 64 1).toNat 1 ∧
    Unwatched s 0x8001 :=
  ⟨rfl, ready_of rfl rfl rfl, settled_of rfl rfl rfl rfl, ⟨by decide, by decide, by decide, rfl, rfl⟩, unwatched_of _ rfl⟩

theorem witness_LocalStores_vector :
    let s := two 0x8000 8
    s.Inv ∧ Settled s ∧ Ready s 0 [.v 3, .s 1, .s 2] [] ∧
    ∀ k, k < 64 / 8 ∧ (s.pv 0).getLsbD (8 * k) = true →
      Reaches s (s.sv 1 + s.sv 2 + BitVec.ofNat 64 (k * 8)).toNat 8 ∧ Unwatched s (s.sv 1 + s.sv 2 + BitVec.ofNat 64 (k * 8)).toNat := by
  refine ⟨rfl, settled_of rfl rfl rfl rfl, ready_of rfl rfl rfl, fun k hk => ⟨?_, unwatched_of _ rfl⟩⟩
  have : k = 0 ∨ k = 1 ∨ k = 2 ∨ k = 3 ∨ k = 4 ∨ k = 5 ∨ k = 6 ∨ k = 7 := by omega
  rcases this with h | h | h | h | h | h | h | h <;> subst h <;> exact ⟨by decide, by decide, by decide, rfl, rfl⟩

theorem witness_LocalAtomics :
    let s := two 0x8000 8
    s.Inv ∧ Settled s ∧ Unwatched s (s.sv 1).toNat ∧ Ready s 0 [.s 2, .s 1, .s 3] [.s 3] ∧ Ready s 0 [.s 2, .s 1] [] ∧
    Reaches s (s.sv 1).toNat 8 ∧ Reaches s (s.sv 1).toNat 4 :=
  ⟨rfl, settled_of rfl rfl rfl rfl, unwatched_of _ rfl, ready_of rfl rfl rfl, ready_of rfl rfl rfl,
    ⟨by decide, by decide, by decide, rfl, rfl⟩, ⟨by decide, by decide, by decide, rfl, rfl⟩⟩

theorem witness_AccessTraps : (two 0x8001 0).th.spec = none ∧ Ready (two 0x8001 0) 0 [.s 2, .s 1] [.s 3] ∧
    ((two 0x8001 0).sv 1).toNat % 8 ≠ 0 ∧
    ((two 0x7FF8 0).sv 1).toNat % 8 = 0 ∧ ((two 0x7FF8 0).sv 1).toNat < 2 ^ 20 ∧ (two 0x7FF8 0).th.ts.sup = false ∧
    ((two 0x7FF8 0).sv 1).toNat < ((two 0x7FF8 0).core (two 0x7FF8 0).here).xbound.toNat ∧
    (let at_ := ((two (meshBase + 2 ^ 20) 0).sv 1).toNat
     at_ % 8 = 0 ∧ meshBase ≤ at_ ∧ at_ < binBase ∧
     (two (meshBase + 2 ^ 20) 0).samePaddock (two (meshBase + 2 ^ 20) 0).here ((at_ - meshBase) / 2 ^ 20) = false) ∧
    ((two (2 ^ 48) 0).sv 1).toNat % 8 = 0 ∧ 2 ^ 48 ≤ ((two (2 ^ 48) 0).sv 1).toNat :=
  ⟨rfl, ready_of rfl rfl rfl, by decide, by decide, by decide, rfl, by decide, by decide, by decide, by decide⟩

/-- Two cores of one paddock; slot 0 of core 0 has its turn. -/
def pair (x y : Nat) : State :=
  { two x y with cores := [(0, core0), (1, core0)], paddocks := [(0, { pad with xhi := 1 })] }

/-- A load of one doubleword under way in core 1, performed or not. -/
def aLoad (done : Bool) (place : Place) : State :=
  { pair 0 0 with
      flights := [⟨9, 0, .load, [⟨0, 0, place, 8, 0, [], 0, done, false, none, false⟩], done, false, false, .scalar 3 8 false, false, false, false⟩] }

theorem no_fabops {s : State} (n : Nat) (h : s.fabops = []) : ∀ o ∈ s.fabops, o.tid ≠ n := by simp [h]

theorem witness_RemoteAccesses_issue :
    let s := pair (meshBase + 2 ^ 20 + 0x8000) 0
    Ready s 0 [.s 1] [.s 3] ∧ Settled s ∧ s.th.ldCnt < 32 ∧ (s.sv 1).toNat % 8 = 0 ∧ meshBase ≤ (s.sv 1).toNat ∧
    (s.sv 1).toNat < binBase ∧ s.samePaddock s.here (((s.sv 1).toNat - meshBase) / 2 ^ 20) = true ∧
    (s.core 1).xbound.toNat ≤ ((s.sv 1).toNat - meshBase) % 2 ^ 20 :=
  ⟨ready_of rfl rfl rfl, settled_of rfl rfl rfl rfl, by decide, by decide, by decide, by decide, rfl, by decide⟩

theorem witness_RemoteAccesses_perform : ∃ f e, (aLoad false (.loc 1 0x8000)).flights = [f] ∧ f.elems = [e] ∧ f.kind = .load ∧
    f.dest = .scalar 3 e.w false ∧ f.path = false ∧ f.orphan = false ∧ e.refused = none ∧ e.done = false ∧ e.place = .loc 1 0x8000 ∧
    e.laid = [] ∧ (aLoad false (.loc 1 0x8000)).heldAt e.place e.w = false ∧
    (aLoad false (.loc 1 0x8000)).mem.anyPoison (Region.local 1 + 0x8000) e.w = false ∧
    (∀ o ∈ (aLoad false (.loc 1 0x8000)).fabops, o.tid ≠ f.tid) :=
  ⟨_, _, rfl, rfl, rfl, rfl, rfl, rfl, rfl, rfl, rfl, rfl, rfl, rfl, no_fabops _ rfl⟩

theorem witness_RemoteAccesses_arrival : ∃ f e, (aLoad true (.loc 1 0x8000)).flights = [f] ∧ f.elems = [e] ∧ f.kind = .load ∧
    f.dest = .scalar 3 e.w false ∧ f.path = false ∧ f.orphan = false ∧ e.refused = none ∧ e.done = true ∧ e.poison = false ∧
    (aLoad true (.loc 1 0x8000)).swappedOut f.tid = false ∧ ((aLoad true (.loc 1 0x8000)).thread f.tid).spec = none :=
  ⟨_, _, rfl, rfl, rfl, rfl, rfl, rfl, rfl, rfl, rfl, rfl, rfl⟩

theorem witness_RemoteAccesses_refusal : ∃ f e, (aLoad false (.host 64)).flights = [f] ∧ f.elems = [e] ∧ f.kind = .load ∧
    f.dest = .scalar 3 e.w false ∧ f.path = false ∧ f.orphan = false ∧ e.done = false ∧ e.place = .host 64 ∧ 3 ≠ 0 ∧
    (aLoad false (.host 64)).swappedOut f.tid = false ∧ ((aLoad false (.host 64)).thread f.tid).spec = none :=
  ⟨_, _, rfl, rfl, rfl, rfl, rfl, rfl, rfl, rfl, by decide, rfl, rfl⟩

theorem witness_SynchronisationCompletes :
    Ready (two 0 0x30000) 0 [.s 1] [] ∧ Settled (two 0 0) ∧ ((two (0x01010000) 0).scope 1).isSome = true ∧
    (1 : RegNo) ≠ 0 ∧ bits ((two 1 0).sv 1).toNat 23 16 < bits ((two 1 0).sv 1).toNat 7 0 ∧
    (two 0 0).th.ldCnt = 0 ∧ (two 0 0).th.stCnt = 0 ∧ (two 0 0).th.amoCnt = 0 ∧ (two 0 0).th.fabCnt = 0 ∧ (two 0 0).th.errSt = false ∧
    (two 0 0).th.errFab = false ∧ (sys 0 { thr [] with ldCnt := 1 }).th.ldCnt ≠ 0 ∧ Ready (sys 0 { thr [] with ldCnt := 1 }) 0 [] [] ∧
    (sys 0 { thr [] with errSt := true }).th.stCnt = 0 ∧ (sys 0 { thr [] with errSt := true }).th.errSt = true ∧
    Ready (sys 0 { thr [] with errSt := true }) 0 [] [] ∧ ((two 3 0).th.sreg 1).poison = false ∧
    ((two 3 0).sv 1).getLsbD 0 = true ∧ ((two 3 0).sv 1).getLsbD 1 = true ∧ ((two 0 0).sv 1).getLsbD 0 = false ∧
    ((two 0 0).sv 1).getLsbD 1 = false :=
  ⟨ready_of rfl rfl rfl, settled_of rfl rfl rfl rfl, rfl, by decide, by decide, rfl, rfl, rfl, rfl, rfl, rfl, by decide,
    ready_of rfl rfl rfl, rfl, rfl, ready_of rfl rfl rfl, rfl, by decide, by decide, by decide, by decide⟩

theorem witness_SynchronisationCompletes_wait :
    let s := sys 0 { thr [] with stCnt := 1, amoCnt := 2, fabCnt := 3 }
    let u := sys 0 { thr [] with errFab := true }
    Ready s 0 [] [] ∧ s.th.spec = none ∧ s.th.stCnt ≠ 0 ∧ s.th.amoCnt ≠ 0 ∧ s.th.fabCnt ≠ 0 ∧
    s.th.ldCnt + s.th.stCnt + s.th.amoCnt + s.th.fabCnt ≠ 0 ∧ Ready u 0 [] [] ∧ u.th.spec = none ∧ u.th.fabCnt = 0 ∧
    u.th.errSt = false ∧ u.th.errFab = true :=
  ⟨ready_of rfl rfl rfl, rfl, by decide, by decide, by decide, by decide, ready_of rfl rfl rfl, rfl, rfl, rfl, rfl⟩

/-- Slot 0 beside a mailbox 7 that holds a value. -/
def boxed : State := { two 5 7 with cores := [(0, { core0 with mbox := [(7, some 9)] })] }

theorem witness_SynchronisationCompletes_mailbox : (two 5 7).swappedOut (two 5 7).cur = false ∧
    ((two 5 7).core (two 5 7).here).box 7 = none ∧ Ready (two 5 7) 0 [.s 1] [] ∧ (two 5 7).th.spec = none ∧
    (boxed.core boxed.here).box 7 = some 9 ∧ Ready boxed 0 [] [.s 3] ∧ Ready boxed 0 [.s 1] [] ∧ boxed.th.spec = none ∧
    boxed.swappedOut boxed.cur = false :=
  ⟨rfl, rfl, ready_of rfl rfl rfl, rfl, rfl, ready_of rfl rfl rfl, ready_of rfl rfl rfl, rfl, rfl⟩

theorem witness_Watches :
    let s := put (two 0x8000 3) [(0x8000, 3)]
    s.Inv ∧ Settled s ∧ Reaches s (s.sv 1).toNat 8 ∧ s.th.wait = none ∧ Ready s 0 [.s 1, .s 2] [] ∧
    (BitVec.ofNat 64 (s.mem.read (Region.local s.here + (s.sv 1).toNat) 8) : Word) = s.sv 2 ∧ Unwatched s (s.sv 1).toNat ∧
    (s.core s.here).watches.length < 64 ∧
    (BitVec.ofNat 64 (s.mem.read (Region.local s.here + (s.sv 1).toNat) 8) : Word).getLsbD 32 ≠ (s.sv 2).getLsbD 0 ∧
    ¬ ((BitVec.ofNat 64 ((two 0x8000 3).mem.read (Region.local 0 + 0x8000) 8) : Word) = (two 0x8000 3).sv 2) ∧
    (BitVec.ofNat 64 ((two 0x8000 2).mem.read (Region.local 0 + 0x8000) 8) : Word).getLsbD 32 = ((two 0x8000 2).sv 2).getLsbD 0 :=
  ⟨rfl, settled_of rfl rfl rfl rfl, ⟨by decide, by decide, by decide, rfl, rfl⟩, rfl, ready_of rfl rfl rfl, by decide,
    unwatched_of _ rfl, by decide, by decide, by decide, by decide⟩

/-- Slot 1 waits in watch for the value that slot 0 is about to store. -/
def watched : State :=
  { two 0x8000 3 with
      cores := [(0, { core0 with watches := [⟨1, .loc 0 0x8000, .eq, 3, none⟩] })]
      threads := [(0, thr [(1, 0x8000), (2, 3)]),
                  (1, { thr [(1, 0x8000), (2, 3)] with state := .waiting, wait := some (.watch (Region.local 0 + 0x8000) false) })] }

/-- The same, while the command 9 holds a lock over the word. -/
def watchedUnder : State :=
  { watched with cores := [(0, { core0 with watches := [⟨1, .loc 0 0x8000, .eq, 3, none⟩], locks := [⟨9, false, 0x8000, 0x8008⟩] })] }

/-- A write of the command that meets the test and is overwritten releases the thread all the same, once the lock goes (R219, R291). -/
theorem test_watch_met_under_lock :
    let s := (watchedUnder.writePlace (.loc 0 0x8000) 8 3).writePlace (.loc 0 0x8000) 8 4
    (s.thread 1).wait = some (.watch (Region.local 0 + 0x8000) false) ∧
    ((s.unlock 9 false).thread 1).wait = some (.watch (Region.local 0 + 0x8000) true) ∧
    (((watchedUnder.writePlace (.loc 0 0x8000) 8 4).unlock 9 false).thread 1).wait =
      some (.watch (Region.local 0 + 0x8000) false) := by
  refine ⟨?_, ?_, ?_⟩ <;> decide +kernel

theorem witness_Watches_store : watched.Inv ∧ Ready watched 0 [.s 2, .s 1] [] ∧ Settled watched ∧
    Reaches watched (watched.sv 1).toNat 8 ∧ 1 ≠ watched.cur ∧
    (watched.core watched.here).watches = [⟨1, .loc watched.here (watched.sv 1).toNat, .eq, watched.sv 2, none⟩] ∧
    watched.swappedOut 1 = false ∧ (watched.thread 1).wait = some (.watch (Region.local 0 + 0x8000) false) ∧
    1 < 32768 ∧ (watched.thread 1).spec = none ∧ Ready { watched with cur := 1 } 0 [.s 1, .s 2] [] :=
  ⟨rfl, ready_of rfl rfl rfl, settled_of rfl rfl rfl rfl, ⟨by decide, by decide, by decide, rfl, rfl⟩, by decide, rfl, rfl, rfl, by decide, rfl,
    ready_of rfl rfl rfl⟩

/-! ### Messages, calls, bins, groups and agreements -/

/-- Two ready slots of core 0. -/
def peers (t : Thread) : State := { pair 2 7 with threads := [(0, t), (1, thr [])] }

theorem witness_Messages_send : Ready (peers (thr [(1, 1), (2, 7)])) 0 [.s 1, .s 2] [] ∧ Settled (peers (thr [(1, 1), (2, 7)])) ∧
    (∀ k, (peers (thr [(1, 1), (2, 7)])).th.wait ≠ some (.message k)) ∧
    (peers (thr [(1, 1), (2, 7)])).descriptorOk 0 ((peers (thr [(1, 1), (2, 7)])).sv 1) = true :=
  ⟨ready_of rfl rfl rfl, settled_of rfl rfl rfl rfl, fun k => by simp [peers, State.th, State.thread, tget, thr, pair, two, sys, Thread.idle],
    rfl⟩

/-- Slot 0 waits for its message to slot 1, which is as given. -/
def sending (t : Thread) : State :=
  { pair 0 0 with packets := [.msg 5 0 1 7], threads := [(0, { thr [] with state := .waiting, wait := some (.message 5) }), (1, t)] }

theorem witness_Messages_deliver : (sending Thread.idle).packets = [.msg 5 0 1 7] ∧ 0 ≠ 1 ∧
    ((sending Thread.idle).thread 1).state = .idle ∧
    ((sending { thr [] with recvQ := List.replicate 16 ⟨1, 3⟩ }).thread 1).state ≠ .idle ∧
    ((sending { thr [] with recvQ := List.replicate 16 ⟨1, 3⟩ }).thread 1).recvQ.length = 16 ∧
    ((sending (thr [])).thread 1).state ≠ .idle ∧ ((sending (thr [])).thread 1).state ≠ .swapped ∧
    ((sending (thr [])).thread 1).recvQ.length < 16 ∧ ((sending (thr [])).core (1 / 16)).spilled = false ∧
    (sending (thr [])).swappedOut 1 = false := by
  refine ⟨rfl, by decide, rfl, ?_, rfl, ?_, ?_, by decide, rfl, rfl⟩ <;> simp [sending, State.thread, tget, thr]

/-- Slot 0 asks for the message of slot 5, which stands behind one of slot 3. -/
def asking : State := sys 0 { thr [(1, 0x50000)] with recvQ := [⟨8, 0x30000⟩, ⟨9, 0x50000⟩] }

theorem witness_Messages_receive : asking.th.spec = none ∧ Ready asking 0 [.s 1] (pairDefs 3) ∧
    asking.descriptorOk asking.here (asking.sv 1) = true ∧
    (∀ x ∈ [(⟨8, 0x30000⟩ : Msg)], ¬ ((asking.sv 1).getLsbD 20 = true ∨ x.sender = (asking.sv 1).toNat % 2 ^ 20)) ∧
    ((⟨9, 0x50000⟩ : Msg).sender = (asking.sv 1).toNat % 2 ^ 20) ∧ asking.th.recvQ = [⟨8, 0x30000⟩] ++ ⟨9, 0x50000⟩ :: [] ∧
    (sys 0 (thr [(1, 2 ^ 20)])).th.recvQ = [] ∧ ((sys 0 (thr [(1, 2 ^ 20)])).sv 1).getLsbD 20 = true :=
  ⟨rfl, ready_of rfl rfl rfl, rfl, by decide, by decide, rfl, rfl, by decide⟩

theorem witness_RemoteCalls_call : Ready (peers (thr [(1, 1), (2, 7)])) 0 [.s 1, .s 2] [.s 3] ∧ Settled (peers (thr [(1, 1), (2, 7)])) ∧
    (peers (thr [(1, 1), (2, 7)])).descriptorOk 0 ((peers (thr [(1, 1), (2, 7)])).sv 1) = true ∧
    (peers (thr [(1, 1), (2, 7)])).th.amoCnt < 16 :=
  ⟨ready_of rfl rfl rfl, settled_of rfl rfl rfl rfl, rfl, by decide⟩

/-- A call of slot 0 on its way to slot 1, which is as given. -/
def calling (t : Thread) : State :=
  { pair 0 0 with packets := [.call 5 0 1 7 (callToken 0 3 2)], threads := [(0, thr []), (1, t)] }

theorem witness_RemoteCalls_delivery : (calling (thr [])).packets = [.call 5 0 1 7 (callToken 0 3 2)] ∧
    ((calling (thr [])).thread 1).state ≠ .idle ∧ ((calling (thr [])).thread 1).state ≠ .swapped ∧
    ((calling (thr [])).thread 1).callQ.length < 16 ∧ ((calling (thr [])).core (1 / 16)).spilled = false ∧
    ((calling Thread.idle).thread 1).state = .idle := by
  refine ⟨rfl, ?_, ?_, by decide, rfl, rfl⟩ <;> simp [calling, State.thread, tget, thr]

theorem witness_RemoteCalls_return :
    let s := sys 0 { thr [(1, 7), (2, 0x300000001)] with callQ := [⟨8, 9⟩] }
    Ready s 0 [.s 1, .s 2] (pairDefs 3) ∧ Settled s ∧ s.th.callQ = ⟨8, 9⟩ :: [] ∧ s.sv 2 ≠ 0 ∧ s.sv 0 = 0 :=
  ⟨ready_of rfl rfl rfl, settled_of rfl rfl rfl rfl, rfl, by decide, by decide⟩

/-- A reply on its way to the call of slot 1 that awaits it in s3. -/
def replying : State :=
  { pair 0 0 with packets := [.reply 5 7 (callToken 1 3 2) false], threads := [(1, { thr [] with calls := [(3, 2)], amoCnt := 1 })] }

/-- A reply whose token names column 64. -/
def astray : State := { replying with packets := [.reply 5 7 (callToken 1 3 2 ||| 64) false] }

/-- No slot of the module has column 64, so the reply is discarded, though 64 is core (0, 1) if it is read with the row. -/
theorem test_reply_astray : bits (callToken 1 3 2 ||| 64).toNat 7 0 = 64 ∧
    execCallReply 5 astray = .next { astray with packets := [] } := ⟨by decide, rfl⟩

theorem witness_RemoteCalls_reply : replying.packets = [.reply 5 7 (callToken 1 3 2) false] ∧
    bits (callToken 1 3 2).toNat 7 0 ≤ 63 ∧ bits (callToken 1 3 2).toNat 15 8 ≤ 31 ∧
    replying.swappedOut (targetOf (callToken 1 3 2)) = false ∧ (replying.thread (targetOf (callToken 1 3 2))).spec = none ∧
    bits (callToken 1 3 2).toNat 24 20 ≠ 0 ∧
    (bits (callToken 1 3 2).toNat 24 20, BitVec.ofNat 32 (bits (callToken 1 3 2).toNat 63 32)) ∈
      (replying.thread (targetOf (callToken 1 3 2))).calls ∧ 32767 < 32768 ∧ 31 < 32 := by
  refine ⟨rfl, by decide, by decide, rfl, rfl, by decide, by decide, by decide, by decide⟩

/-- Paddock 0 has bin 0, and slot 0 a flight to it. -/
def binned (f : List Flight) (arm : Bool) : State :=
  { two 0 0 with
      paddocks := [(0, { pad with bins := 1 })], flights := f
      bins := [(0, { Bin.zero with start := 10, len := 100, next := 10, part := 4, min := 2, arm := arm })] }

theorem witness_FeedBins_issue : Ready (binned [] true) 0 [.s 1] [.s 3, .s 4] ∧ (binned [] true).th.spec = none ∧ (3 : RegNo) ≠ 31 ∧
    (binned [] true).ownBin (binned [] true).here ((binned [] true).sv 1).toNat = true ∧ (binned [] true).th.amoCnt < 16 :=
  ⟨ready_of rfl rfl rfl, rfl, by decide, rfl, by decide⟩

/-- The grab of slot 0 at bin 0, and its store of 1 to FBCTL of bin 0. -/
def grabbing : Flight :=
  ⟨9, 0, .grab, [⟨0, 0, .bin 0 0, 8, 0, [], 0, false, false, none, false⟩, ⟨1, 0, .bin 0 0, 8, 0, [], 0, false, false, none, false⟩],
    false, false, false, .pair 3, false, false, false⟩
def arming (v : Nat) : Flight :=
  ⟨9, 0, .store, [⟨0, 0, .bin 0 0x28, 8, v, [], 0, false, false, none, false⟩], false, false, false, .none, false, false, false⟩

theorem witness_FeedBins_grab : ∃ x y, (binned [grabbing] true).flights = [grabbing] ∧ grabbing.kind = .grab ∧ grabbing.elems = [x, y] ∧
    x.place = .bin 0 0 ∧ x.done = false := ⟨_, _, rfl, rfl, rfl, rfl, rfl⟩

theorem witness_FeedBins_arm : ∃ e, (binned [arming 1] false).flights = [arming 1] ∧ (arming 1).kind = .store ∧
    (arming 1).dest = .none ∧ (arming 1).elems = [e] ∧ e.place = .bin 0 0x28 ∧ e.w = 8 ∧ e.done = false ∧ e.data % 2 = 1 ∧
    NoWatches (binned [arming 1] false) ∧ (∀ o ∈ (binned [arming 1] false).fabops, o.tid ≠ (arming 1).tid) ∧
    (arming 0).elems = [{ e with data := 0 }] :=
  ⟨_, rfl, rfl, rfl, rfl, rfl, rfl, rfl, rfl, no_watches rfl, no_fabops _ rfl, rfl⟩

/-- Slots 0 and 1 wait for a message of each other. -/
def cycle (ps : List Probe) : State :=
  { pair 0 0 with
      probes := ps
      threads := [(0, { thr [] with state := .waiting, wait := some (.recv (some 1) 1) }),
                  (1, { thr [] with state := .waiting, wait := some (.recv (some 0) 2) })] }

theorem witness_ReceiveCycles : 0 ≠ 1 ∧ (cycle []).recvEdge 0 = some (1, 1) ∧ (cycle []).recvEdge 1 = some (0, 2) ∧ (cycle []).probes = [] ∧
    (cycle [⟨5, [(0, 1)], 1, false⟩]).recvEdge 0 = some (1, 1) ∧ (cycle [⟨5, [(0, 1), (1, 2)], 0, true⟩]).recvEdge 1 = some (0, 2) ∧
    (∀ k ∈ [0, 1], ((cycle []).thread k).ts.unrc = false ∧ ((cycle []).thread k).ts.unrv = false ∧
      (((cycle []).thread k).ts.hold = true ∨ ((cycle []).thread k).ts.ipPreempt = false)) :=
  ⟨by decide, rfl, rfl, rfl, rfl, rfl, by decide⟩

/-- A membership of group 5 with index 0, as given beside. -/
def member5 : Memb := { Memb.none with valid := true, absok := true, count := 2, gid := 5 }

/-- Slot 0 with s1 = the group id 5 and s2 = a join descriptor, and a membership in slot 0. -/
def joining (m : Memb) (count : Nat) : State := sys 0 { thr [(1, 5), (2, count * 2 ^ 24)] with memb := [(0, m)] }

theorem witness_Groups_join : (joining Memb.none 1).th.spec = none ∧ Ready (joining Memb.none 1) 0 [.s 1, .s 2] [] ∧
    (joining Memb.none 1).th.mem 0 = Memb.none ∧ ((joining Memb.none 1).sv 1).setWidth 48 ≠ (0 : BitVec 48) ∧
    (JoinDesc.of ((joining Memb.none 1).sv 2)).ok = true ∧ (JoinDesc.of ((joining Memb.none 1).sv 2)).count = 1 ∧
    (joining Memb.none 1).group 5 = none ∧ (joining Memb.none 1).combining < 1024 ∧
    ((joining member5 2).th.mem 0).valid = true ∧ ((joining member5 2).th.mem 0).note = none ∧
    ((joining { member5 with note := some 0 } 2).th.mem 0).note = some 0 ∧
    ((joining { member5 with note := some 0 } 2).th.mem 0).valid = true ∧
    ((joining { member5 with note := some 0 } 2).th.mem 0).gid = ((joining { member5 with note := some 0 } 2).sv 1).setWidth 48 :=
  ⟨rfl, ready_of rfl rfl rfl, rfl, by decide, rfl, rfl, rfl, by decide, rfl, rfl, rfl, rfl, rfl⟩

/-- Group 5 of `count` members: the joiners here, those elsewhere, how far it has come, and whether it stands. -/
def group5 (count : Nat) (joins : List Joiner) (others : List (Nat × Nat)) (complete dissolved : Bool) : Group :=
  { gid := 5, count := count, absok := true, rooted := false, joins := joins, others := others, complete := complete
    dissolved := dissolved, placed := true }

/-- Slot 0 waits for the other members of group 5. -/
def awaiting (count : Nat) (others : List (Nat × Nat)) : State :=
  { sys 0 { thr [] with state := .waiting, wait := some (.join 0) } with groups := [group5 count [⟨0, 0, 0⟩] others false false] }

theorem witness_Groups_complete :
    let s := awaiting 2 [(1, 3)]
    let u := awaiting 2 []
    let g := group5 2 [⟨0, 0, 0⟩] [] false false
    let r : RemoteJoin := ⟨3, 1, 2, true, false⟩
    s.groups = [group5 2 [⟨0, 0, 0⟩] [(1, 3)] false false] ∧ u.groups = [g] ∧ (s.thread 0).state = .waiting ∧
    (s.thread 0).wait = some (.join 0) ∧ s.swappedOut 0 = false ∧ s.th.spec = none ∧ (u.thread 0).wait = some (.join 0) ∧
    u.swappedOut 0 = false ∧ u.th.spec = none ∧ g.placed = true ∧ [(1, 3)].length + 1 = 2 ∧ g.others.length + 2 = g.count ∧
    r.count = g.count ∧ r.absok = g.absok ∧ r.rooted = g.rooted ∧ r.index < g.count ∧ g.holds r.index = false ∧
    joinConflicts { r with count := 3 } g 0 = true := by
  refine ⟨rfl, rfl, rfl, rfl, rfl, rfl, rfl, rfl, rfl, rfl, rfl, rfl, rfl, rfl, rfl, by decide, rfl, rfl⟩

theorem witness_Groups_joiner_dissolved :
    let s := awaiting 2 [(1, 3)]
    let g := group5 2 [⟨0, 0, 0⟩] [(1, 3)] false false
    s.groups = [g] ∧ g.complete = false ∧ g.dissolved = false ∧ g.joins = [⟨0, 0, 0⟩] ∧ g.others = [(1, 3)] ∧ s.swappedOut 0 = false ∧
    (s.thread 0).state = .waiting ∧ (s.thread 0).wait = some (.join 0) ∧ s.th.spec = none := by
  refine ⟨rfl, rfl, rfl, rfl, rfl, rfl, rfl, rfl, rfl⟩

/-- A joiner that still waits takes DISSOLVED when the other module's leave arrives, and the id is free again (R46). -/
theorem test_joiner_dissolved : (match execGroupDissolved 5 [1] (awaiting 2 [(1, 3)]) with
    | .next t => decide ((t.thread 0).tcause = 30) && decide ((t.thread 0).tval = 3 <<< 56) && decide (t.groups = [])
    | _ => false) = true := by decide

/-- Slot 0 is in group 5 with the joiners given. -/
def grouped (m : Memb) (dissolved : Bool) (joins : List Joiner) : State :=
  { joining m 2 with groups := [group5 2 joins [] true dissolved] }

theorem witness_Groups_leave :
    let s := grouped member5 false [⟨0, 0, 0⟩, ⟨1, 1, 0⟩]
    s.th.spec = none ∧ Ready s 0 [] [] ∧ ((joining Memb.none 1).th.mem 0).valid = false ∧ (s.th.mem 0).valid = true ∧
    (s.core s.here).yard.cfg = false ∧ s.groups = [group5 2 [⟨0, 0, 0⟩, ⟨1, 1, 0⟩] [] true false] ∧ 5 = (s.th.mem 0).gid ∧
    (0 = s.cur) ∧ (1 ≠ s.cur ∨ 0 ≠ 0) ∧ Ready s 0 [] [.s 3] ∧ (s.th.mem 0).diss = false ∧ (s.th.mem 0).absok = true ∧
    ((grouped { member5 with absok := false } false []).th.mem 0).absok = false ∧ s.agreements = [] :=
  ⟨rfl, ready_of rfl rfl rfl, rfl, rfl, rfl, rfl, rfl, rfl, .inl (by decide), ready_of rfl rfl rfl, rfl, rfl, rfl, rfl⟩

theorem witness_Groups_dissolved :
    let s := grouped member5 true [⟨0, 0, 0⟩]
    s.groups = [group5 2 [⟨0, 0, 0⟩] [] true true] ∧ s.swappedOut 0 = false ∧ (s.thread 0).spec = none ∧
    (s.thread 0).wait ≠ some (.agreement 0) := by
  refine ⟨rfl, rfl, rfl, by decide⟩

theorem witness_AgreedBranches_issue :
    let s := joining member5 2
    Ready s 0 [] [] ∧ s.th.spec = none ∧ (s.th.mem 0).valid = true ∧ (s.th.mem 0).diss = false ∧ (s.th.mem 0).absent = false ∧
    (s.th.pc + (4 : BitVec 11).signExtend 64 <<< 1).toNat < 2 ^ 20 ∧ 2 ^ 20 ≤ (s.th.pc + (0x400 : BitVec 11).signExtend 64 <<< 1).toNat ∧
    (s.th.mem 0).contrib = false ∧
    ((joining Memb.none 2).th.mem 0).valid = false ∧ ((joining { member5 with diss := true } 2).th.mem 0).diss = true ∧
    ((joining { member5 with absent := true } 2).th.mem 0).absent = true ∧
    (let m := (joining { member5 with contrib := true, latch := true } 2).th.mem 0
     m.contrib = true ∧ m.mismatch = false ∧ m.latch = true) :=
  ⟨ready_of rfl rfl rfl, rfl, rfl, rfl, rfl, by decide, by decide, rfl, rfl, rfl, rfl, rfl, rfl, rfl⟩

/-- A path of slot 0 on the agreement 0 of group 5. -/
def aPath : Spec := ⟨0, true, 0x100, 0x104, 0, none, false, (thr []).checkpoint⟩

/-- The same, with the agreement's outcome known. -/
def resolving (outcome : Bool) : State :=
  { sys 0 { thr [] with spec := some aPath, memb := [(0, { member5 with contrib := true, ordinal := 1 })] } with
      groups := [group5 2 [⟨0, 0, 0⟩, ⟨1, 1, 0⟩] [] true false]
      agreements := [⟨5, 0, [⟨0, false, true⟩, ⟨1, false, outcome⟩], [], some (some outcome)⟩] }

theorem witness_AgreedBranches_resolve (outcome : Bool) :
    let u := resolving outcome
    let m := (u.thread 0).mem 0
    (u.thread 0).spec = some aPath ∧ aPath.slot = 0 ∧ aPath.defer = none ∧ u.swappedOut 0 = false ∧ m.valid = true ∧
    m.contrib = true ∧ m.latch = false ∧ u.groups = [group5 2 [⟨0, 0, 0⟩, ⟨1, 1, 0⟩] [] true false] ∧ 5 = m.gid ∧
    u.agreements = [⟨m.gid, m.ordinal - 1, [⟨0, false, true⟩, ⟨1, false, outcome⟩], [], some (some outcome)⟩] ∧
    (u.thread 0).pen = [] ∧ u.flights = [] ∧ aPath.hint = true :=
  ⟨rfl, rfl, rfl, rfl, rfl, rfl, rfl, rfl, rfl, rfl, rfl, rfl, rfl⟩

/-- Group 5 with both members here, and the agreements given. -/
def agreeing (as : List Agreement) : State :=
  { sys 0 (thr []) with groups := [group5 2 [⟨0, 0, 0⟩, ⟨1, 1, 0⟩] [] true false], agreements := as }

theorem witness_AgreedBranches_contribute : (agreeing []).groups = [group5 2 [⟨0, 0, 0⟩, ⟨1, 1, 0⟩] [] true false] ∧
    (group5 2 [⟨0, 0, 0⟩, ⟨1, 1, 0⟩] [] true false).rooted = false ∧
    (∀ j ∈ [(⟨0, 0, 0⟩ : Joiner), ⟨1, 1, 0⟩], (((agreeing []).ctx j.tid).mem j.slot).absent = false) ∧ (agreeing []).agreements = [] ∧
    (agreeing [⟨5, 0, [⟨0, false, true⟩], [], none⟩]).agreements = [⟨5, 0, [⟨0, false, true⟩], [], none⟩] ∧
    (agreeing []).agrKey ≠ some 7 ∧
    (let u := { agreeing [] with threads := [(0, { thr [] with memb := [(0, { member5 with contrib := true, ordinal := 1 })] })] }
     ∃ j ∈ [(⟨0, 0, 0⟩ : Joiner), ⟨1, 1, 0⟩], let m := (u.ctx j.tid).mem j.slot
      m.valid = true ∧ m.contrib = true ∧ m.latch = false ∧ m.ordinal - 1 = 0) ∧
    (let u := sys 0 { thr [] with state := .waiting, wait := some (.agreement 0) }
     (u.thread 0).spec = none ∧ (u.thread 0).state = .waiting ∧ (u.thread 0).wait = some (.agreement 0)) := by
  refine ⟨rfl, rfl, by decide, rfl, rfl, by decide, by decide, rfl, rfl, rfl⟩

/-! ### Traps, system registers, contexts and translation -/

/-- Slot 0 in supervisor mode, with the status given and two registers. -/
def sup (ts : TStatus) (x y : Nat) : State := sys 0 { thr [(1, x), (2, y)] with ts := { ts with sup := true } }

theorem witness_TrapEntry : 63 < 64 ∧ ((two 0 0).thread 0).ts.unrc = false ∧ ((two 0 0).thread 0).ts.unrv = false ∧
    (((sup { TStatus.zero with unrv := true } 0 0).thread 0).ts.unrc || ((sup { TStatus.zero with unrv := true } 0 0).thread 0).ts.unrv) = true ∧
    (sup { TStatus.zero with ipPreempt := true, unrc := true } 0 0).th.irqDue = some (.preempt, 16) ∧
    (sup { TStatus.zero with ipPreempt := true, unrc := true } 0 0).th.spec = none ∧ Ready (sup TStatus.zero 0 0) 0 [] [.s 3] ∧
    (sup TStatus.zero 0 0).th.ts.sup = true :=
  ⟨by decide, rfl, rfl, rfl, rfl, rfl, ready_of rfl rfl rfl, rfl⟩

theorem witness_TrapAndReturn : Ready (sup TStatus.zero 0 0) 0 [] [] ∧ (sup TStatus.zero 0 0).th.spec = none ∧
    (sup TStatus.zero 0 0).th.ts.sup = true ∧ (sup TStatus.zero 0 0).th.held = false ∧ (sup TStatus.zero 0 0).th.state = .ready ∧
    (let ts := { TStatus.zero with ipTimer := true, enTimer := true, ipMailbox := true, enMailbox := true, ipHost := true, ipMessage := true }
     ts.hold = false ∧ ts.ipPreempt = false ∧ (ts.ipHost && ts.enHost) = false ∧ (ts.ipMessage && ts.enMessage) = false ∧
     ts.ipTimer = true ∧ ts.enTimer = true) ∧
    (let ts := { TStatus.zero with ipMailbox := true, enMailbox := true }
     (ts.ipTimer && ts.enTimer) = false ∧ ts.ipMailbox = true ∧ ts.enMailbox = true) ∧
    { TStatus.zero with hold := true }.hold = true ∧ (sys 0 Thread.idle).th.state = .idle ∧
    (let ts := { TStatus.zero with ipMessage := true, enMessage := true, ipHost := true, enHost := true }
     ts.ipHost = true ∧ ts.enHost = true ∧ ts.ipMessage = true ∧ ts.enMessage = true ∧ ts.ipPreempt = false) :=
  ⟨ready_of rfl rfl rfl, rfl, rfl, rfl, rfl, by decide, by decide, rfl, rfl, by decide⟩

theorem witness_SystemRegisters : (two 5 7).th.spec = none ∧ Ready (two 5 7) 0 [] [.s 3] ∧ (two 5 7).th.ts.sup = false ∧
    (sup TStatus.zero 5 7).th.spec = none ∧ (sup TStatus.zero 5 7).th.ts.sup = true ∧ Ready (sup TStatus.zero 5 7) 0 [] [.s 3] ∧
    Ready (sup TStatus.zero 5 7) 0 [.s 1] [] ∧ Ready (two 5 7) 0 [.s 1] [] ∧
    (∀ n ∈ [(0x008 : BitVec 10), 0x012, 0x022, 0x065, 0x097, 0x0A4, 0x3FF], 7 < n.toNat ∧ ¬ (0x098 ≤ n.toNat ∧ n.toNat ≤ 0x0A3) ∧
      n ∉ [(0x010 : BitVec 10), 0x011, 0x020, 0x021, 0x030, 0x031, 0x040, 0x041, 0x050, 0x060, 0x061, 0x062, 0x063, 0x064, 0x070,
        0x080, 0x090]) ∧ (0x040 : BitVec 10) ∈ [(0x040 : BitVec 10), 0x041, 0x080] ∧ (0x031 : BitVec 10) ∉ [(0x040 : BitVec 10), 0x041, 0x080] :=
  ⟨rfl, ready_of rfl rfl rfl, rfl, rfl, rfl, ready_of rfl rfl rfl, ready_of rfl rfl rfl, ready_of rfl rfl rfl, by decide, by decide,
    by decide⟩

theorem witness_SaveRestoreAndEnd_area :
    let s := sup TStatus.zero (2 ^ 20 - 2560) 0x8001
    s.Inv ∧ s.th.ts.sup = true ∧ Settled s ∧ Ready s 0 [.s 1] [] ∧ Ready s 0 [.s 1] allRegs ∧ (s.sv 1).toNat % 64 = 0 ∧
    (s.sv 1).toNat + 2560 ≤ 2 ^ 20 ∧ s.heldAt (.loc s.here (s.sv 1).toNat) 2560 = false ∧ s.th.anyPending = false ∧
    NoWatches s ∧ (s.sv 2).toNat % 64 ≠ 0 ∧ Ready s 0 [.s 2] allRegs ∧
    (∀ k, s.mem.poisoned (Region.local s.here + (s.sv 1).toNat + k) = false) :=
  ⟨rfl, rfl, settled_of rfl rfl rfl rfl, ready_of rfl rfl rfl, ready_of rfl rfl rfl, by decide, by decide, rfl, by decide, no_watches rfl, by decide,
    ready_of rfl rfl rfl, fun _ => rfl⟩

/-- A core of which slot 0 waits with a register pending, and which is pre-empted and not yet spilled. -/
def ending : State :=
  { sys 0 { thr [] with state := .waiting, wait := some .ending } with
      cores := [(0, { core0 with preempted := true })], paddocks := [(0, { pad with tick := 5 })] }

theorem witness_SaveRestoreAndEnd_end : Ready (two 0 0) 0 [] [] ∧ (two 0 0).th.spec = none ∧ (two 0 0).drained (two 0 0).cur = true ∧
    (∀ j, j < 4 → (((two 0 0).thread 0).mem j).valid = false) ∧ ((two 0 0).thread 0).callQ = [] ∧ ((two 0 0).core (0 / 16)).launchQ = [] ∧
    ((two 0 0).core (0 / 16)).spill = [] ∧ (two 0 0).posted = [] ∧ (two 0 0).groups = [] ∧ ending.posted = [] ∧ ending.groups = [] ∧
    (ending.core 0).spill = [] ∧ (ending.core 0).launchQ = [] ∧ (∀ j, j < 4 → ((ending.thread 0).mem j).valid = false) ∧
    (two 0 0).th.wait = none ∧ (marked ⟨0, true, false, 0⟩).drained 0 = false ∧ (marked ⟨0, true, false, 0⟩).th.wait ≠ some .ending ∧
    (ending.thread 0).wait = some .ending ∧ ending.drained 0 = true ∧
    tfind ending.paddocks 0 = some { pad with tick := 5 } ∧ 5 ≠ 0 ∧ pad.out = false ∧
    (ending.core 0).preempted = true ∧ (ending.core 0).spilled = false ∧ (∀ k, k < 16 → (ending.thread (0 * 16 + k)).state ≠ .ready) := by
  refine ⟨ready_of rfl rfl rfl, rfl, rfl, by decide, rfl, rfl, rfl, rfl, rfl, rfl, rfl, rfl, rfl, by decide, rfl, rfl, by decide, rfl, rfl,
    rfl, by decide, rfl, rfl, rfl, ?_⟩
  intro k hk
  by_cases h : k = 0
  · subst h; decide
  · simp [ending, State.thread, tget, thr, sys, h, Thread.idle]

/-- Core 0 with a root table at 0x8000, whose first entry leads to a leaf for the first 256 MiB. -/
def mapped : State :=
  let s := sup TStatus.zero 0x100000 0
  { s with
      cores := [(0, { core0 with ptroot := 0x8000 })]
      mem := (s.mem.write 0x8000 8 (2 ^ 63 + 0x10000)).write 0x10000 8 (2 ^ 63 + 2 ^ 62 + 2 ^ 61 + 2 ^ 60 + 2 ^ 58) }

theorem witness_Translation_walk : isTranslated 0x100000 = true ∧ 0x100000 < 2 ^ 64 ∧ mapped.tlbHits 0 0x100000 = [] ∧
    (∃ e, mapped.walk 0 0x100000 = .leaf 28 e) ∧ (mapped.core 0).tlb.length < 256 ∧ 2 ^ 20 - 1 < 2 ^ 20 ∧ 2 ^ 31 - 1 < 2 ^ 31 ∧
    (sup TStatus.zero 0x100000 0).tlbHits 0 0x100000 = [] ∧ ((sup TStatus.zero 0x100000 0).core 0).ptroot = 0 :=
  ⟨rfl, by decide, rfl, ⟨_, rfl⟩, by decide, by decide, by decide, rfl, rfl⟩

/-- That module with sixty-four walks under way on the die. -/
def walking : State :=
  { mapped with walks := List.replicate 64 ⟨0, 0x20000000, none⟩, threads := [(0, thr [(1, 0x100000)])] }

theorem witness_Translation_walks : mapped.walksBusy 0 = false ∧ (∀ w ∈ mapped.walks, ¬(w.core = 0 ∧ w.va = 0x100000)) ∧
    isTranslated 0x100000 = true ∧ walking.tlbHits 0 0x100000 = [] ∧
    64 ≤ (walking.walks.filter fun w => dieOf w.core == dieOf 0).length ∧ 0 = walking.here ∧ 0x100000 = (walking.sv 1).toNat ∧
    0x100000 % Width.dword.bytes = 0 ∧ Ready walking 0 [.s 1] [.s 2] :=
  ⟨rfl, by decide, rfl, rfl, by decide +kernel, rfl, rfl, rfl, ready_of rfl rfl rfl⟩

theorem witness_Translation_ends (found : Option TlbEntry) : { mapped with walks := [⟨0, 0x100000, found⟩] }.walks = [⟨0, 0x100000, found⟩] ∧
    { mapped with walks := [⟨0, 0x100000, found⟩] }.tlbHits 0 0x100000 = [] := ⟨rfl, rfl⟩

theorem the_scope : ((sup TStatus.zero 0x100000 0).scope 0).map (sup TStatus.zero 0x100000 0).scopeAgents = some [0] := by decide +kernel

theorem witness_Translation_tinv :
    let s := sup TStatus.zero 0x100000 0
    Ready s 0 [.s 1, .s 0] [] ∧ s.th.ts.sup = true ∧ Settled s ∧ s.th.wait = none ∧ 0 < 2048 ∧
    (∃ sc, s.scope 0 = some sc ∧ s.scopeAgents sc = [0]) ∧
    { s with tinvs := [⟨5, 0, 0x100000, [0]⟩] }.tinvs = [⟨5, 0, 0x100000, [0]⟩] ∧ s.flights = [] ∧ s.fabops = [] ∧
    (∀ k, k / 16 = 0 → (s.thread k).pen = []) ∧ (s.core 0).tileQ = [] ∧ (s.core 0).cbuf = [] ∧ (s.core 0).copyQ = [] := by
  refine ⟨ready_of rfl rfl rfl, rfl, settled_of rfl rfl rfl rfl, rfl, by decide, Option.map_eq_some_iff.mp the_scope, rfl, rfl, rfl, ?_, rfl, rfl, rfl⟩
  intro k _
  by_cases h : k = 0
  · subst h; rfl
  · simp [sup, State.thread, tget, thr, sys, h, Thread.idle]

/-- A page walk that begins and ends fills the TLB; an invalidation between the two discards what it has found (R272, R299). -/
theorem test_walk_two_steps :
    (match execPageWalk 0 0x100000 mapped with
      | .next t => t.walks.length == 1 && t.due == [.walk 0 0x100000] && (t.core 0).tlb.isEmpty &&
        (match execPageWalk 0 0x100000 t, execPageWalk 0 0x100000 (t.dropTlb 0 fun e => e.va == 0) with
          | .next u, .next v => u.walks.isEmpty && (u.core 0).tlb.map (·.size) == [28] && v.walks.isEmpty && (v.core 0).tlb.isEmpty
          | _, _ => false)
      | _ => false) = true := by decide +kernel

/-- A load that misses while all 64 walks of the die are under way waits (R299). -/
theorem test_ld_no_walk :
    (match exec (.ld 0 0 .page false .dword 2 1) walking with
      | .next t => t.th.state == .waiting && t.th.wait == some .walk && t.th.pc == walking.th.pc
      | _ => false) = true := by decide +kernel

/-! ### The host, launches and commands -/

/-- Paddock 0 has ingress block 0, and slot 0 of it a record that asks for one context at 0x100 on core 0. -/
def ingress (w0 : Nat) : State :=
  { sys 1 Thread.idle with paddocks := [(0, { pad with blocks := 1 })], ingress := [(0, BitVec.ofNat 64 w0)] }

theorem witness_Launching_doorbell : (ingress (2 ^ 32 + 0x100 * 2 ^ 40)).ready = true ∧ 0 < 4096 ∧
    (ingress (2 ^ 32 + 0x100 * 2 ^ 40)).acceptState 0 ≠ 1 ∧
    (∀ x, (ingress (2 ^ 32 + 0x100 * 2 ^ 40)).slotPaddock 0 = some x → x.2.out = false) ∧
    (ingress (2 ^ 32 + 0x100 * 2 ^ 40)).refusal (((ingress (2 ^ 32 + 0x100 * 2 ^ 40)).slotPaddock 0).map fun x => x.2)
      ((ingress (2 ^ 32 + 0x100 * 2 ^ 40)).recordOf (.ingress 0)) = 0 ∧
    (ingress 0).refusal (((ingress 0).slotPaddock 0).map fun x => x.2) ((ingress 0).recordOf (.ingress 0)) ≠ 0 ∧ (ingress 0).acceptState 0 ≠ 1 := by
  refine ⟨rfl, by decide, by decide, fun x h => ?_, by decide +kernel, by decide +kernel, by decide⟩
  rw [← Option.some.inj (show some (0, { pad with blocks := 1 }) = some x from h)]
  rfl

/-- The record has reached its core. -/
def spread (left : List Nat) : State := { ingress (2 ^ 32 + 0x100 * 2 ^ 40) with spreads := [⟨0, left, 0, 0⟩] }

theorem witness_Launching_arrival : (spread [0]).spreads = [⟨0, [0], 0, 0⟩] ∧ ((spread [0]).recordOf (.ingress 0)).kind = 0 ∧
    ((spread [0]).core 0).launchQ = [] ∧ ((spread [0]).core 0).spilled = false ∧ (spread [0]).coreOut 0 = false ∧
    (spread [0]).idleSlot 0 false = some 0 ∧ (spread [0]).posted = [] ∧ (spread []).spreads = [⟨0, [], 0, 0⟩] ∧ 2 ^ 16 - 1 < 2 ^ 16 := by
  refine ⟨rfl, rfl, rfl, rfl, rfl, rfl, rfl, rfl, by decide⟩

/-- Core 0, whose slot 0 is taken, is sent a record that asks for `slots` contexts below the count word at 0x9000 of its local
memory; `bad` where that word holds the poison code. -/
def fanOut (slots n : Nat) (bad : Bool) : State :=
  let s := put (sys 0 (thr [])) [(0x9000, n)]
  { s with
      mem := if bad then s.mem.poisonWord (Region.local 0 + 0x9000) else s.mem
      ingress := [(0, BitVec.ofNat 64 (2 ^ 36 + slots * 2 ^ 32 + 0x100 * 2 ^ 40)), (1, 0x9000)], spreads := [⟨0, [0], 0, 0⟩] }

theorem count_of {r : CountRd × State} {n : Nat} {u : State} (h : (match r with
    | (.ok m, v) => decide (m = n) && decide (v = u)
    | _ => false) = true) : r = (.ok n, u) := by
  obtain ⟨_ | _ | _, v⟩ := r <;> simp_all

theorem count_fault {r : CountRd × State} {u : State} (h : (match r with
    | (.fault, v) => decide (v = u)
    | _ => false) = true) : r = (.fault, u) := by
  obtain ⟨_ | _ | _, v⟩ := r <;> simp_all

theorem witness_Launching_fan :
    let s := fanOut 15 20 false
    let b := fanOut 15 20 true
    let with_ := fun s : State => { s with posted := [⟨.ingress 0, 0, none⟩] }
    s.ready = true ∧ s.spreads = [⟨0, [0], 0, 0⟩] ∧ (s.recordOf (.ingress 0)).kind = 1 ∧ (s.core 0).launchQ = [] ∧
    (s.core 0).spilled = false ∧ s.posted = [] ∧ s.coreOut 0 = false ∧
    (with_ s).countWord 0 (s.recordOf (.ingress 0)).cntva = (.ok 20, with_ s) ∧
    (with_ b).countWord 0 (b.recordOf (.ingress 0)).cntva = (.fault, with_ b) ∧ b.spreads = [⟨0, [0], 0, 0⟩] :=
  ⟨rfl, rfl, by decide, rfl, rfl, rfl, rfl, count_of (by decide +kernel), count_fault (by decide +kernel), rfl⟩

theorem witness_Launching_movement :
    let s := { spread [0] with ingress := [(0, BitVec.ofNat 64 (2 ^ 37 + 0x100 * 2 ^ 40))] }
    s.spreads = [⟨0, [0], 0, 0⟩] ∧ (s.recordOf (.ingress 0)).kind = 2 ∧ (s.core 0).launchQ = [] ∧ s.idleSlot 0 (2 == 2) = some 15 := by
  decide

theorem witness_Launching_hayloft :
    let m := Record.of (BitVec.ofNat 64 (2 ^ 32 + 0x100 * 2 ^ 40)) 0 1 2
    m.kind = 0 ∧ m.cores = [0] ∧ (spread []).refusal ((spread []).paddockOf 0) m = 0 ∧ ((spread []).core 0).launchQ = [] ∧
    ((spread []).core 0).spilled = false ∧ (spread []).posted = [] ∧ (spread []).coreOut 0 = false ∧
    (spread []).idleSlot 0 false = some 0 := by decide +kernel

theorem witness_Launching_queued :
    let l : Launch := ⟨0x100, 1, 2, 0, 1, true⟩
    let s := { sys 0 (thr []) with cores := [(0, { core0 with launchQ := [l] })] }
    (s.core 0).launchQ = [l] ∧ s.posted = [] ∧ s.idleSlot 0 l.movement = some 15 := ⟨rfl, rfl, rfl⟩

theorem witness_HostRegisters : (sys 0 Thread.idle).ready = true ∧ (sys 0 Thread.idle).cmdState ≠ 1 ∧ 15 < 16 ∧
    { sys 0 Thread.idle with cmdState := 1 }.cmdState = 1 ∧ 4095 < 4096 ∧ (sys 0 Thread.idle).acceptState 4095 ≠ 1 ∧
    (let s := sys 0 Thread.idle
     s.Inv ∧ s.w4base = 0 ∧ (2 ^ 36 - 8) % 8 = 0 ∧ 2 ^ 36 - 8 + 8 ≤ 2 ^ 36 ∧ s.lines = [] ∧ NoWatches s ∧ (∀ x, s.lineHeld x = false)) ∧
    (4 ≠ 8 ∨ 4 % 8 ≠ 0) ∧ (∀ x ∈ ((sys 0 Thread.idle).core 5).tileQ, x.started = false) ∧ islandOf 5 < 512 ∧
    511 < 512 ∧ (tget 0 (sys 0 Thread.idle).isles 511).getLsbD 0 = false ∧ 6720 < (6721 : BitVec 16).toNat ∧
    30000 < (30001 : BitVec 16).toNat ∧ tfind (sys 0 Thread.idle).paddocks 0 = some pad ∧ 63 < 64 :=
  ⟨rfl, by decide, by decide, rfl, by decide, by decide, ⟨rfl, rfl, by decide, by decide, rfl, no_watches rfl, fun _ => rfl⟩, .inl (by decide),
    by decide, by decide, by decide, by decide, by decide,
    by decide, rfl, by decide⟩

theorem witness_ResetAndBoot : State.reset.Inv := rfl

/-- The command block asks for a command, in a module with the paddocks and the thread given. -/
def command (ws : List (Nat × Nat)) (ps : List (Nat × Paddock)) (t : Thread) (c : Core) : State :=
  { sys 0 t with cmdState := 1, cmd := ws.map fun w => (w.1, BitVec.ofNat 64 w.2), paddocks := ps, cores := [(0, c)] }

/-- That the command block asks for `code`, with no bit but the ones it uses. -/
def asked (s : State) (code : Nat) (used : List (Nat × Nat)) : Bool :=
  s.cmdState == 1 && s.cmdWord 0 % 256 == code && s.operandsOk used && s.ready

theorem witness_PaddockCommands_set :
    let s := command [(0, 1), (1, 5 * 2 ^ 32), (2, 63 * 2 ^ 16 + 31 * 2 ^ 24), (4, 0x100), (5, 0x100000)] [] Thread.idle Core.zero
    s.Inv ∧ asked s 1 [(1, 0xFFFF000000FF), (2, 0xFFFFFFFF), (3, 2 ^ 41 - 1), (4, 0xFFFFE), (5, 0x1FFFFF), (6, 0xFFFFE), (7, allBits),
        (8, allBits), (9, allBits), (10, 0xFFFFFFFF), (11, 0xFFFFFFFF3F3F), (12, 1)] = true ∧ s.paddocks = [] ∧
    bits (s.cmdWord 2) 7 0 ≤ bits (s.cmdWord 2) 23 16 ∧ bits (s.cmdWord 2) 15 8 ≤ bits (s.cmdWord 2) 31 24 ∧
    bits (s.cmdWord 2) 23 16 < 64 ∧ bits (s.cmdWord 2) 31 24 < 32 ∧ s.cmdWord 3 % 2 ^ 15 = 0 ∧ s.cmdWord 5 % 2 = 0 ∧
    s.cmdWord 5 ≤ 0x100000 := ⟨rfl, by decide⟩

theorem witness_PaddockCommands_clear :
    let s := command [(0, 2)] [(0, pad)] Thread.idle core0
    let u := command [(0, 2)] [(0, pad)] (thr []) core0
    asked s 2 [(1, 0xFF)] = true ∧ tfind s.paddocks 0 = some pad ∧ s.cmdWord 1 = 0 ∧ pad.cores = [0] ∧ pad.seqs = 0 ∧
    (∀ x ∈ slotsOf 0, (s.thread x).state = .idle) ∧ (s.core 0).launchQ = [] ∧ asked u 2 [(1, 0xFF)] = true ∧
    (s.paddocks.map fun x => x.1).Nodup ∧ (∃ x ∈ slotsOf 0, (u.thread x).state ≠ .idle) := by
  refine ⟨by decide, rfl, by decide, by decide, rfl, by decide, rfl, by decide, by decide, 0, by decide, by decide⟩

theorem witness_PaddockCommands_preempt :
    let s := command [(0, 3)] [(0, pad)] (thr []) core0
    asked s 3 [(1, 0xFF), (2, 0xFFFFFFFF)] = true ∧ tfind s.paddocks 0 = some pad ∧ s.cmdWord 1 = 0 ∧ s.cmdWord 2 = 0 ∧ pad.out = false ∧
    (s.core 0).paddock = some 0 ∧ pad.cores = [0] := by
  refine ⟨by decide, rfl, by decide, by decide, rfl, rfl, by decide⟩

theorem witness_PaddockCommands_swap :
    let s := command [(0, 4)] [(0, pad)] Thread.idle { core0 with preempted := true, spilled := true }
    let u := command [(0, 4)] [(0, pad)] Thread.idle core0
    let v := command [(0, 4)] [(0, { pad with out := true })] Thread.idle core0
    asked s 4 [(1, 0xFF)] = true ∧ asked u 4 [(1, 0xFF)] = true ∧ asked v 4 [(1, 0xFF)] = true ∧ pad.out = false ∧ s.halted 0 = true ∧
    u.halted 0 = false ∧ tfind v.paddocks 0 = some { pad with out := true } ∧ 0 < 2048 := by
  refine ⟨by decide, by decide, by decide, rfl, by decide, by decide, rfl, by decide⟩

theorem witness_PaddockCommands_resume :
    let s := command [(0, 5)] [(0, pad)] { thr [] with state := .waiting, wait := some .parked } { core0 with preempted := true, spilled := true }
    asked s 5 [(1, 0xFF), (2, 0xFFFFFFFF)] = true ∧ tfind s.paddocks 0 = some pad ∧ s.cmdWord 2 = 0 ∧ pad.out = false ∧
    s.halted 0 = true ∧ (s.core 0).spill = [] ∧ s.accept = [] := by
  refine ⟨by decide, rfl, by decide, rfl, by decide, rfl, rfl⟩

theorem witness_PaddockCommands_slot :
    let s := command [(0, 6)] [(0, pad)] { thr [] with state := .haltedNested } core0
    let u := command [(0, 7)] [(0, pad)] (thr []) core0
    let v := command [(0, 0x0E), (2, 0x104)] [(0, pad)] (thr []) core0
    coreWord (s.cmdWord 1) = some 0 ∧ asked s 6 [(1, 0xFFFFF)] = true ∧ (s.thread 0).state = .haltedNested ∧
    asked u 7 [(1, 0xFFFFF)] = true ∧ (u.thread 0).state ≠ .haltedNested ∧ (u.thread 0).state ≠ .idle ∧ u.swappedOut 0 = false ∧
    asked v 0x0E [(1, 0xFFFFF), (2, 0xFFFFE)] = true ∧ v.swappedOut 0 = false ∧
    asked (command [(0, 7)] [(0, pad)] Thread.idle core0) 7 [(1, 0xFFFFF)] = true := by decide

theorem witness_TableCommands_keys :
    let s := command [(0, 8), (1, 63), (2, 1)] [] Thread.idle Core.zero
    let u := command [(0, 9), (1, 4095), (8, 7)] [] Thread.idle Core.zero
    let v := command [(0, 0x0A), (1, 2 ^ 62), (8, 7)] [] Thread.idle Core.zero
    s.Inv ∧ asked s 8 [(1, 0x3F), (2, allBits)] = true ∧ asked u 9 ((1, 0x8000000000000FFF) :: wordsFrom8 8) = true ∧ u.lines = [] ∧
    bits (u.cmdWord 1) 11 0 ≠ 0 ∧ asked v 0x0A ((1, 0xC000000000000FFF) :: wordsFrom8 4) = true ∧ bits (v.cmdWord 1) 62 62 = 1 ∧ bits ((command [(0, 0x0A), (1, 5)] [] Thread.idle Core.zero).cmdWord 1) 62 62 = 0 ∧
    bits (command [(0, 9)] [] Thread.idle Core.zero |>.cmdWord 1) 11 0 = 0 := ⟨rfl, by decide⟩

/-- The slices of cores 0 and 1 hold the lines at 0x1000 and 0x2000 under key index 5, the second dirty. -/
def keyed : State :=
  { command [(0, 9), (1, 5 + 2 ^ 63)] [] Thread.idle Core.zero with
      lines := [⟨0, 0x1000, 5, false, false⟩, ⟨1, 0x2000, 5, true, false⟩, ⟨1, 0x1000, 0, true, false⟩]
      mkeys := [(5, some 7)], mem := ⟨[(Region.slice 1 0x2000, 9)], []⟩ }

theorem witness_TableCommands_lines :
    asked keyed 9 ((1, 0x8000000000000FFF) :: wordsFrom8 8) = true ∧ keyed.Inv ∧ bits (keyed.cmdWord 1) 11 0 = 5 ∧
    (∀ l ∈ keyed.lines, l.pa % 256 = 0 ∧ l.pa < 2 ^ 41) ∧ (keyed.lines.Pairwise fun l m => l.home ≠ m.home ∨ l.pa ≠ m.pa) ∧
    ∀ m ∈ keyed.lines, m.dirty = true → m.pa = 0x2000 → m = ⟨1, 0x2000, 5, true, false⟩ := by
  refine ⟨by decide, (by decide +kernel : keyed.mem.wf = true), by decide, by decide, by decide, by decide⟩

/-- The dirty line reaches HBM under the key that its slot held (R298). -/
theorem test_mkey_load_writes_back : (match execMkeyLoad keyed with
    | .next t => decide (t.mem.byte 0x2000 = 9) && decide (t.lines = [⟨1, 0x1000, 0, true, false⟩]) &&
        decide (tget 0 t.hbmTag 0x20 = 8) && decide (tget none t.mkeys 5 = none)
    | _ => false) = true := by decide +kernel

theorem witness_TableCommands_peers :
    let s := command [(0, 0x0B), (1, 5)] [] Thread.idle Core.zero
    let u := command [(0, 0x0B), (1, 5), (2, 3 * 2 ^ 62)] [] Thread.idle Core.zero
    let o : FabOp := { id := 1, tid := 0, kind := .put, peer := 5, oper := 0, places := [], target := [], nw := 1, lva := 0, data := [], sig := 0, inc := 0, opnd := 0,
                       dest := .none, group := 0, mcount := 1, resp := none }
    asked s 0x0B [(1, 0xFFF), (2, 0xFF00FFF000000000)] = true ∧ s.cmdWord 1 ≠ s.ident.toNat ∧ s.fabops = [] ∧
    ((tget 0 s.cmd 2).getLsbD 62 && (tget 0 s.cmd 2).getLsbD 63) = false ∧ s.toward (s.cmdWord 1) = false ∧ { s with fabops := [o] }.toward (s.cmdWord 1) = true ∧
    asked u 0x0B [(1, 0xFFF), (2, 0xFF00FFF000000000)] = true ∧
    ((tget 0 u.cmd 2).getLsbD 62 && (tget 0 u.cmd 2).getLsbD 63) = true ∧ (tget 0 u.peers (u.cmdWord 1)).getLsbD 62 = false ∧
    asked (command [(0, 0x0C), (1, 4095), (2, 1), (3, 2)] [] Thread.idle Core.zero) 0x0C [(1, 0xFFF), (2, allBits), (3, allBits)] = true := by
  refine ⟨by decide, by decide, rfl, by decide, by decide, by decide, by decide, by decide, by decide, by decide⟩

/-- HBM holds a tack image of 64 bytes at 0x1000, to be loaded at 0x4000. -/
def imaged : State :=
  let s := command [(0, 0x0D), (2, 0x1000)] [(0, { pad with seqs := 1 })] Thread.idle core0
  { s with mem := ((s.mem.write 0x1000 8 (64 * 2 ^ 32 + 0x4B434154)).write 0x1008 8 0x4000).write 0x1010 8 0x4000 }

theorem imaged_head : (imaged.hostRead 0x1000 64).2 = imaged := by decide +kernel

theorem imaged_body : (imaged.hostRead 0x1040 64).2 = imaged := by decide +kernel

theorem witness_TableCommands_tack : asked imaged 0x0D [(1, 0xFF0F1F), (2, 2 ^ 41 - 1), (3, 1)] = true ∧
    tfind imaged.paddocks (bits (imaged.cmdWord 1) 23 16) = some { pad with seqs := 1 } ∧ imaged.cmdWord 2 % 64 = 0 ∧
    (tget Sequencer.zero imaged.seqs 0).running = false ∧ imaged.cmdWord 3 = 0 ∧
    TackImage.of (headWords (imaged.hostRead 0x1000 64).1) = some ⟨0x4000, 64, 0x4000, 0, 0, false, false⟩ ∧ pad.sigTack = false ∧
    imaged.rangeHeld 0x1000 64 = false ∧ imaged.rangeHeld 0x1040 576 = false ∧
    { imaged with owns := [⟨1, false, .so 16⟩] }.rangeHeld 0x1000 64 = true ∧
    (⟨0x4000, 64, 0x4000, 0, 0, false, false⟩ : TackImage).clashes 0 (tget Sequencer.zero imaged.seqs 0).slots = false ∧
    asked (command [(0, 0x0D), (3, 1)] [(0, { pad with seqs := 1 })] Thread.idle core0) 0x0D [(1, 0xFF0F1F), (2, 2 ^ 41 - 1), (3, 1)] = true ∧
    ((tget Sequencer.zero imaged.seqs 0).slots.map fun x => x.1).Nodup ∧ imaged.mem.anyPoison 0x1000 (64 + 64) = false := by
  refine ⟨by decide, rfl, by decide, rfl, by decide, by decide +kernel, rfl, by decide +kernel, by decide +kernel, by decide +kernel, rfl, by decide,
    by decide, by decide +kernel⟩

/-- That image, for a paddock whose images are to be signed. -/
def signedImage : State := { imaged with paddocks := [(0, { pad with seqs := 1, sigTack := true })] }

/-- The signature behind the image is read; what it proves is a free function of both (R469). -/
theorem witness_TableCommands_signed : asked signedImage 0x0D [(1, 0xFF0F1F), (2, 2 ^ 41 - 1), (3, 1)] = true ∧
    (signedImage.hostRead 0x1080 512).2 = signedImage ∧ (signedImage.hostRead 0x1000 64).2 = signedImage ∧
    signedImage.mem.anyPoison 0x1000 (64 + 64 + 512) = false ∧
    { signedImage with mem := ⟨[], [0x1000 / 8]⟩ }.mem.anyPoison 0x1000 64 = true ∧
    tfind signedImage.paddocks 0 = some { pad with seqs := 1, sigTack := true } := by
  refine ⟨by decide, ?_, ?_, by decide +kernel, by decide, rfl⟩ <;> decide +kernel

theorem witness_TableCommands_attest :
    let s := command [(0, 0x0F), (1, 64)] [] Thread.idle Core.zero
    asked s 0x0F ((1, allBits) :: (List.range 4).map fun k => (2 + k, allBits)) = true ∧ s.cmdWord 1 % 64 = 0 ∧
    hbmAddr (s.cmdWord 1) = true ∧ hbmAddr (s.cmdWord 1 + (s.reportFields.length + 512) - 1) = true ∧
    s.rangeHeld (s.cmdWord 1) (s.reportFields.length + 512) = false ∧
    { s with owns := [⟨1, false, .so 0⟩] }.rangeHeld (s.cmdWord 1) (s.reportFields.length + 512) = true := by
  refine ⟨by decide, by decide, by decide, ?_, ?_, ?_⟩ <;> decide +kernel

theorem witness_TableCommands_update :
    let s := command [(0, 0x10), (1, 64), (2, 1)] [] Thread.idle Core.zero
    asked s 0x10 [(1, allBits), (2, allBits)] = true ∧ s.cmdWord 1 % 64 = 0 ∧ 0 < s.cmdWord 2 ∧ hbmAddr (s.cmdWord 1) = true ∧
    s.cmdWord 1 % 2 ^ 37 + s.cmdWord 2 ≤ 0x140000 * 2 ^ 16 ∧ s.hostRead (s.cmdWord 1) (s.cmdWord 2) = ([0], s) ∧
    s.mem.anyPoison (s.cmdWord 1) (s.cmdWord 2) = false ∧
    s.rangeHeld (s.cmdWord 1) (s.cmdWord 2) = false ∧ { s with owns := [⟨1, false, .so 0⟩] }.rangeHeld (s.cmdWord 1) (s.cmdWord 2) = true := by
  refine ⟨by decide, by decide, by decide, by decide, by decide, rfl, by decide, by decide +kernel, by decide +kernel⟩

/-! ### Copies and the tile engine -/

theorem reaches_all {s : State} {a w n : Nat}
    (h : ((List.range n).all fun k => decide (a + w * k + w ≤ 2 ^ 20) && decide ((a + w * k) % w = 0) &&
      decide ((s.core s.here).xbound.toNat ≤ a + w * k) && !s.heldAt (.loc s.here (a + w * k)) w &&
      !s.mem.anyPoison (Region.local s.here + (a + w * k)) w) = true) :
    ∀ k, k < n → Reaches s (a + w * k) w := by
  intro k hk
  have := List.all_eq_true.mp h k (List.mem_range.mpr hk)
  simp only [Bool.and_eq_true, decide_eq_true_eq, Bool.not_eq_true'] at this
  exact ⟨this.1.1.1.1, this.1.1.1.2, fun _ => this.1.1.2, this.1.2, this.2⟩

/-- Slot 15 of core 0 with a pair of records for two doublewords at 0x8000, s1 their address and s2 a control word. -/
def copying (ctl : Nat) : State :=
  put (sys 15 (thr [(1, 0x8000), (2, ctl)]))
    [(0x8000, 2 ^ 52 + 3 * 2 ^ 48 + 0x9000), (0x8008, 8 * 2 ^ 32 + 2), (0x8030, 2 ^ 52 + 3 * 2 ^ 48 + 0xA000), (0x8038, 8 * 2 ^ 32 + 2)]

theorem witness_CopiesIssue :
    let s := copying 0
    let ws := (List.range 12).map fun k => s.mem.read (Region.local s.here + ((s.sv 1).toNat + 8 * k)) 8
    Ready s 0 [.s 2, .s 1, .s 0] [] ∧ Settled s ∧ s.cur % 16 = 15 ∧ (s.sv 1).toNat % 8 = 0 ∧
    (∀ k, k < 12 → Reaches s ((s.sv 1).toNat + 8 * k) 8) ∧
    (∃ x y, Shape.of (ws.take 6) = some x ∧ Shape.of (ws.drop 6) = some y ∧ pairCheck (s.sv 1) x y = none ∧
      s.lockRoom (spanLocks s.here s.nextId true x.span.1 x.span.2 ++ spanLocks s.here s.nextId false y.span.1 y.span.2) = true) ∧
    (s.core s.here).copyQ.length < 4 ∧ bits (s.sv 2).toNat 8 4 = 0 :=
  ⟨ready_of rfl rfl rfl, settled_of rfl rfl rfl rfl, by decide, by decide, reaches_all rfl, ⟨_, _, rfl, rfl, rfl, by decide +kernel⟩, by decide,
    by decide⟩

theorem witness_CopiesIssue_token :
    let s := copying (3 * 16 + 15)
    bits (s.sv 2).toNat 8 4 = 3 ∧ (s.thread (s.here * 16 + bits (s.sv 2).toNat 3 0)).state ≠ .idle ∧
    ((s.thread (s.here * 16 + bits (s.sv 2).toNat 3 0)).sreg 3).pend = false := by decide

theorem witness_CopiesIssue_barrier :
    let s := copying (0x8100 * 2 ^ 32)
    let w := (s.sv 2).toNat
    bits w 23 16 < 64 ∧ bits w 31 24 < 32 ∧ s.samePaddock s.here (coreAt (bits w 23 16) (bits w 31 24)) = true ∧ bits w 51 32 % 8 = 0 ∧
    (s.core (coreAt (bits w 23 16) (bits w 31 24))).xbound.toNat ≤ bits w 51 32 := by decide

/-- A copy of two doublewords of core 0 from 0x9000 to 0xA000. -/
def aCopy : CopyCmd :=
  { ser := 9, tid := 15, src := ⟨1, 3, 0x9000, [2, 0, 0, 0], [8, 0, 0, 0]⟩, dst := ⟨1, 3, 0xA000, [2, 0, 0, 0], [8, 0, 0, 0]⟩
    scope := none, user := true, token := some (15, 3), bar := none, count := 2, started := false, srcDone := false, visDone := false
    buf := [], asked := none, fail := none }

/-- Slot 15 of core 0 with that copy in the queue. -/
def copies (c : CopyCmd) : State := { sys 15 (thr []) with cores := [(0, { core0 with copyQ := [c] })] }

/-- What a place of a copy must be. -/
def fits (s : State) (c : CopyCmd) (a : Nat) : Bool :=
  decide (a + c.size ≤ 2 ^ 20) && decide (a % c.size = 0) && decide ((s.core 0).xbound.toNat ≤ a) && !s.heldFor (.loc 0 a) c.size c.ser &&
    !s.mem.anyPoison (Region.local 0 + a) c.size

theorem witness_CopiesRun_start : ((copies aCopy).core 0).copyQ = [aCopy] ∧ aCopy.tid / 16 = 0 ∧ aCopy.asked = none ∧ NoWatches (copies aCopy) ∧
    (copies aCopy).Inv ∧ aCopy.srcDone = false ∧ aCopy.started = false := ⟨rfl, rfl, rfl, no_watches rfl, rfl, rfl, rfl⟩

theorem witness_CopiesRun_read :
    let c := { aCopy with started := true }
    ((copies c).core 0).copyQ = [c] ∧ c.srcDone = false ∧ c.started = true ∧ c.buf = [] ∧ c.fail = none ∧
    (∀ k, k < c.count → fits (copies c) c (c.src.addr k) = true ∧ fits (copies c) c (c.dst.addr k) = true) :=
  ⟨rfl, rfl, rfl, rfl, rfl, by decide⟩

theorem witness_CopiesRun_write :
    let c := { aCopy with started := true, srcDone := true, buf := [(0, 5, []), (1, 6, [])] }
    ((copies c).core 0).copyQ = [c] ∧ c.srcDone = true ∧ c.visDone = false ∧ c.bar = none ∧ c.fail = none ∧
    (∀ b ∈ c.buf, fits (copies c) c (c.dst.addr b.1) = true ∧ b.2.2 = [] ∧ b.2.1 < 256 ^ c.size) ∧
    { c with visDone := true }.visDone = true ∧
    c.buf.Pairwise (fun a b => c.dst.addr a.1 + c.size ≤ c.dst.addr b.1 ∨ c.dst.addr b.1 + c.size ≤ c.dst.addr a.1) :=
  ⟨rfl, rfl, rfl, rfl, rfl, by decide, rfl, by decide⟩

theorem witness_CopiesRun_barrier :
    let c := { aCopy with started := true, srcDone := true, token := none, bar := some (0, 0x8100) }
    ((copies c).core 0).copyQ = [c] ∧ c.srcDone = true ∧ c.visDone = false ∧ c.fail = none ∧ c.buf = [] ∧ c.bar = some (0, 0x8100) ∧ 0x8100 % 8 = 0 ∧
    (copies c).lockedFor 0 0x8100 8 c.ser = false ∧ (copies c).mem.anyPoison (Region.local 0 + 0x8100) 8 = false :=
  ⟨rfl, rfl, rfl, rfl, rfl, rfl, rfl, rfl, rfl⟩

theorem witness_CopiesRun_fault :
    let c := { aCopy with started := true, dst := ⟨1, 3, 0xA000, [2, 0, 0, 0], [-0x3000, 0, 0, 0]⟩ }
    let d := { c with buf := [(0, 5, [])], fail := some (1, 7, 0) }
    ((copies c).core 0).copyQ = [c] ∧ c.srcDone = false ∧ c.started = true ∧ c.buf = [] ∧ c.fail = none ∧ 1 < c.count ∧
    (∃ f, (copies c).elemFails c 1 = some f) ∧
    (∀ j, j < 1 → fits (copies c) c (c.src.addr j) = true ∧ fits (copies c) c (c.dst.addr j) = true) ∧
    ((copies d).core 0).copyQ = [d] ∧ d.visDone = false ∧ d.bar = none ∧ d.fail = some (1, 7, 0) ∧
    (∀ b ∈ d.buf, fits (copies d) d (d.dst.addr b.1) = true ∧ b.2.2 = [] ∧ b.2.1 < 256 ^ d.size) ∧ (∀ b ∈ d.buf, b.1 < 1) :=
  ⟨rfl, rfl, rfl, rfl, rfl, by decide, ⟨_, rfl⟩, by decide, rfl, rfl, rfl, rfl, by decide, by decide⟩

theorem witness_CopiesRun_barrier_fault :
    let c := { aCopy with started := true, token := none, bar := some (0, 0x8100), buf := [(0, 5, [])], fail := some (1, 7, 0) }
    ((copies c).core 0).copyQ = [c] ∧ c.asked = none ∧ c.visDone = false ∧ c.token = none ∧ c.bar = some (0, 0x8100) ∧ 0x8100 % 8 = 0 ∧
    0x8100 + 8 ≤ 2 ^ 20 ∧ c.fail = some (1, 7, 0) ∧ (copies c).lockedFor 0 0x8100 8 c.ser = false ∧
    (∀ b ∈ c.buf, fits (copies c) c (c.dst.addr b.1) = true ∧ b.2.2 = [] ∧ b.2.1 < 256 ^ c.size) ∧ (∀ b ∈ c.buf, b.1 < 1) ∧
    (copies c).mem.anyPoison (Region.local 0 + 0x8100) 8 = false ∧
    ∀ b ∈ c.buf, c.dst.addr b.1 + c.size ≤ 0x8100 ∨ 0x8100 + 8 ≤ c.dst.addr b.1 := by
  refine ⟨rfl, rfl, rfl, rfl, rfl, rfl, by decide, rfl, rfl, by decide, by decide, rfl, by decide⟩

/-- Element 0 is written, the barrier takes its arrival, and `wait` in slot 15 will report the error (R343). -/
theorem test_barrier_copy_fails :
    (match execCopyFault 0 9 (copies { aCopy with started := true, token := none, bar := some (0, 0x8100), buf := [(0, 5, [])], fail := some (1, 7, 0) }) with
    | .next t => decide (t.mem.byte (Region.local 0 + 0xA000) = 5) && decide (t.mem.byte (Region.local 0 + 0x8104) = 1) &&
        (t.thread 15).errSt
    | _ => false) = true := by decide +kernel

theorem witness_TileCommandsIssue :
    let s := two 0x10000 0x100010000
    Settled s ∧ freeEntry (s.core s.here).tileQ = some 0 ∧ s.lines = [] ∧ Ready s 0 [.s 1, .s 2] [] ∧
    (s.sv 1).toNat % 64 = 0 ∧ (s.sv 1).toNat + 16384 ≤ 2 ^ 20 ∧ (s.core s.here).xbound.toNat ≤ (s.sv 1).toNat ∧
    s.scale false 11 (s.sv 2) = none ∧ s.scale true 11 (s.sv 2) = none ∧ s.th.rounding .rne = some .rne ∧
    s.lockRoom ((s.newTile (.mldz 0 7 1) (.mldz 7) (s.sv 1) 0 0 0).spans.map fun x => (s.here, (⟨s.nextId, x.1, x.2.1, x.2.2⟩ : Lock))) = true :=
  ⟨settled_of rfl rfl rfl rfl, rfl, rfl, ready_of rfl rfl rfl, by decide, by decide, by decide, rfl, rfl, rfl, by decide +kernel⟩

/-- Slot 0 with the matrix record of 64 rows of 192 bytes at s1 = 0x8000, the matrix at 0x10000. -/
def matrices : State :=
  put (two 0x8000 0x8000) [(0x8000, 2 * 2 ^ 52 + 0x10000), (0x8008, 2 ^ 32 + 192), (0x8010, 192 * 2 ^ 32 + 64)]

theorem witness_TileCommandsIssue_mma :
    let words := (List.range 6).map fun k => matrices.mem.read (Region.local matrices.here + ((matrices.sv 1).toNat + 8 * k)) 8
    (matrices.sv 1).toNat % 8 = 0 ∧ (∀ k, k < 6 → Reaches matrices ((matrices.sv 1).toNat + 8 * k) 8) ∧
    ∃ m, Shape.of words = some m ∧ m.matrix = true ∧ matrices.rows m.base (m.st.getD 1 0).toNat (matrices.sv 1) = none := by
  refine ⟨by decide, reaches_all rfl, _, rfl, ?_, ?_⟩ <;> decide +kernel

/-- Slot 0 with the continuation record of an mzero at s1 = 0x8000. -/
def continued : State := put (two 0x8000 0) [(0x8000, 0x060001F1)]

/-- A command in entry 3. -/
def aTile (op : TileOp) (a b : Word) : TileCmd :=
  { entry := 3, ser := 9, tid := 0, op := op, insn := 0, group := 0, next := 0, opa := a, opb := b, sta := 192, stb := 192, bpa := 0, bkey := 0
    started := false, srcDone := false, stop := none, narrow := false, flags := 0 }

/-- The command of that record. -/
def continuedCmd : TileCmd := { aTile (.mzero 7) 0 0 with entry := 0, ser := 0, insn := 0x060001F1, sta := 0, stb := 0 }

theorem continued_reaches : ∀ k, k < 16 → Reaches continued ((continued.sv 1).toNat + 8 * k) 8 := reaches_all (by decide +kernel)

theorem continued_words : continued.resumed ((List.range 16).map fun k =>
    continued.mem.read (Region.local continued.here + ((continued.sv 1).toNat + 8 * k)) 8) = some continuedCmd := by decide +kernel

theorem continued_op (bf : Bool) (rm : Rm) (m : Nat) : continuedCmd.op ≠ .mstz bf rm m := TileOp.noConfusion

theorem witness_TileCommandsIssue_mresume : (continued.sv 1).toNat % 128 = 0 ∧
    (∀ k, k < 16 → Reaches continued ((continued.sv 1).toNat + 8 * k) 8) ∧
    continued.resumed ((List.range 16).map fun k =>
      continued.mem.read (Region.local continued.here + ((continued.sv 1).toNat + 8 * k)) 8) = some continuedCmd ∧
    (∀ bf rm m, continuedCmd.op = .mstz bf rm m → continued.th.rounding rm = some .rne) ∧
    continued.tileCheck continuedCmd (continued.sv 1) (continued.sv 1) = (.ok continuedCmd, continued) :=
  ⟨rfl, continued_reaches, continued_words, fun bf rm m h => absurd h (continued_op bf rm m), rfl⟩

/-- Slot 0 with a TLB entry for the matrix of mvs. -/
def streaming : State :=
  { two 0x10000 0x10000000 with
      cores := [(0, { core0 with tlb := [⟨0x10000000, 28, 0xF400000000000000#64⟩] })] }

theorem ok_of {r : Except NoPlace (Nat × Nat) × State} {x : Nat × Nat} {t : State}
    (h : (match r with
      | (.ok y, u) => decide (y = x) && decide (u = t)
      | _ => false) = true) : r = (.ok x, t) := by
  obtain ⟨y | y, u⟩ := r <;> simp_all

theorem witness_TileCommandsIssue_mvs : Settled streaming ∧ freeEntry (streaming.core streaming.here).tileQ = some 0 ∧
    streaming.lines = [] ∧ Ready streaming 0 [.s 1, .s 2] [] ∧ streaming.mvsArea 11 (streaming.sv 1) (streaming.sv 2) = none ∧
    streaming.mvsBase (streaming.sv 2) = (.ok (0, 0), streaming) :=
  ⟨settled_of rfl rfl rfl rfl, rfl, rfl, ready_of rfl rfl rfl, by decide +kernel, ok_of (by decide +kernel)⟩

/-- A running mma of six blocks that PREEMPT has marked after its first completes, where PREEMPT came during its last (R368). -/
theorem test_mma_stopped_late :
    let c := { aTile (.mma (.mx .e4m3) 0) 0x10000 0x14000 with started := true, stop := some (1, true) }
    (match execTileCommandStop 0 3 6 { sys 0 (thr []) with cores := [(0, { core0 with tileQ := [c] })] } with
      | .next t => decide ((t.core 0).tileQ = [{ c with stop := none }]) && decide (t.due = [.tileSource 0 3])
      | _ => false) = true := by decide +kernel

/-- Slot 0 with `n` sealed groups still at work. -/
def sealed (n : Nat) : State := sys 0 { thr [] with commits := n, tgroups := List.range n }

theorem witness_TileGroups_groups : Ready (sealed 31) 0 [] [] ∧ Settled (sealed 31) ∧ (sealed 31).th.openGroups < 32 ∧
    Ready (sealed 32) 0 [] [] ∧ Settled (sealed 32) ∧ 32 ≤ (sealed 32).th.openGroups ∧ (sealed 31).th.openGroups ≤ (31 : BitVec 5).toNat ∧
    (30 : BitVec 5).toNat < (sealed 31).th.openGroups :=
  ⟨ready_of rfl rfl rfl, settled_of rfl rfl rfl rfl, by decide, ready_of rfl rfl rfl, settled_of rfl rfl rfl rfl, by decide, by decide,
    by decide⟩

/-- Slot 1 holds work of a path that was kept; slot 0 has its turn. -/
def held (pen : List PenItem) (cbuf : List BufCmd) : State :=
  { sys 0 (thr []) with threads := [(0, thr []), (1, { thr [] with pen := pen })], cores := [(0, { core0 with cbuf := cbuf })] }

theorem witness_TileGroups_drain :
    let e : Elem := ⟨0, 0x8000, .loc 0 0x8000, 8, 5, [], 0, false, false, none, false⟩
    let s := held [.store false ⟨[e], none, false, false⟩] []
    s.Inv ∧ (s.thread 1).pen = .store false ⟨[e], none, false, false⟩ :: [] ∧ s.flights = [] ∧ e.va < privTop ∧ e.place = .loc (1 / 16) e.va ∧
    e.done = false ∧ e.va % e.w = 0 ∧ e.w ∈ [1, 2, 4, 8] ∧ s.heldAt e.place e.w = false ∧ NoWatches s ∧
    s.mem.anyPoison (Region.local (1 / 16) + e.va) e.w = false ∧ Ready s 0 [] [] :=
  ⟨rfl, rfl, rfl, by decide, rfl, rfl, by decide, by decide, rfl, no_watches rfl, rfl, ready_of rfl rfl rfl⟩

/-- A command that the thread has still to issue keeps `mwait 0` waiting (R252, R367). -/
theorem test_mwait_behind_kept_path : ((held [.cmd false 7] [⟨7, 1, .commit⟩]).thread 1).openGroups = 1 := rfl

theorem witness_TileGroups_release :
    let x : BufCmd := ⟨7, 1, .commit⟩
    let s := held [.cmd false 7] [x]
    (s.thread 1).pen = .cmd false 7 :: [] ∧ (s.core (1 / 16)).cbuf = [x] ∧ x.id = 7 ∧ x.op = .commit ∧ (s.thread 1).openGroups < 32 ∧
    Ready s 0 [] [] :=
  ⟨rfl, rfl, rfl, rfl, by decide, ready_of rfl rfl rfl⟩

/-- Core 0 with one tile command of slot 0 in entry 3. -/
def tiling (c : TileCmd) (pre : Bool) : State :=
  { sys 0 { thr [] with tgroups := [0] } with cores := [(0, { core0 with tileQ := [c], preempted := pre })] }

theorem witness_TileGroups_command :
    let c := aTile (.mzero 0) 0 0
    (tiling c false).tileCmd 0 c.entry = some c ∧ ((tiling c false).core 0).tileQ.Pairwise (fun a b => a.ser ≠ b.ser) ∧
    c.started = false ∧ c.stop = none ∧ (tiling c false).tileReady 0 c = true ∧
    { c with stop := some (0, true) }.stop.isSome = true ∧ { c with srcDone := true }.srcDone = true ∧ (tiling c true).Inv ∧
    ((tiling { c with stop := some (0, true) } true).core 0).tileQ = [{ c with stop := some (0, true) }] ∧ c.next = 0 ∧ c.entry < 16 ∧ ((tiling c true).thread c.tid).chain = [] ∧
    NoWatches (tiling c true) ∧ ((tiling c true).core 0).locks = [] ∧
    (tiling { c with started := true, srcDone := true } false).tileCmd 0 3 = some { c with started := true, srcDone := true } :=
  ⟨rfl, by decide, rfl, rfl, rfl, rfl, rfl, rfl, rfl, rfl, by decide, rfl, no_watches rfl, rfl, rfl⟩

theorem witness_TileGroups_fault :
    let s := sys 0 { thr [] with chain := [(0xF5800, true), (0xF5880, false)] }
    s.th.chain = (0xF5800, true) :: [(0xF5880, false)] ∧ s.th.ts.hold = false ∧ s.th.ts.unrc = false ∧ s.th.ts.unrv = false ∧ s.th.spec = none ∧
    s.th.wait = none ∧ s.th.irqDue = none ∧ (∀ d ∈ (s.core s.here).tileQ, d.tid = s.cur → d.stop = none) :=
  ⟨rfl, rfl, rfl, rfl, rfl, rfl, rfl, by decide⟩

theorem witness_TileGroups_stopping :
    let c := { aTile (.mzero 0) 0 0 with stop := some (0, true) }
    c ∈ ((tiling c true).core (tiling c true).here).tileQ ∧ c.tid = (tiling c true).cur ∧ c.stop.isSome = true :=
  ⟨by decide, rfl, rfl⟩

/-- What the statement on results asks of a started command. -/
def working (c : TileCmd) : Bool :=
  let s := tiling { c with started := true } false
  s.tileCmd 0 3 == some { c with started := true } && decide (c.next < c.blocks) &&
    (s.flushB { c with started := true }).firstPoison 0 { c with started := true } c.next (c.blocks - c.next) == none && c.stop == none &&
    !s.tileHeld 0 { c with started := true } && s.cores.all (fun x => x.2.watches.isEmpty) && s.mem.wf

theorem witness_TileResults_simple : working (aTile (.mzero 7) 0 0) = true ∧ working (aTile (.mldz 7) 0xFC000 0) = true ∧
    0xFC000 + 16384 ≤ 2 ^ 20 ∧ working (aTile (.mstz true .rne 7) 0xFE000 0) = true ∧ 0xFE000 + 8192 ≤ 2 ^ 20 ∧ 0xFE000 % 8 = 0 ∧
    (tiling (aTile (.mstz true .rne 7) 0xFE000 0) false).mem.anyPoison (Region.tile 0 7) 32768 = false := by decide +kernel

theorem witness_TileResults_products : working (aTile (.mma .bf16 9) 0x10000 0x20000) = true ∧ 9 + MmaFmt.bf16.blocks ≤ 16 ∧
    0x10000 + 63 * (192 : Word).toNat + 192 ≤ 2 ^ 20 ∧ working (aTile (.msacc true 7 11) 0x100010000 0) = true ∧
    11 + (aTile (.msacc true 7 11) 0x100010000 0).blocks ≤ 16 ∧ working (aTile (.mvs .e4m3 11) 0x10000 0x10000000) = true ∧
    11 + mvsBlocks 0x10000000 ≤ 16 ∧ 0x10000 % 8 = 0 ∧ 0x10000 + 512 + 4096 * mvsBlocks 0x10000000 ≤ 2 ^ 20 := by decide +kernel

/-! ### Yards and axes -/

/-- Member `me` of a yard of two cores: four logical bits, three of them local, on doublewords. -/
def aYard (me : Nat) : Yard :=
  { Yard.zero with
      cfg := true, ty := .c64, n := 4, l := 3, u := 3, gid := 5, members := [0, 0x400000010000], me := me, map := [0, 1, 2, 3]
      place := [0, 1, 2, 3], tid := me * 16 }

/-- Slot 0 of core 0 with the registers and memory given, in group 5, whose core and neighbour have the yards given. -/
def yards (rs ws : List (Nat × Nat)) (m : Memb) (y z : Yard) : State :=
  put { sys 0 { thr rs with memb := [(0, m)] } with
      threads := [(0, { thr rs with memb := [(0, m)] }), (16, { thr [] with memb := [(0, { member5 with index := 1 })] })]
      cores := [(0, { core0 with yard := y }), (1, { core0 with yard := z })], paddocks := [(0, { pad with xhi := 1 })] } ws

/-- A yard record at 0x8000 and its member table at 0x8100. -/
def yardWords : List (Nat × Nat) :=
  [(0x8000, 3 * 2 ^ 24 + 3 * 2 ^ 16 + 4 * 2 ^ 8), (0x8008, 5), (0x8010, 0x100000), (0x8018, 0x8100), (0x8108, 0x400000010000)]

theorem witness_YardInstructions_ycfg :
    let s := yards [(1, 0x8000)] yardWords member5 .zero .zero
    let r : YardRec := ⟨.c64, 3, 3, 4, 5, 0x100000, 0x8100⟩
    Settled s ∧ Ready s 0 [.s 1] [] ∧ (s.core s.here).yard.busy = false ∧ (s.core s.here).axisQ = [] ∧ (s.sv 1).toNat % 64 = 0 ∧
    (∀ j, j < 8 → Reaches s ((s.sv 1).toNat + 8 * j) 8) ∧
    YardRec.of ((List.range 8).map fun j => s.mem.read (Region.local s.here + ((s.sv 1).toNat + 8 * j)) 8) = some r ∧
    s.th.memberOf (BitVec.ofNat 48 r.gid) = some 0 ∧ member5 = s.th.mem 0 ∧ r.ok (some member5) = true ∧
    (∀ j, j < 2 ^ (r.n - r.l) → Reaches s (r.mtab + 8 * j) 8) ∧
    tableOk r s.ident.toNat s.here member5.index.toNat
      ((List.range (2 ^ (r.n - r.l))).map fun j => s.mem.read (Region.local s.here + (r.mtab + 8 * j)) 8) = true :=
  ⟨settled_of rfl rfl rfl rfl, ready_of rfl rfl rfl, rfl, rfl, by decide, reaches_all (by decide +kernel), by decide +kernel, rfl, rfl,
    by decide +kernel, reaches_all (by decide +kernel), by decide +kernel⟩

/-- Slot 0 on core 0 of that yard. -/
def yarded (y : Yard) : State := yards [] [] member5 y (aYard 1)

theorem member_of {s : State} {k : Nat} (h1 : s.th.memberOf (s.core s.here).yard.gid = some k) (h2 : (s.core s.here).yard.cfg = true)
    (h3 : (s.th.mem k).diss = false) (h4 : (s.core s.here).yard.div = none)
    (h5 : (s.core s.here).yard.dead = false) : YardMember s k := ⟨h1, h2, h3, h4, h5⟩

/-- `n` pending swaps of the positions 3 and 1, the newest of 3 and 2. -/
def pending (n : Nat) : List SwapRec := List.replicate (n - 1) ⟨3, 1, 1, 0⟩ ++ [⟨3, 2, 2, 0⟩]

theorem witness_YardInstructions_yswap :
    let s := yarded { aYard 0 with pend := pending 1 }
    Settled s ∧ Ready s 0 [] [] ∧ YardMember s 0 ∧ (aYard 0).l ≤ (3 : BitVec 6).toNat ∧ (3 : BitVec 6).toNat < (aYard 0).n ∧
    (aYard 0).unitBit ≤ (2 : BitVec 6).toNat ∧ (2 : BitVec 6).toNat < (aYard 0).l ∧ (s.core s.here).yard.trig = [] ∧
    (s.core s.here).yard.pend.getLast? = some ⟨3, 2, 2, 0⟩ ∧ (s.core s.here).yard.pend.length < 16 ∧
    ¬ ((⟨3, 2, 2, 0⟩ : SwapRec).r = 3 ∧ (⟨3, 2, 2, 0⟩ : SwapRec).l = 0) ∧
    (let u := yarded { aYard 0 with pend := pending 16 }
     (u.core u.here).yard.pend.length = 16 ∧ (u.core u.here).yard.pend = ⟨3, 1, 1, 0⟩ :: (pending 15) ∧
     (u.core u.here).yard.moving = none ∧ (u.core u.here).axisQ = [] ∧ (u.core u.here).yard.pend.getLast? = some ⟨3, 2, 2, 0⟩) := by
  refine ⟨settled_of rfl rfl rfl rfl, ready_of rfl rfl rfl, member_of rfl rfl rfl rfl rfl, ?_⟩
  decide

theorem witness_YardInstructions_ywant :
    let s := yarded (aYard 0)
    Settled s ∧ Ready s 0 [] [] ∧ YardMember s 0 ∧ (∀ b ∈ [3, 0], b < (s.core s.here).yard.n) ∧
    ((s.core s.here).yard.name true [3, 0] s.nextId).isSome = true ∧ (s.core s.here).yard.pend = [] ∧ (s.core s.here).yard.busy = false ∧
    (s.core s.here).axisQ = [] ∧ Ready s 0 [] [.s 3] :=
  ⟨settled_of rfl rfl rfl rfl, ready_of rfl rfl rfl, member_of rfl rfl rfl rfl rfl, by decide, by decide +kernel, rfl, rfl, rfl,
    ready_of rfl rfl rfl⟩

theorem witness_YardInstructions_ysync :
    let s := yarded { aYard 0 with pend := pending 1, moving := some ⟨⟨3, 1, 1, 0⟩, true, 0, 0, 0, 0⟩ }
    Settled s ∧ Ready s 0 [] [] ∧ YardMember s 0 ∧ (s.core s.here).yard.pend ≠ [] ∧ s.th.wait ≠ some .yard ∧
    (s.core s.here).yard.trig = [] ∧ (s.core s.here).yard.moving.isSome = true :=
  ⟨settled_of rfl rfl rfl rfl, ready_of rfl rfl rfl, member_of rfl rfl rfl rfl rfl, by decide, by decide, rfl, rfl⟩

theorem witness_YardInstructions_traps :
    (yards [] [] Memb.none (aYard 0) .zero).th.memberOf 5 = none ∧
    (yards [] [] { member5 with diss := true } (aYard 0) .zero).th.memberOf 5 = some 0 ∧
    ((yards [] [] { member5 with diss := true } (aYard 0) .zero).th.mem 0).diss = true ∧
    (let s := yarded { aYard 0 with div := some 7 }
     s.th.memberOf (s.core s.here).yard.gid = some 0 ∧ (s.core s.here).yard.cfg = true ∧ (s.th.mem 0).diss = false ∧
     (s.core s.here).yard.dead = false ∧ (s.core s.here).yard.div = some 7) ∧
    (yarded { aYard 0 with dead := true }).th.memberOf 5 = some 0 ∧ ((yarded { aYard 0 with dead := true }).core 0).yard.dead = true := by
  decide

theorem witness_AxisCommandsIssue :
    let s := yards [(1, 0x8000), (2, 2 ^ 60), (3, 2 ^ 60 + 1)] [] member5 (aYard 0) (aYard 1)
    Settled s ∧ YardMember s 0 ∧ (s.core s.here).yard.ty = .c64 ∧ (s.core s.here).axisQ.length < 4 ∧
    Ready s 0 [.s 3, .s 1, .s 2] [] ∧ bitList (s.sv 2).toNat 4 5 = some [0] ∧ controlWord (s.sv 3).toNat 4 [0] = some ([1], 0) ∧
    (s.sv 1).toNat % 64 = 0 ∧ (∀ j, j < 8 → Reaches s ((s.sv 1).toNat + 8 * j) 8) ∧
    ((s.core s.here).yard.name false [0] s.nextId).isSome = true ∧ bitList (s.sv 2).toNat 4 8 = some [0] ∧
    Ready s 0 [] [.s 4, .s 5] ∧ (s.core s.here).yard.busy = false ∧ (s.core s.here).axisQ = [] ∧
    (∀ j, j < 2 ^ (s.core s.here).yard.l → s.stripeHeld (s.core s.here).yard s.nextId j = false) :=
  ⟨settled_of rfl rfl rfl rfl, member_of rfl rfl rfl rfl rfl, rfl, by decide, ready_of rfl rfl rfl, by decide +kernel, by decide +kernel,
    by decide, reaches_all (by decide +kernel), by decide +kernel, by decide +kernel, ready_of rfl rfl rfl, rfl, rfl, by decide⟩

theorem witness_Groups_yard :
    let s := yarded (aYard 0)
    s.th.spec = none ∧ Ready s 0 [] [] ∧ (s.th.mem 0).valid = true ∧ (s.core s.here).yard.cfg = true ∧
    (s.core s.here).yard.gid = (s.th.mem 0).gid ∧ (s.core s.here).yard.tid = s.cur ∧ (s.core s.here).yard.busy = false ∧
    (s.core s.here).axisQ = [] ∧ s.yardArrived s.here = false ∧ s.swappedOut s.cur = false :=
  ⟨rfl, ready_of rfl rfl rfl, rfl, rfl, rfl, rfl, rfl, rfl, rfl, rfl⟩

/-- The swap of positions 3 and 1 moves on both cores. -/
def swapping (m n : Moving) : State := yards [] [] member5 { aYard 0 with moving := some m } { aYard 1 with moving := some n }

theorem witness_YardMoves_handshake :
    let m : Moving := ⟨⟨3, 1, 1, 0⟩, false, 0, 0, 0, 0⟩
    let s := swapping m m
    (s.core 0).yard.moving = some m ∧ (s.core 1).yard.moving = some m ∧ 0 ≠ 1 ∧ 1 < 2048 ∧
    s.memberCore (s.core 0).yard ((s.core 0).yard.partner m.sw.r) = 1 ∧ (s.core 0).yard.div = none ∧ (s.core 1).yard.div = none ∧
    (s.core 0).yard.dead = false ∧ (s.core 1).yard.dead = false ∧
    (s.core 1).yard.ty = (s.core 0).yard.ty ∧ (s.core 1).yard.l = (s.core 0).yard.l ∧ (s.core 1).yard.u = (s.core 0).yard.u ∧
    m.shook = false ∧ (s.core 1).yard.cfg = true ∧ (s.core 1).yard.gid = (s.core 0).yard.gid ∧
    (s.core 1).yard.recWords = (s.core 0).yard.recWords ∧ (s.core 1).yard.members = (s.core 0).yard.members ∧
    (s.core 0).yard.tid ≠ (s.core 1).yard.tid ∧ { m with sw := { m.sw with gen := 2 } }.sw.gen ≠ m.sw.gen := by decide

theorem witness_YardMoves_start :
    let m : Moving := ⟨⟨3, 1, 1, 0⟩, true, 0, 3, 0, 0⟩
    let s := swapping m m
    m.shook = true ∧ m.f + m.inflight < (s.core 0).yard.units ∧ m.inflight < 16 ∧ (s.core 0).preempted = false ∧
    (s.core 1).preempted = false ∧ s.memberCore (s.core 0).yard ((s.core 0).yard.partner m.sw.r) = 1 ∧
    s.coreOut 0 = false ∧ s.coreOut 1 = false ∧
    s.unitOwned 0 (s.core 0).yard m.sw (m.f + m.inflight) = false ∧ s.unitOwned 1 (s.core 1).yard m.sw (m.f + m.inflight) = false := by decide

/-- The stripes of both yards lie in their slices. -/
def stripes (s : State) : State := { s with lines := [⟨0, 0, 0, false, false⟩, ⟨1, 0x10000, 0, false, false⟩] }

theorem witness_YardMoves_complete :
    let m : Moving := ⟨⟨3, 1, 1, 0⟩, true, 3, 1, 0, 0⟩
    let s := stripes (swapping m m)
    0 < m.inflight ∧ Resident s 0 (s.core 0).yard ∧ Resident s 1 (s.core 1).yard ∧ s.Inv ∧ (s.core 0).yard.trig = [] ∧
    (s.core 1).yard.trig = [] ∧ (∀ e, e < 2 ^ (s.core 0).yard.unitBit →
      (s.core 0).yard.unitIndex m.sw m.f e < 2 ^ (s.core 0).yard.l ∧ (s.core 1).yard.unitIndex m.sw m.f e < 2 ^ (s.core 0).yard.l) ∧
    s.memberCore (s.core 0).yard ((s.core 0).yard.partner m.sw.r) = 1 ∧ 3 ≤ (s.core 0).yard.u ∧
    (s.core 0).yard.ty.log ≤ (s.core 0).yard.u ∧ (s.core 0).yard.unitBit ≤ m.sw.l :=
  ⟨by decide, ⟨by decide, by decide, by decide +kernel, by decide, by decide, no_watches rfl⟩,
    ⟨by decide, by decide, by decide +kernel, by decide, by decide, no_watches rfl⟩, rfl, rfl, rfl, by decide, by decide, by decide, by decide, by decide⟩

/-- A load of one element of the yard under way at core 0. -/
def yardLoad (i : Nat) : State :=
  { stripes (yarded (aYard 0)) with
      flights := [⟨9, 0, .load, [⟨0, 0, .yard 0 i 0, 8, 0, [], 0, false, false, none, false⟩], false, false, false, .scalar 3 8 false,
        false, false, false⟩] }

theorem witness_YardMoves_access : ∃ f e, (yardLoad 9).flights = [f] ∧ (yardLoad 9).fabops = [] ∧ f.elems = [e] ∧ e.place = .yard 0 9 0 ∧ e.done = false ∧
    e.sent = false ∧ e.poison = false ∧ (yardLoad 9).hop 0 9 = .to 1 ∧ 1 < 2048 ∧ f.kind = .load ∧ e.w = 8 ∧ e.laid = [] ∧ f.rel = false ∧
    f.so = false ∧ (yardLoad 7).hop 0 7 = .here (((yardLoad 7).core 0).yard.base + 7 * 8) ∧ 7 < 2 ^ 3 ∧
    Resident (yardLoad 7) 0 ((yardLoad 7).core 0).yard ∧ (yardLoad 7).heldAt (.line 0 56 0) 8 = false :=
  ⟨_, _, rfl, rfl, rfl, rfl, rfl, rfl, rfl, by decide +kernel, by decide, rfl, rfl, rfl, rfl, rfl, by decide +kernel, by decide,
    ⟨by decide, by decide, by decide +kernel, by decide, by decide, no_watches rfl⟩, rfl⟩

theorem witness_YardMoves_denied :
    let s := { yardLoad 9 with cores := [] }
    ∃ f e, s.flights = [f] ∧ f.elems = [e] ∧ e.place = .yard 0 9 0 ∧ s.hop 0 9 = .denied ∧ f.kind = .load ∧ f.rel = false ∧ f.so = false :=
  ⟨_, _, rfl, rfl, rfl, rfl, rfl, rfl, rfl⟩

theorem witness_YardMoves_end :
    let s := yards [] [] Memb.none { aYard 0 with dead := true } .zero
    (s.core 0).yard.cfg = true ∧ (s.core 0).yard.dead = true ∧ (s.core 0).yard.busy = false ∧
    (s.core 0).axisQ = [] ∧ s.yardArrived 0 = false := by decide

/-- An axis command of core 0 that has come to position `pos`, whose stripe lies in its slice. -/
def axised (op : AxisOp) (pos : Nat) : State :=
  { stripes (yarded (aYard 0)) with cores := [(0, { core0 with yard := aYard 0, axisQ := [⟨9, 0, op, pos⟩] })] }

theorem axised_resident (op : AxisOp) (pos : Nat) : Resident (axised op pos) 0 (aYard 0) :=
  ⟨(by decide : ∀ j, j < 2 ^ (aYard 0).l → ∃ x ∈ [(⟨0, 0, 0, false, false⟩ : Line), ⟨1, 0x10000, 0, false, false⟩],
      x.home = 0 ∧ x.pa = ((aYard 0).base + j * 2 ^ (aYard 0).ty.log) / 256 * 256), by simp [axised, stripes], fun _ _ => rfl, by decide,
    by decide, no_watches rfl⟩

theorem witness_AxisResults_elements :
    let s := axised (.axsScale 5) 2
    s.Inv ∧ (s.core 0).axisQ = ⟨9, 0, .axsScale 5, 2⟩ :: [] ∧ (s.core 0).preempted = false ∧ Resident s 0 (s.core 0).yard ∧
    (s.core 0).yard.moving = none ∧ (s.core 0).yard.trig = [] ∧ (∀ i, i < 2 ^ (s.core 0).yard.l → s.stripeHeld (s.core 0).yard 9 i = false ∧ s.stripeNoWay 0 (s.core 0).yard 9 i = false) ∧
    (s.core 0).yard.toBegin 9 = false ∧ 2 ≤ 2 ∧ 2 < 2 ^ (s.core 0).yard.l ∧ (∀ i, 2 ≤ i → i < 2 → False) ∧ (∀ v ∈ [((1 : Nat), false)], v.2 = false) ∧
    (∀ i, 8 ≤ i → i < 2 ^ (s.core 0).yard.l → False) :=
  ⟨rfl, rfl, rfl, axised_resident _ _, rfl, rfl, by decide, rfl, by decide, by decide, fun _ h1 h2 => absurd h2 (by omega), by decide,
    fun i h1 h2 => absurd (show i < 8 from h2) (by omega)⟩

theorem witness_AxisResults_matrix :
    let s := axised (.axa [2, 0] [3] 0 []) 1
    let y := (s.core 0).yard
    let works := fun i : Nat => (∀ b ∈ [2, 0], i.testBit (y.place.getD b 0) = false) ∧ y.logicalIndex i [3] = 0
    s.Inv ∧ (s.core 0).axisQ = ⟨9, 0, .axa [2, 0] [3] 0 [], 1⟩ :: [] ∧ Resident s 0 y ∧ works 2 ∧ (∀ i, 1 ≤ i → i < 2 → ¬ works i) ∧
    (([2, 0] : List Nat).map fun b => y.place.getD b 0).Nodup ∧ ∀ b ∈ [2, 0], y.place.getD b 0 < y.l := by
  refine ⟨rfl, rfl, axised_resident _ _, by decide, fun i h1 h2 => ?_, by decide, by decide⟩
  obtain rfl : i = 1 := by omega
  decide

theorem witness_AxisResults_waits :
    let s := { axised (.axsScale 5) 2 with cores := [(0, { core0 with yard := { aYard 0 with trig := [⟨3, 1, 1, 4⟩] }, axisQ := [⟨9, 0, .axsScale 5, 2⟩] })] }
    let u := { axised (.axsScale 5) 2 with cores := [(0, { core0 with yard := aYard 0, preempted := true, axisQ := [⟨9, 0, .axsScale 5, 2⟩] })] }
    s.Inv ∧ (s.core 0).axisQ = ⟨9, 0, .axsScale 5, 2⟩ :: [] ∧ (s.core 0).preempted = false ∧ Resident s 0 (s.core 0).yard ∧
    (s.core 0).yard.toBegin 9 = true ∧ (s.core 0).yard.dead = false ∧ u.Inv ∧ (u.core 0).axisQ = ⟨9, 0, .axsScale 5, 2⟩ :: [] ∧
    (u.core 0).preempted = true :=
  ⟨rfl, rfl, rfl, ⟨by decide, by decide, by decide +kernel, by decide, by decide, no_watches rfl⟩, rfl, rfl, rfl, rfl, rfl⟩

/-! ### The fabric -/

/-- The paddock exports the mesh addresses of core 0's local memory; the module's own entry is valid, reachable and capable of all. -/
def fabric (rs : List (Nat × Nat)) : State :=
  { sys 0 (thr rs) with
      paddocks := [(0, { pad with exports := [(0, (BitVec.ofNat 64 (2 ^ 63 + 7 * 2 ^ 59 + meshBase), BitVec.ofNat 64 (2 ^ 20)))] })]
      peers := [(0, BitVec.ofNat 64 (3 * 2 ^ 62 + 0x3F)), (5, BitVec.ofNat 64 (2 ^ 63 + 9 * 2 ^ 36))]
      fkeys := [(0, some 77)] }

theorem witness_FabricIssues :
    let s := fabric [(1, 0x8000 + 2 ^ 48), (2, meshBase + 0x9000), (3, 2 ^ 56 + meshBase + 0x9100)]
    Settled s ∧ s.th.fabCnt < 64 ∧ Ready s 0 [.s 2, .s 3, .s 1] [] ∧ bits (s.sv 2).toNat 63 60 = 0 ∧ operandAddr (s.sv 2) % 8 = 0 ∧
    (tget 0 s.peers (remotePeer (s.sv 2))).getLsbD 63 = true ∧ (tget 0 s.peers (remotePeer (s.sv 2))).getLsbD 62 = true ∧
    (∀ k, some 2 = some k → (tget 0 s.peers (remotePeer (s.sv 2))).getLsbD k = true) ∧ bits (s.sv 1).toNat 63 48 + 1 = 2 ∧
    (∀ k, k < 2 → Reaches s (operandAddr (s.sv 1) + 8 * k) 8) ∧ bits (s.sv 3).toNat 55 48 = 0 ∧ bits (s.sv 3).toNat 63 56 ≠ 0 ∧
    operandAddr (s.sv 3) % 8 = 0 ∧ s.lockRoom (spanLocks s.here s.nextId false 0x8000 0x8010) = true ∧ Ready s 0 [.s 2, .s 3] [.s 4] :=
  ⟨settled_of rfl rfl rfl rfl, by decide, ready_of rfl rfl rfl, by decide, by decide, by decide, by decide,
    fun k h => by cases h; decide, by decide, reaches_all (by decide +kernel), by decide, by decide, by decide, by decide +kernel,
    ready_of rfl rfl rfl⟩

theorem witness_FabricIssues_traps :
    bits ((fabric [(3, 2 ^ 60)]).sv 3).toNat 63 60 ≠ 0 ∧ operandAddr ((fabric [(3, 4)]).sv 3) % 8 ≠ 0 ∧
    bits ((fabric [(3, 4)]).sv 3).toNat 63 60 = 0 ∧
    (tget 0 (fabric []).peers (remotePeer ((fabric [(3, 6 * 2 ^ 48)]).sv 3))).getLsbD 63 = false ∧
    (tget 0 (fabric []).peers (remotePeer ((fabric [(3, 5 * 2 ^ 48)]).sv 3))).getLsbD 63 = true ∧
    (tget 0 (fabric []).peers (remotePeer ((fabric [(3, 5 * 2 ^ 48)]).sv 3))).getLsbD 62 = false ∧
    (let s := { fabric [] with peers := [(0, BitVec.ofNat 64 (3 * 2 ^ 62))] }
     (tget 0 s.peers 0).getLsbD 63 = true ∧ (tget 0 s.peers 0).getLsbD 62 = true ∧ (tget 0 s.peers 0).getLsbD 0 = false) := by decide

/-- An operation of slot 0 toward this module itself. -/
def anOp (kind : FabKind) (dest : Dest) (resp : Option FabResp) : FabOp :=
  { id := 9, tid := 0, kind := kind, peer := 0, oper := BitVec.ofNat 64 (meshBase + 0x9000)
    places := [.loc 0 0x8000], target := [], nw := 1, lva := 0x8000, data := [(5, false)]
    sig := BitVec.ofNat 48 (meshBase + 0x9100), inc := 1, opnd := 3, dest := dest, group := 0, mcount := 1, resp := resp }

theorem inv_of {s : State} (h : s.mem.wf = true) : s.Inv := h

theorem served_of {r : Served} {ps : List (List Place)} (h : (match r with
    | .ok qs => decide (qs = ps)
    | _ => false) = true) : r = .ok ps := by
  cases r <;> simp_all

theorem served_no {r : Served} {n : BitVec 8} (h : (match r with
    | .refused m => decide (m = n)
    | _ => false) = true) : r = .refused n := by
  cases r <;> simp_all

theorem witness_FabricServes :
    let s := { fabric [] with fabops := [anOp .puts .none none] }
    let h : PktHdr := ⟨0, 3, 1, 77⟩
    let q : FabReq := ⟨4, 0, 7, BitVec.ofNat 48 (meshBase + 0x9000), [(5, false)], 1, BitVec.ofNat 48 (meshBase + 0x9100), 1, 0⟩
    s.Inv ∧ NoWatches s ∧ s.incoming = [] ∧ 0x9000 % 8 = 0 ∧ 0x9000 + 8 * 1 ≤ 2 ^ 20 ∧ q.data.length = 1 ∧ 0x9100 % 8 = 0 ∧
    0x9100 + 8 ≤ 2 ^ 20 ∧ (0x9100 + 8 ≤ 0x9000 ∨ 0x9000 + 8 * 1 ≤ 0x9100) ∧ s.heldAt (.loc 0 0x9000) 8 = false ∧
    s.heldAt (.loc 0 0x9100) 8 = false ∧ s.mem.anyPoison (Region.local 0 + 0x9000) 8 = false ∧
    s.mem.poisoned (Region.local 0 + 0x9100) = false ∧ [h].length = reqPackets q ∧ h ∉ s.early ∧ s.fabKey 0 = some h.key ∧
    tget 0 s.lastCtr (streamOf h) < h.ctr ∧ [h].Pairwise (fun g h => g.port = h.port → g.ctr < h.ctr) ∧
    s.serveCheck q.job FabKind.puts.cap (FabKind.puts.ranges q.addr.toNat 1 q.sig.toNat) = .ok [[.loc 0 0x9000], [.loc 0 0x9100]] ∧
    s.fabops = [anOp .puts .none none] ∧ s.jobOf (0 / 16) = 7 :=
  ⟨rfl, no_watches rfl, rfl, by decide, by decide, rfl, by decide, by decide, by decide, rfl, rfl, rfl, rfl, by decide +kernel, by decide, by decide,
    by decide, by decide, served_of (by decide +kernel), rfl, by decide⟩

/-- A get and a radd carry no payload words, and arrive in one packet (R433). -/
theorem witness_FabricServes_get :
    let s := { fabric [] with fabops := [{ anOp .get .none none with data := [] }] }
    let h : PktHdr := ⟨0, 3, 1, 77⟩
    let q : FabReq := ⟨4, 0, 7, BitVec.ofNat 48 (meshBase + 0x9000), [], 1, 0, 0, 0⟩
    s.Inv ∧ NoWatches s ∧ q.data = [] ∧ [h].length = reqPackets q ∧ h ∉ s.early ∧ s.fabKey 0 = some h.key ∧
    tget 0 s.lastCtr (streamOf h) < h.ctr ∧ [h].Pairwise (fun g h => g.port = h.port → g.ctr < h.ctr) ∧
    s.serveCheck q.job FabKind.get.cap (FabKind.get.ranges q.addr.toNat 1 q.sig.toNat) = .ok [[.loc 0 0x9000]] ∧
    s.fabops = [{ anOp .get .none none with data := [] }] ∧ s.jobOf (0 / 16) = 7 :=
  ⟨rfl, no_watches rfl, rfl, rfl, by decide +kernel, by decide, by decide, by decide, served_of (by decide +kernel), rfl, by decide⟩

theorem witness_FabricServes_radd :
    let s := { fabric [] with fabops := [{ anOp .radd (.scalar 3 8 false) none with data := [] }] }
    let h : PktHdr := ⟨0, 3, 1, 77⟩
    let q : FabReq := ⟨4, 0, 7, BitVec.ofNat 48 (meshBase + 0x9000), [], 1, 0, 0, 3⟩
    s.Inv ∧ NoWatches s ∧ q.data = [] ∧ [h].length = reqPackets q ∧ h ∉ s.early ∧ s.fabKey 0 = some h.key ∧
    tget 0 s.lastCtr (streamOf h) < h.ctr ∧
    s.serveCheck q.job FabKind.radd.cap (FabKind.radd.ranges q.addr.toNat 1 q.sig.toNat) = .ok [[.loc 0 0x9000]] ∧
    s.fabops = [{ anOp .radd (.scalar 3 8 false) none with data := [] }] ∧ s.jobOf (0 / 16) = 7 :=
  ⟨rfl, no_watches rfl, rfl, rfl, by decide +kernel, by decide, by decide, served_of (by decide +kernel), rfl, by decide⟩

theorem witness_FabricServes_other :
    let s := { fabric [] with mem := ⟨[], [(Region.local 0 + 0x9000) / 8]⟩ }
    s.Inv ∧ s.mem.poisoned (Region.local 0 + 0x9000) = true ∧ s.heldAt (.loc 0 0x9000) 8 = false ∧
    s.serveCheck 7 FabKind.radd.cap (FabKind.radd.ranges (meshBase + 0x9000) 1 0) = .ok [[.loc 0 0x9000]] ∧
    s.serveCheck 8 FabKind.put.cap (FabKind.put.ranges (meshBase + 0x9000) 1 0) = .refused 2 ∧
    pktPasses ⟨0, 3, 1, 78⟩ (s.fabKey 0) (tget 0 s.lastCtr (streamOf ⟨0, 3, 1, 78⟩)) = false :=
  ⟨inv_of (by decide +kernel), by decide +kernel, rfl, served_of (by decide +kernel), served_no (by decide +kernel), by decide⟩

/-- That operation, answered or not, of slot 0. -/
def ending' (o : FabOp) : State := { fabric [] with fabops := [o] }

theorem witness_FabricEnds :
    let o := anOp .get .none (some (.ok [(5, false)]))
    let r := anOp .radd (.scalar 3 8 false) (some (.ok [(5, false)]))
    (ending' o).Inv ∧ (ending' o).fabops = [o] ∧ (ending' o).swappedOut o.tid = false ∧ NoWatches (ending' o) ∧
    ((ending' o).thread o.tid).spec = none ∧ o.peer = (ending' o).ident.toNat ∧ ([] : List PktHdr) = [] ∧ o.resp = some (.ok [(5, false)]) ∧ o.kind = .get ∧
    o.places = (List.range o.nw).map (fun k => .loc (o.tid / 16) (0x8000 + 8 * k)) ∧
    0x8000 % 8 = 0 ∧ 0x8000 + 8 * o.nw ≤ 2 ^ 20 ∧ ([(5, false)] : List Dword).length = o.nw ∧
    (∀ k, k < o.nw → (ending' o).heldFor (.loc (o.tid / 16) (0x8000 + 8 * k)) 8 o.id = false) ∧
    r.kind = .radd ∧ r.dest = .scalar 3 8 false ∧ o.peer < 4096 ∧ (anOp .put .none (some (.refused 5))).resp = some (.refused 5) ∧
    (anOp .put .none none).resp = none ∧ (ending' o).recordHeld o.tid = false :=
  ⟨rfl, rfl, rfl, no_watches rfl, rfl, rfl, rfl, rfl, rfl, rfl, by decide, by decide, rfl, by decide, rfl, rfl, by decide, rfl, rfl, rfl⟩

theorem witness_FabricEnds_peer :
    let o := { anOp .get .none none with peer := 5 }
    let s := { ending' o with fkeys := [(9, some 77)] }
    let h : PktHdr := ⟨5, 3, 1, 77⟩
    s.fabops = [o] ∧ o.peer ≠ s.ident.toNat ∧ o.resp = none ∧ [h].length = o.answers (.ok [(5, false)]) ∧ [h].length = o.answers (.refused 2) ∧
    [h].Pairwise (fun g h => g.port = h.port → g.ctr < h.ctr) ∧ h.peer = o.peer ∧ s.fabKey o.peer = some h.key ∧
    tget 0 s.lastCtr (streamOf h) < h.ctr :=
  ⟨rfl, by decide, rfl, by decide +kernel, rfl, by decide, rfl, by decide, by decide⟩

/-- Group 4 has this module as a member; its region starts at 0x8000 of core 0 in the mesh window. -/
def group4 (sealed_ member : Bool) (ops : List FabOp) (fs : List Flight) : State :=
  { fabric [] with
      mcast := [(4, (BitVec.ofNat 64 (2 ^ 63 + (if member then 2 ^ 61 else 0) + (if sealed_ then 2 ^ 60 else 0) + 7),
                     BitVec.ofNat 64 (12 * 2 ^ 56 + meshBase + 0x8000)))]
      fabops := ops, flights := fs }

/-- A multicast operation on that group, and its access. -/
def mcastOp9 (kind : FabKind) : FabOp := { anOp kind .none none with group := 4 }
def mcastFlight (kind : FlightKind) (dest : Dest) : Flight :=
  ⟨9, 0, kind, [⟨0, 0, .mcast 4 0, 8, 0, [], 0, false, false, none, false⟩], false, false, false, dest, false, false, false⟩

theorem witness_Multicast_member :
    let o := mcastOp9 .mstore
    let f := { mcastFlight .store .none with elems := [⟨0, 0, .mcast 4 8, 8, 7, [], 0, false, false, none, false⟩] }
    let s := group4 false true [o] [f]
    let u := group4 false true [mcastOp9 .mload] []
    let m := tget (0, 0) s.mcast 4
    let h : PktHdr := ⟨5, 3, 1, 77⟩
    s.Inv ∧ NoWatches s ∧ s.incoming = [] ∧ tget 0 s.lastCtr (streamOf h) < h.ctr ∧ s.groupKey 4 = some h.key ∧
    mcastValid m = true ∧ m.1.getLsbD 61 = true ∧ m.1.getLsbD 60 = false ∧ 0x8008 % 8 = 0 ∧ 8 * 1 + 8 ≤ 2 ^ bits m.2.toNat 63 56 ∧
    s.ownCap 3 = true ∧ (∀ k, k < 8 → s.memberPlace m .store (8 * 1 + k) = some (.loc 0 (0x8008 + k))) ∧
    s.memberHeld m .store (8 * 1 :: ((List.range 8).map fun k => (8 * 1 + k, BitVec.ofNat 8 (7 / 256 ^ k))).map fun b => b.1) = false ∧
    s.fabops = [o] ∧ s.flights = [f] ∧ o.group = 4 ∧ o.resp = none ∧ f.id = o.id ∧
    (∃ e, f.elems = [e] ∧ e.place = .mcast 4 (8 * 1) ∧ e.lane = 0 ∧ e.w = 8 ∧ e.data = 7) ∧
    u.ownCap 4 = true ∧ mcastOp m.2 = some (.sum, .f32) ∧ u.memberPlace m .load (8 * 1) = some (.loc 0 0x8008) ∧
    u.memberHeld m .load [8 * 1] = false ∧ u.mem.anyPoison (Region.local 0 + 0x8008) (fmtBytes .f32) = false ∧
    (tget (0, 0) (group4 false false [] []).mcast 4).1.getLsbD 61 = false ∧ (tget (0, 0) (group4 true true [] []).mcast 4).1.getLsbD 60 = true :=
  ⟨rfl, no_watches rfl, rfl, by decide +kernel, by decide +kernel, by decide +kernel, by decide +kernel, by decide +kernel, by decide,
    by decide +kernel, rfl, by decide +kernel, by decide +kernel, rfl, rfl, rfl, rfl, rfl, ⟨_, rfl, rfl, rfl, rfl, rfl⟩, rfl,
    by decide +kernel, by decide +kernel, by decide +kernel, rfl, by decide +kernel, by decide +kernel⟩

theorem witness_Multicast_ends :
    let o := mcastOp9 .mload
    let f := mcastFlight .load (.scalar 3 4 false)
    let s := group4 false true [o] [f]
    let v := mcastFlight .store .none
    s.fabops = [o] ∧ s.flights = [f] ∧ f.id = o.id ∧ (∃ e, f.elems = [e] ∧ e.poison = false ∧ e.refused = none ∧ e.laid = []) ∧
    f.orphan = false ∧ f.path = false ∧ s.swappedOut f.tid = false ∧ o.resp = none ∧ o.tid = f.tid ∧ NoWatches s ∧
    s.recordHeld o.tid = false ∧ s.groupKey o.group = some 77 ∧
    (s.thread f.tid).spec = none ∧ o.kind = .mload ∧ f.kind = .load ∧ f.dest = .scalar 3 4 false ∧ 3 ≠ 0 ∧
    mcastOp (tget (0, 0) s.mcast o.group).2 = some (.sum, .f32) ∧ ([7] : List Word).length = o.mcount ∧
    (mcastOp9 .mstore).kind = .mstore ∧ v.kind = .store ∧ v.dest = .none ∧ 0 < (mcastOp9 .mstore).mcount ∧ 5 < 4096 :=
  ⟨rfl, rfl, rfl, ⟨_, rfl, rfl, rfl, rfl⟩, rfl, rfl, rfl, rfl, rfl, no_watches rfl, rfl, by decide, rfl, rfl, rfl, rfl, by decide,
    by decide +kernel, rfl, rfl, rfl, rfl, by decide, by decide⟩

theorem witness_Multicast_capability :
    let s := { fabric [] with joining := [5], fkeys := [(9, some 77)] }
    let u := { fabric [] with peers := [(5, BitVec.ofNat 64 (3 * 2 ^ 62 + 9 * 2 ^ 36))], fkeys := [(9, some 77)] }
    (tget 0 s.peers 5).getLsbD 63 = true ∧ s.joining = [5] ∧ s.fabKey 5 = some 77 ∧ s.agrStale = false ∧
    (tget 0 u.peers 5).getLsbD 63 = true ∧ (tget 0 u.peers 5).getLsbD 62 = true ∧ u.joining = [] ∧ u.fabKey 5 = some 77 := by decide

/-! ### Sequencers -/

/-- The argument block of an invocation of one member: one buffer of four chunks of 64 bytes at 0x10000, counters at 0x9000. -/
def block (grp doneva : Nat) : List Word :=
  [0x700000000 + 2 ^ 24, 2 ^ 24, 0x8400, BitVec.ofNat 64 (2 ^ 12 + grp), BitVec.ofNat 64 doneva, 0, 0, 0, 0x10000, 256, 0x9000, 6]

/-- That invocation, of slot 0 of core 0 with its completion in s3. -/
def invocation : Invocation := ⟨0, 3, 0, block 4 0⟩

/-- An image at 0x4000. -/
def image (det : Bool) : TackImage := ⟨0x4000, 4096, 0x4000, 0, 0, false, det⟩

/-- Sequencer 0 running it, with its registers, operations and arrivals. -/
def hart (xs : List (Nat × Nat)) (ops : List TackOpn) (as : List Arrival) (det : Bool) : State :=
  let s := group4 false true [] []
  { s with
      seqs := [(0, { Sequencer.zero with
        paddock := some 0, pc := 0x4000, queue := [invocation], running := true, ops := ops, arrivals := as, slots := [(0, image det)]
        peers := [(0, 0), (1, 0x5000000000000)], x := xs.map fun x => (x.1, BitVec.ofNat 64 x.2) })]
      peers := [(0, BitVec.ofNat 64 (3 * 2 ^ 62 + 0x3F)), (5, BitVec.ofNat 64 (3 * 2 ^ 62))] }

theorem runs_of {s : State} {i : Invocation} {rest : List Invocation} (h1 : (s.seq s.curSeq).queue = i :: rest)
    (h2 : (s.seq s.curSeq).running = true) (h3 : (s.seq s.curSeq).suspended = false) (h4 : (s.seq s.curSeq).fail = none) : Runs s i rest :=
  ⟨h1, h2, h3, h4⟩

theorem area_of {s : State} {core a n : Nat} (h1 : a % 8 = 0) (h2 : n % 8 = 0) (h3 : a + n ≤ 2 ^ 20)
    (h4 : ((List.range (n / 8)).all fun k => !s.heldAt (.loc core (a + 8 * k)) 8) = true)
    (h5 : s.mem.anyPoison (Region.local core + a) n = false) (h6 : s.cores.all (fun x => x.2.watches.isEmpty) = true) : Area s core a n :=
  ⟨h1, h2, h3, fun k hk => by simpa using List.all_eq_true.mp h4 k (List.mem_range.mpr hk), h5, no_watches h6⟩

theorem witness_TackInstructions :
    let s := hart [(5, 0), (6, 1)] [] [⟨0, 0, 1⟩] false
    let i := invocation
    Runs s i [] ∧ s.Inv ∧ i.ref (s.xv 5) false = some (0, 0, 0) ∧ i.ref (s.xv 6) false = some (0, 0, 1) ∧
    i.ref (s.xv 6) true = some (0, 0, 1) ∧ ((i.chunk 0 1).map (·.2)).getD 0 = ((i.chunk 0 0).map (·.2)).getD 0 ∧
    ((i.chunk 0 0).map (·.2)).getD 0 % fmtBytes .f32 = 0 ∧ bits (i.word 3) 12 12 = 1 ∧ mcastValid (tget (0, 0) s.mcast i.grp) = true ∧
    mcastOp (tget (0, 0) s.mcast i.grp).2 = some (.sum, .f32) ∧ (tget (0, 0) s.mcast i.grp).1.getLsbD 62 = false ∧
    (⟨0, 0, s.xv 6⟩ ∈ (s.seq 0).arrivals) ∧ (⟨0, 1, s.xv 6⟩ ∉ (s.seq 0).arrivals) ∧ i.cntva 0 ≠ 0 ∧ Area s i.core (i.counter 0 0) 8 ∧
    0 = i.index ∧ tfind (s.seq 0).slots i.slot = some (image false) ∧ (image true).det = true ∧ bits (s.xv 5) 60 32 = 0 ∧
    bits (s.xv 5) 63 61 < i.nbuf ∧ (s.seq 0).ops = [] ∧ s.swappedOut i.tid = false ∧ i.doneva = 0 ∧ (s.seq 0).ops.length < 32 :=
  by
  refine ⟨runs_of rfl rfl rfl rfl, rfl, ?_, ?_, ?_, ?_, ?_, ?_, ?_, ?_, ?_, ?_, ?_, ?_, area_of ?_ ?_ ?_ ?_ ?_ rfl, ?_, ?_, rfl, ?_,
    ?_, rfl, ?_, ?_, ?_⟩ <;> decide +kernel

theorem witness_TackInstructions_other :
    let s := hart [(5, 2 ^ 32), (6, 1)] (List.replicate 32 ⟨9, 0x4000, .copy 0 0 0 1, false, false, none⟩) [] true
    invocation.ref (s.xv 5) false = none ∧ 32 ≤ (s.seq 0).ops.length ∧ (s.seq 0).ops ≠ [] ∧
    ({ invocation with block := block 4 0x9100 } : Invocation).doneva ≠ 0 ∧
    (∀ y ∈ (s.seq 0).arrivals, y.buf ≠ bits (s.xv 6) 63 61) := by decide +kernel

theorem witness_TackOperations :
    let s := hart [] [⟨9, 0x4000, .copy 0 0 0 1, false, false, none⟩] [] false
    let i := invocation
    s.Inv ∧ Runs { s with curSeq := 0 } i [] ∧ (s.seq 0).ops = [⟨9, 0x4000, .copy 0 0 0 1, false, false, none⟩] ∧ i.chunk 0 0 = some (0x10000, 64) ∧
    i.chunk 0 1 = some (0x10040, 64) ∧ Area s i.core 0x10000 64 ∧ Area s i.core 0x10040 64 ∧
    (0x10000 + 64 ≤ 0x10040 ∨ 0x10040 + 64 ≤ 0x10000) ∧ Area s i.core (i.counter 0 3) 8 ∧
    (peerPair (tget 0 (s.seq 0).peers 1)).1 ≠ s.ident.toNat ∧ s.reaches (peerPair (tget 0 (s.seq 0).peers 1)).1 = true :=
  ⟨rfl, runs_of rfl rfl rfl rfl, rfl, by decide +kernel, by decide +kernel,
    area_of (by decide +kernel) (by decide +kernel) (by decide +kernel) (by decide +kernel) (by decide +kernel) rfl,
    area_of (by decide +kernel) (by decide +kernel) (by decide +kernel) (by decide +kernel) (by decide +kernel) rfl, by decide,
    area_of (by decide +kernel) (by decide +kernel) (by decide +kernel) (by decide +kernel) (by decide +kernel) rfl,
    by decide +kernel, by decide +kernel⟩

theorem witness_TackOperations_answers :
    let s := hart [] [⟨9, 0x4000, .send 0 0 1 0 0, true, true, none⟩] [] false
    let h : PktHdr := ⟨5, 3, 1, 77⟩
    let data : List (Word × Bool) := List.replicate 8 (7, false)
    s.Inv ∧ tget 0 s.lastCtr (streamOf h) < h.ctr ∧ h.peer = (peerPair (tget 0 (s.seq 0).peers 1)).1 ∧ s.fabKey h.peer = some h.key ∧
    s.groupKey invocation.grp = some h.key ∧ 64 = 8 * data.length ∧ [h].length = packets 0 data.length ∧
    [h].Pairwise (fun g h => streamOf g = streamOf h → g.ctr < h.ctr) :=
  ⟨rfl, by decide +kernel, by decide +kernel, by decide +kernel, by decide +kernel, rfl, by decide +kernel,
    by decide +kernel⟩

theorem witness_TackOperations_signals :
    let o : TackOpn := ⟨9, 0x4000, .sig 0 1 1, false, false, none⟩
    let e : TackOpn := ⟨8, 0x4000, .copy 0 1 0 0, false, false, none⟩
    let s := hart [] [o] [] false
    let x := { s.seq 0 with lost := [e] }
    (s.seq 0).cutOff invocation o = false ∧ o.sent = false ∧ x.cutOff invocation o = true ∧ o.again = false ∧
    ({ o with again := true } : TackOpn).again = true := by decide +kernel

theorem witness_TackOperations_arrival :
    let s := hart [] [] [] false
    let h : PktHdr := ⟨5, 3, 1, 77⟩
    let i := invocation
    s.fabKey h.peer = some h.key ∧ [h].length = packets 0 8 ∧ tget 0 s.lastCtr (streamOf h) < h.ctr ∧ (7 : BitVec 16).toNat = i.tag ∧
    (8 : BitVec 16).toNat ≠ i.tag ∧ (s.seq 0).senderOf (h.peer, 0) = some 1 ∧ i.chunk 0 0 = some (0x10000, 64) ∧
    (s.seq 0).arrivals.length < 64 ∧ (List.replicate 8 ((0 : Word), false)).length = 8 ∧ i.cntva 0 ≠ 0 := by decide +kernel

/-- Slot 0 calls sequencer 0, which holds an image, with its argument block at 0x8000. -/
def collective (q : List Invocation) : State :=
  let ws := block 4 0
  let s := put (fabric [(1, 0x8000), (2, 0)]) ((List.range 12).map fun k => (0x8000 + 8 * k, (ws.getD k 0).toNat))
  { s with seqs := [(0, { Sequencer.zero with paddock := some 0, queue := q, slots := [(0, image false)] })] }

theorem witness_Invocations_coll :
    let s := collective []
    let word := fun k => s.mem.read (Region.local s.here + ((s.sv 1).toNat + 8 * k)) 8
    s.Inv ∧ 0 < 32 ∧ Ready s 0 [.s 1, .s 2] [.s 3] ∧ Settled s ∧ bits (s.sv 2).toNat 7 5 = 0 ∧ bits (s.sv 2).toNat 63 12 = 0 ∧ bits (s.sv 2).toNat 4 0 = 0 ∧ s.seqGiven s.here 0 = true ∧
    tfind (s.seq 0).slots (bits (s.sv 2).toNat 11 8) = some (image false) ∧ (s.sv 1).toNat % 64 = 0 ∧ 8 + 4 * bits (word 0) 27 24 = 12 ∧
    (∀ k, k < 12 → Reaches s ((s.sv 1).toNat + 8 * k) 8) ∧ blockOk ((List.range 12).map word) = true ∧ (image false).reds = false ∧
    (s.seq 0).queue.length < 4 ∧ s.th.amoCnt < 16 :=
  ⟨inv_of (by decide +kernel), by decide, ready_of rfl rfl rfl, settled_of rfl rfl rfl rfl, by decide, by decide, by decide, by decide +kernel,
    by decide +kernel, by decide, by decide +kernel, reaches_all (by decide +kernel), by decide +kernel, rfl, by decide, by decide⟩

theorem witness_Invocations_start :
    let s := collective [invocation]
    (s.seq 0).queue = invocation :: [] ∧ (s.seq 0).running = false ∧ (s.seq 0).suspended = false ∧
    tfind (s.seq 0).slots invocation.slot = some (image false) ∧ invocation.block.length ≤ 64 ∧ invocation.core < 2048 ∧
    Area s invocation.core (bits (invocation.word 2) 47 0) (8 * invocation.count) ∧
    entryFault (s.ident.toNat, 0) invocation.index [] 0 [0] = none ∧ s.peerFault (image false) invocation.index 0 [0] = none ∧
    entryFault (s.ident.toNat, 0) invocation.index [] 0 [BitVec.ofNat 64 (2 ^ 60)] = some 0 :=
  ⟨rfl, rfl, rfl, rfl, by decide, by decide,
    area_of (by decide +kernel) (by decide +kernel) (by decide +kernel) (by decide +kernel) (by decide +kernel) rfl,
    by decide +kernel, by decide +kernel, by decide +kernel⟩

theorem witness_Invocations_end :
    let s := { hart [] [] [] false with seqs := [(0, { Sequencer.zero with queue := [invocation], running := true, fail := some (2, 2, 7) })] }
    (s.seq 0).queue = invocation :: [] ∧ (s.seq 0).running = true ∧ (s.seq 0).fail = some (2, 2, 7) ∧ (s.seq 0).ops = [] ∧
    invocation.doneva = 0 ∧ s.swappedOut invocation.tid = false ∧ invocation.reg ≠ 0 := by decide +kernel

theorem witness_RiscvInstructions :
    let s := hart [(5, 0x4FF8)] [] [] false
    Runs s invocation [] ∧ s.Inv ∧ tfind (s.seq s.curSeq).slots invocation.slot = some (image false) ∧
    (let va := ((s.seq s.curSeq).xr 5 + (0 : BitVec 12).signExtend 64).toNat
     va % 8 = 0 ∧ (image false).load ≤ va ∧ va + 8 ≤ (image false).load + (image false).size) :=
  ⟨runs_of rfl rfl rfl rfl, rfl, by decide +kernel, by decide +kernel⟩

/-! ### The whole machine -/

theorem witness_Encodings : (Instr.mvs 7 .e4m3 11 31 30).wf = true ∧ (Instr.mvs 7 .e4m3 11 31 30).isEvent = false ∧
    (0x00200037 : BitVec 32).getLsbD 0 = true ∧ (0x0002 : BitVec 16).getLsbD 0 = false := by decide

/-- Slot 0 stands at a sub at 0x100. -/
def standing : State := { put (two 5 7) [(0x100, 0x2208C1)] with agenda := [.core 0] }

theorem witness_StepRunsDecoded_thread : standing.ready = true ∧ standing.agenda = .core 0 :: [] ∧ standing.bubbles 0 = some 0 ∧
    (let t := standing.thread 0
     t.irqDue = none ∧ t.wait ≠ some .parked ∧ t.chain = [] ∧ t.diverge = none ∧ t.held = false ∧ t.atBreak = false ∧
     t.pc.toNat + 4 ≤ 2 ^ 20 ∧ t.pc.toNat + 4 ≤ (standing.core 0).xbound.toNat ∧ t.pc.toNat % 2 = 0 ∧
     standing.mem.anyPoison (Region.local 0 + t.pc.toNat) 4 = false ∧ standing.heldAt (.loc 0 t.pc.toNat) 4 = false ∧ t.ir = none) := by
  decide +kernel

theorem witness_StepRunsDecoded_held :
    let i : Instr := .recvm 0 3 1
    let s := { sys 0 { thr [] with state := .waiting, wait := some (.recv none 1), ir := some i } with agenda := [.core 0] }
    s.ready = true ∧ s.agenda = .core 0 :: [] ∧ s.bubbles 0 = some 0 ∧
    (let t := s.thread 0
     t.irqDue = none ∧ t.wait ≠ some .parked ∧ t.chain = [] ∧ t.diverge = none ∧ t.held = false ∧ t.ir = some i) := by
  decide +kernel

theorem standing_decodes : decodeBytes (standing.mem.bytes (Region.local 0 + 0x100) 4) = .ok (.sub false 0 3 1 2, 4) := rfl

theorem witness_StepRunsDecoded_sequencer :
    let s := { hart [] [] [] false with agenda := [.seq 0], mem := (Memory.mk [] []).write (Region.seq 0 + 0x4000) 4 0x600B }
    s.agenda = .seq 0 :: [] ∧ (s.seq 0).queue.head? = some invocation ∧ (s.seq 0).running = true ∧ (s.seq 0).suspended = false ∧
    (s.seq 0).fail = none ∧ s.seqFetch 0 invocation = some 0x600B := by decide +kernel

theorem witness_StepKeepsMemoryCanonical : standing.Inv ∧ State.reset.Inv := ⟨inv_of (by decide +kernel), rfl⟩

end Sys2Proof.Tests
end

section
/-! SUPPORT. The canonical form of memory (R3, R204, R293) as a property of everything that carries a state: answers, actions,
the results of reads and checks. One lemma `State.Inv.f` per function `f` of the machine follows, in the order of the model. -/

namespace Sys2Proof.Machine

/-- The state of an answer keeps the canonical form of memory; a fault or a refusal holds no state. -/
def Ans.Inv : Ans → Prop
  | .next s => s.Inv
  | .fault _ | .refused _ => True

/-- The state an instruction hands over, whatever comes next of it. -/
def Act.Inv : Act → Prop
  | .retire s | .goto s _ | .skip s _ | .wait s _ | .trapIn s _ _ | .done s => s.Inv
  | .trap _ _ | .stall => True

/-- The state after the checks of the elements of an access. -/
def Elems.Inv : Elems → Prop
  | .ok _ s => s.Inv
  | .trap _ _ | .busy => True

/-- The state after the reads of a record. -/
def Rd.Inv : Rd → Prop
  | .ok _ s => s.Inv
  | .trap _ _ | .wait _ => True

/-- The state after the read of a tensor shape. -/
def ShapeRd.Inv : ShapeRd → Prop
  | .ok _ s => s.Inv
  | .trap _ _ | .wait _ => True

/-- The state after the read of a source of a tile command. -/
def Src.Inv : Src → Prop
  | .ok _ s => s.Inv
  | .trap _ _ | .wait _ => True

/-- The state a command of the host leaves. -/
def CmdRes.Inv : CmdRes → Prop
  | .done s | .refuseIn s _ | .again s => s.Inv
  | .refuse _ => True

/-- The state an operation of a tack leaves. -/
def TkAct.Inv : TkAct → Prop
  | .go s | .ended s => s.Inv
  | .hold | .fail .. => True

/-- The state an instruction of a hart leaves. -/
def RvAct.Inv : RvAct → Prop
  | .go s _ | .exc s _ => s.Inv

/-- The state of an answer that may be missing. -/
def OptInv : Option State → Prop
  | some s => s.Inv
  | none => True

/-- The state that comes with a value, where there is one. -/
def PairInv {α : Type} : Option (α × State) → Prop
  | some p => p.2.Inv
  | none => True

/-- The state of a check that may end in an error. -/
def ExcInv {ε : Type} : Except ε State → Prop
  | .ok s => s.Inv
  | .error _ => True

theorem Elems.Inv.ok {r : Elems} {es : List (AKind × Elem)} {s : State} (h : r.Inv) (e : r = .ok es s) : s.Inv := by
  subst e; exact h

theorem Rd.Inv.ok {r : Rd} {es : List Nat} {s : State} (h : r.Inv) (e : r = .ok es s) : s.Inv := by
  subst e; exact h

theorem ShapeRd.Inv.ok {r : ShapeRd} {x : Shape} {s : State} (h : r.Inv) (e : r = .ok x s) : s.Inv := by
  subst e; exact h

theorem Src.Inv.ok {r : Src} {x : List (Nat × Bool)} {s : State} (h : r.Inv) (e : r = .ok x s) : s.Inv := by
  subst e; exact h

theorem OptInv.some {r : Option State} {s : State} (h : OptInv r) (e : r = .some s) : s.Inv := by
  subst e; exact h

theorem PairInv.some {α : Type} {r : Option (α × State)} {x : α} {s : State} (h : PairInv r) (e : r = .some (x, s)) : s.Inv := by
  subst e; exact h

theorem ExcInv.ok {ε : Type} {r : Except ε State} {s : State} (h : ExcInv r) (e : r = .ok s) : s.Inv := by
  subst e; exact h

theorem State.Inv.of_eq {α : Type} {p : α × State} {a : α} {s : State} (h : p.2.Inv) (e : p = (a, s)) : s.Inv := by
  subst e; exact h

/-- The loops of the machine: a fold keeps what each of its steps keeps. -/
theorem inv_foldl {α : Type} {f : State → α → State} {l : List α} {s : State} (hf : ∀ t x, t.Inv → (f t x).Inv) (hi : s.Inv) :
    (l.foldl f s).Inv := by
  induction l generalizing s with
  | nil => exact hi
  | cons x l ih => exact ih (hf s x hi)

/-- An update that leaves the memory alone keeps its form; `rfl` sees that it does. -/
theorem State.Inv.upd {s t : State} (hi : s.Inv) (e : t.mem = s.mem := by rfl) : t.Inv := by
  unfold State.Inv
  rw [e]
  exact hi

theorem State.Inv.ite {c : Prop} {_ : Decidable c} {a b : State} (ha : a.Inv) (hb : b.Inv) : State.Inv (if c then a else b) :=
  iteInduction (motive := State.Inv) (fun _ => ha) fun _ => hb

theorem Ans.Inv.ite {c : Prop} {_ : Decidable c} {a b : Ans} (ha : a.Inv) (hb : b.Inv) : Ans.Inv (if c then a else b) :=
  iteInduction (motive := Ans.Inv) (fun _ => ha) fun _ => hb

theorem Act.Inv.ite {c : Prop} {_ : Decidable c} {a b : Act} (ha : a.Inv) (hb : b.Inv) : Act.Inv (if c then a else b) :=
  iteInduction (motive := Act.Inv) (fun _ => ha) fun _ => hb

theorem Rd.Inv.ite {c : Prop} {_ : Decidable c} {a b : Rd} (ha : a.Inv) (hb : b.Inv) : Rd.Inv (if c then a else b) :=
  iteInduction (motive := Rd.Inv) (fun _ => ha) fun _ => hb

theorem Src.Inv.ite {c : Prop} {_ : Decidable c} {a b : Src} (ha : a.Inv) (hb : b.Inv) : Src.Inv (if c then a else b) :=
  iteInduction (motive := Src.Inv) (fun _ => ha) fun _ => hb

theorem CmdRes.Inv.ite {c : Prop} {_ : Decidable c} {a b : CmdRes} (ha : a.Inv) (hb : b.Inv) : CmdRes.Inv (if c then a else b) :=
  iteInduction (motive := CmdRes.Inv) (fun _ => ha) fun _ => hb

theorem TkAct.Inv.ite {c : Prop} {_ : Decidable c} {a b : TkAct} (ha : a.Inv) (hb : b.Inv) : TkAct.Inv (if c then a else b) :=
  iteInduction (motive := TkAct.Inv) (fun _ => ha) fun _ => hb

theorem RvAct.Inv.ite {c : Prop} {_ : Decidable c} {a b : RvAct} (ha : a.Inv) (hb : b.Inv) : RvAct.Inv (if c then a else b) :=
  iteInduction (motive := RvAct.Inv) (fun _ => ha) fun _ => hb

theorem ExcInv.ite {ε : Type} {c : Prop} {_ : Decidable c} {a b : Except ε State} (ha : ExcInv a) (hb : ExcInv b) :
    ExcInv (if c then a else b) :=
  iteInduction (motive := ExcInv) (fun _ => ha) fun _ => hb

theorem PairInv.ite {α : Type} {c : Prop} {_ : Decidable c} {a b : Option (α × State)} (ha : PairInv a) (hb : PairInv b) :
    PairInv (if c then a else b) :=
  iteInduction (motive := PairInv) (fun _ => ha) fun _ => hb

end Sys2Proof.Machine
end

section
/-! SUPPORT. The canonical form of memory through the memory accesses. Elaborated one after another, so that few
threads wait for the kernel at a time. -/

set_option Elab.async false

namespace Sys2Proof.Machine

variable {s : State}

/-! ## `Machine/Ops` -/

theorem State.Inv.modCore (hi : s.Inv) {c : Nat} {f : Core → Core} : (s.modCore c f).Inv :=
  hi

theorem State.Inv.modThread (hi : s.Inv) {t : Nat} {f : Thread → Thread} : (s.modThread t f).Inv :=
  hi

theorem State.Inv.modTh (hi : s.Inv) {f : Thread → Thread} : (s.modTh f).Inv :=
  hi.modThread

theorem State.Inv.freeWord (hi : s.Inv) : s.freeWord.2.Inv :=
  hi

theorem State.Inv.fresh (hi : s.Inv) : s.fresh.2.Inv :=
  hi

theorem State.Inv.owe (hi : s.Inv) {i : Duty} : (s.owe i).Inv :=
  hi

theorem State.Inv.oweOnce (hi : s.Inv) {i : Duty} : (s.oweOnce i).Inv :=
  .ite hi hi.owe

theorem State.Inv.send (hi : s.Inv) {o : Out} : (s.send o).Inv :=
  hi

theorem State.Inv.modCoreCtx (hi : s.Inv) {c : Nat} {f : Core → Core} : (s.modCoreCtx c f).Inv :=
  .ite hi hi.modCore

theorem State.Inv.modCtx (hi : s.Inv) {tid : Nat} {f : Thread → Thread} : (s.modCtx tid f).Inv :=
  .ite hi hi.modThread

theorem State.Inv.setS (hi : s.Inv) {n : RegNo} {v : Word} : (s.setS n v).Inv :=
  hi.modTh

theorem State.Inv.setV (hi : s.Inv) {n : RegNo} {v : Vec} : (s.setV n v).Inv :=
  hi.modTh

theorem State.Inv.setP (hi : s.Inv) {n : PredNo} {v : Word} : (s.setP n v).Inv :=
  hi.modTh

theorem State.Inv.logEvent (hi : s.Inv) {ev sub : BitVec 8} {d0 d1 : Word} : (s.logEvent ev sub d0 d1).Inv :=
  hi.freeWord

theorem State.Inv.unwait (hi : s.Inv) {tid : Nat} : (s.unwait tid).Inv := by
  dsimp only [State.unwait]
  split <;> exact hi

theorem State.Inv.abandon (hi : s.Inv) {tid : Nat} : (s.abandon tid).Inv :=
  hi.unwait.modThread

theorem State.Inv.discard (hi : s.Inv) {tid : Nat} : (s.discard tid).Inv := by
  dsimp only [State.discard]
  split <;> exact hi

theorem State.Inv.abandonNested (hi : s.Inv) {tid : Nat} : (s.abandonNested tid).Inv := by
  dsimp only [State.abandonNested]
  split
  · exact hi
  · exact hi.abandon

theorem State.Inv.trap (hi : s.Inv) {tid cause : Nat} {value epc : Word} : (s.trap tid cause value epc).Inv :=
  .ite hi.abandonNested.upd.logEvent hi.abandon.modThread

theorem State.Inv.interrupt (hi : s.Inv) {tid code : Nat} : (s.interrupt tid code).Inv :=
  hi.discard.abandon.modThread

theorem State.Inv.begin (hi : s.Inv) {h : Head} {act : State → Act} (ha : (act s).Inv) : (begin s h act).Inv := by
  dsimp only [Machine.begin]
  refine .ite trivial (.ite trivial (.ite trivial (.ite hi (.ite trivial (.ite hi ?_)))))
  split
  · trivial
  · exact ha

theorem State.Inv.raise (hi : s.Inv) {cause : Nat} {value : Word} : (s.raise cause value).Inv := by
  dsimp only [State.raise]
  split
  · exact hi.trap
  · exact hi.modTh

theorem Act.Inv.finish (hi : s.Inv) {len : Nat} {a : Act} (ha : a.Inv) : (finish s len a).Inv := by
  cases a with
  | retire t => exact State.Inv.modTh ha
  | goto t target => exact State.Inv.modTh ha
  | skip t next => exact State.Inv.modTh ha
  | wait t w => exact State.Inv.modTh ha
  | trap c v => exact hi.raise
  | trapIn t c v => exact State.Inv.raise ha
  | stall => exact hi.modTh
  | done t => exact ha

theorem State.Inv.issue (hi : s.Inv) {h : Head} {act : State → Act} (ha : ∀ t : State, t.Inv → (act t).Inv) :
    (issue s h act).Inv :=
  (hi.begin (ha s hi)).finish hi

/-! ## `Machine/Packet` -/

theorem State.Inv.nextCtr (hi : s.Inv) {port : Nat} : (s.nextCtr port).2.Inv :=
  hi

theorem State.Inv.sendBy (hi : s.Inv) {port peer : Nat} {b : Body} : (s.sendBy port peer b).Inv :=
  hi.nextCtr.send

theorem State.Inv.sendTo (hi : s.Inv) {peer : Nat} {b : Body} : (s.sendTo peer b).Inv :=
  hi.sendBy

theorem State.Inv.sendUp (hi : s.Inv) {port group : Nat} {b : Body} {sealed : Bool} : (s.sendUp port group b sealed).Inv :=
  hi.nextCtr.send

theorem State.Inv.sendTree (hi : s.Inv) {group : Nat} {b : Body} : (s.sendTree group b).Inv :=
  hi.sendUp

theorem State.Inv.logDrop (hi : s.Inv) {h : PktHdr} {key : Option (BitVec 256)} : (s.logDrop h key).Inv :=
  hi.logEvent

theorem State.Inv.takeHdr (hi : s.Inv) {key : Option (BitVec 256)} {h : PktHdr} : (s.takeHdr key h).2.Inv := by
  dsimp only [State.takeHdr]
  split
  · exact hi
  · exact hi.logDrop

theorem State.Inv.takeEach (hi : s.Inv) {key : Option (BitVec 256)} {whole : Bool} {hs : List PktHdr} :
    (s.takeEach key whole hs).2.Inv := by
  induction hs generalizing s with
  | nil => exact hi
  | cons x hs ih =>
    unfold State.takeEach
    refine ih ?_
    split
    · exact hi
    · split
      · next e => exact (hi.takeHdr.of_eq e).upd
      · next e => exact hi.takeHdr.of_eq e

theorem State.Inv.takeHdrs (hi : s.Inv) {key : Option (BitVec 256)} {n : Nat} {hs : List PktHdr} : (s.takeHdrs key n hs).2.Inv := by
  dsimp only [State.takeHdrs]
  split <;> exact hi.takeEach

theorem State.Inv.takeFrom (hi : s.Inv) {peer n : Nat} {hs : List PktHdr} : (s.takeFrom peer n hs).2.Inv :=
  hi.takeHdrs

theorem State.Inv.takeOne (hi : s.Inv) {key : Option (BitVec 256)} {h : PktHdr} : (s.takeOne key h).2.Inv := by
  dsimp only [State.takeOne]
  split
  · exact hi
  · exact hi.takeHdr

theorem State.Inv.holdBack (hi : s.Inv) {hs : List PktHdr} : (s.holdBack hs).Inv :=
  hi

theorem State.Inv.takeHeld (hi : s.Inv) {peer n : Nat} {hs : List PktHdr} : (s.takeHeld peer n hs).2.Inv := by
  dsimp only [State.takeHeld]
  split
  · exact hi
  · exact hi.takeFrom

/-! ## `Machine/Translate` -/

theorem State.Inv.hbmTo (hi : s.Inv) {pa tag : Nat} : (s.hbmTo pa tag).Inv := by
  unfold State.hbmTo
  split
  · exact hi
  · exact Memory.wf_putBytes _ _ hi

theorem State.Inv.dropDup (hi : s.Inv) {core : Nat} {e : TlbEntry} : (s.dropDup core e).Inv :=
  Memory.wf_foldl _ (fun _ _ hm => Memory.wf_erase _ _ hm) _ hi

theorem State.Inv.dropWalks (hi : s.Inv) {core : Nat} {gone : TlbEntry → Bool} : (s.dropWalks core gone).Inv :=
  hi

theorem State.Inv.dropTlb (hi : s.Inv) {core : Nat} {gone : TlbEntry → Bool} : (s.dropTlb core gone).Inv :=
  (inv_foldl (fun _ _ ht => ht.dropDup) hi.dropWalks).modCore

theorem State.Inv.fillTlb (hi : s.Inv) {core : Nat} {e : TlbEntry} : (s.fillTlb core e).Inv := by
  dsimp only [State.fillTlb]
  refine State.Inv.modCore ?_
  split
  · exact .ite hi.dropDup.modCore hi
  · exact hi

theorem State.Inv.lookup (hi : s.Inv) {core va : Nat} : (s.lookup core va).2.Inv := by
  dsimp only [State.lookup]
  split
  · exact hi
  · exact hi
  · split
    · exact hi
    · split
      · exact hi
      · exact hi.fillTlb

theorem State.Inv.walkFree (hi : s.Inv) : s.walkFree.Inv :=
  hi

theorem State.Inv.translate (hi : s.Inv) {core : Nat} {user : Bool} {acc : Acc} {va : Nat} :
    (s.translate core user acc va).2.Inv := by
  have hl := hi.lookup (core := core) (va := va)
  dsimp only [State.translate]
  repeat' split
  any_goals exact hi
  all_goals exact hl

/-! ## `Machine/Access` -/

theorem State.Inv.writeBack (hi : s.Inv) {l : Line} : (s.writeBack l).Inv := by
  unfold State.writeBack
  split
  · exact Memory.wf_copyWords _ _ _ hi
  · exact hi

theorem State.Inv.cleanRange (hi : s.Inv) {lo n : Nat} : (s.cleanRange lo n).Inv :=
  (inv_foldl (fun _ _ ht => ht.writeBack) hi).upd

theorem State.Inv.dropLine (hi : s.Inv) {l : Line} : (s.dropLine l).Inv :=
  Memory.wf_erase _ _ hi.writeBack

theorem Memory.wf_copyPoison {m : Memory} (src dst n : Nat) (h : m.wf = true) : (copyPoison src dst m n).wf = true := by
  induction n with
  | zero => exact h
  | succ n ih =>
    dsimp only [copyPoison]
    split
    · exact Memory.wf_poisonWord _ ih
    · exact Memory.wf_cleanWord _ ih

theorem State.Inv.fillLine (hi : s.Inv) {home base key : Nat} {dup : Bool} : (s.fillLine home base key dup).Inv := by
  dsimp only [State.fillLine, State.Inv]
  exact Memory.wf_copyPoison _ _ _ (Memory.wf_putBytes _ _ hi)

theorem State.Inv.cacheLine (hi : s.Inv) {home base key : Nat} {dup : Bool} : (s.cacheLine home base key dup).2.Inv := by
  dsimp only [State.cacheLine]
  split
  · split
    · exact hi
    · exact hi.dropLine.fillLine
  · split
    · exact hi.fillLine
    · split
      · exact hi.dropLine.fillLine
      · exact hi

theorem State.Inv.giveWay (hi : s.Inv) {p : Place} {ser : Nat} : (s.giveWay p ser).Inv := by
  dsimp only [State.giveWay]
  split
  · split
    · exact hi
    · split
      · exact hi.dropLine
      · exact hi
  · exact hi
  · exact hi
  · exact hi
  · exact hi
  · exact hi
  · exact hi
  · exact hi

theorem State.Inv.dirtyTop (hi : s.Inv) : (s.dirtyTop).Inv := by
  dsimp only [State.dirtyTop]
  split <;> exact hi

theorem State.Inv.inSlice (hi : s.Inv) {home pa key : Nat} {dup : Bool} : (s.inSlice home pa key dup).2.Inv :=
  hi.cacheLine

theorem State.Inv.readPlace (hi : s.Inv) {p : Place} {n : Nat} : (s.readPlace p n).2.2.Inv := by
  cases p with
  | line home pa key =>
    dsimp only [State.readPlace]
    split
    · next e => exact hi.inSlice.of_eq e
    · next e => exact hi.inSlice.of_eq e
  | rd core pa key =>
    have hr : (if s.holdsDup core pa then s.inSlice core pa key true else (none, s)).2.Inv := by
      split
      · exact hi.inSlice
      · exact hi
    dsimp only [State.readPlace]
    split
    · next e => exact hr.of_eq e
    · next e => exact hr.of_eq e
  | loc _ _ | hbm _ _ _ | host _ | bin _ _ | yard _ _ _ | mcast _ _ => exact hi

theorem State.Inv.putPlace (hi : s.Inv) {p : Place} {n v : Nat} : (s.putPlace p n v).Inv := by
  cases p with
  | line home pa key =>
    dsimp only [State.putPlace]
    split
    · next e => exact Memory.wf_store _ _ _ (hi.inSlice.of_eq e)
    · next e => exact Memory.wf_store _ _ _ (hi.inSlice.of_eq e).hbmTo
  | loc _ _ | host _ => exact Memory.wf_store _ _ _ hi
  | hbm _ _ _ => exact Memory.wf_store _ _ _ hi.hbmTo
  | bin _ _ | rd _ _ _ | yard _ _ _ | mcast _ _ => exact hi

theorem Memory.wf_mark {m : Memory} (on : Bool) (a : Nat) (h : m.wf = true) :
    (if on then m.poisonWord a else m.cleanWord a).wf = true := by
  split
  · exact Memory.wf_poisonWord _ h
  · exact Memory.wf_cleanWord _ h

theorem State.Inv.markPlace (hi : s.Inv) {p : Place} {on : Bool} : (s.markPlace p on).Inv := by
  cases p with
  | line home pa key =>
    dsimp only [State.markPlace]
    split
    · next e => exact Memory.wf_mark _ _ (hi.inSlice.of_eq e).dirtyTop
    · next e => exact Memory.wf_mark _ _ (hi.inSlice.of_eq e).hbmTo
  | loc _ _ | host _ => exact Memory.wf_mark _ _ hi
  | hbm _ _ _ => exact Memory.wf_mark _ _ hi.hbmTo
  | bin _ _ | rd _ _ _ | yard _ _ _ | mcast _ _ => exact hi

theorem State.Inv.fireAll (hi : s.Inv) {hit : WatchEnt → Bool} : (s.fireAll hit).Inv := by
  dsimp only [State.fireAll]
  split
  · exact hi
  · exact (inv_foldl (fun _ _ ht => ht.modCtx) hi.upd)

theorem State.Inv.notify (hi : s.Inv) {p : Place} : (s.notify p).Inv :=
  hi.upd.fireAll

theorem State.Inv.freed {s0 : State} (hi : s.Inv) : (s0.freed s).Inv :=
  hi.fireAll

theorem State.Inv.writePlace (hi : s.Inv) {p : Place} {n v : Nat} : (s.writePlace p n v).Inv :=
  hi.putPlace.notify

theorem State.Inv.writeTogether (hi : s.Inv) {ps : List Piece} : (s.writeTogether ps).Inv :=
  (inv_foldl (fun _ _ ht => ht.notify) (inv_foldl (fun _ _ ht => ht.putPlace) (inv_foldl (fun _ _ ht => .ite ht.markPlace ht) hi)))

theorem State.Inv.putWords (hi : s.Inv) {core off : Nat} {vs : List Nat} : (s.putWords core off vs).Inv := by
  induction vs generalizing s off with
  | nil => exact hi
  | cons v vs ih => exact ih hi.writePlace

theorem State.Inv.perform (hi : s.Inv) {k : FlightKind} {e : Elem} : (s.perform k e).2.Inv := by
  dsimp only [State.perform]
  split
  · exact hi.readPlace
  · exact hi.writePlace
  · split
    · exact hi
    · split
      · exact hi.readPlace
      · exact State.Inv.ite hi.readPlace.writePlace hi.readPlace
  · split
    · exact hi.readPlace
    · exact hi.readPlace.writePlace
  · exact hi

theorem State.Inv.performEach (hi : s.Inv) {k : FlightKind} {now : Elem → Bool} {es : List Elem} :
    (s.performEach k now es).2.Inv := by
  induction es generalizing s with
  | nil => exact hi
  | cons e es ih =>
    unfold State.performEach
    split
    · exact ih hi.perform
    · exact ih hi

theorem State.Inv.performPart (hi : s.Inv) {k : FlightKind} {part : Nat} {es : List Elem} : (s.performPart k part es).2.Inv := by
  dsimp only [State.performPart]
  split
  · exact hi.writeTogether
  · exact hi.performEach
  · exact hi.performEach
  · exact hi.performEach
  · exact hi.performEach

theorem State.Inv.endFlight (hi : s.Inv) {f : Flight} : (s.endFlight f).Inv :=
  hi.upd.modCtx

theorem State.Inv.performPrivate (hi : s.Inv) {k : FlightKind} {es : List Elem} : (s.performPrivate k es).2.Inv :=
  List.foldlRecOn (motive := fun x : List Elem × State => x.2.Inv) _ _ hi fun _ ht _ _ => State.Inv.performPart ht

theorem State.Inv.launch (hi : s.Inv) {tid : Nat} {r : Req} : ExcInv (s.launch tid r) := by
  dsimp only [State.launch]
  split
  · exact trivial
  · split
    · exact trivial
    · split
      · exact trivial
      · split
        · exact hi.performPrivate.upd.modThread
        · exact hi.performPrivate.modThread

/-! ## `Machine/Check` -/

theorem State.Inv.check (hi : s.Inv) {form : Form} {acc : Acc} {va w : Nat} : (s.check form acc va w).2.Inv := by
  dsimp only [State.check]
  split
  · exact hi
  · split
    · exact hi.translate
    · exact hi.translate
    · exact hi.translate
    · split <;> exact hi.translate

theorem State.Inv.act (hi : s.Inv) {x : NoPlace} : (NoPlace.act s x).Inv := by
  dsimp only [Machine.NoPlace.act]
  split
  · exact trivial
  · exact hi

theorem State.Inv.checkAll (hi : s.Inv) {form : Form} {acc : Acc} {w : Nat} {vec : Bool} {xs : List Want} :
    (s.checkAll form acc w vec xs).Inv := by
  induction xs generalizing s with
  | nil => exact hi
  | cons x xs ih =>
    unfold State.checkAll
    split
    any_goals trivial
    next e =>
      split
      any_goals trivial
      next e' => exact (ih (hi.check.of_eq e)).ok e'

theorem State.Inv.loadAct (hi : s.Inv) {s0 : State} (hi0 : s0.Inv) {es : List (AKind × Elem)} {acq so : Bool} {dest : Dest}
    : (loadAct s0 s es acq so dest).Inv := by
  dsimp only [Machine.loadAct]
  split
  · exact trivial
  · split
    · exact hi0
    · next e =>
      exact hi.launch.ok e

theorem State.Inv.storeAct {s0 : State} (hi : s.Inv) (hi0 : s0.Inv) {form : Form} {es : List Elem} {rel so : Bool} :
    (storeAct s0 s form es rel so).Inv := by
  unfold Machine.storeAct
  refine .ite (.ite (.ite trivial hi0) hi.modTh) ?_
  split
  · exact hi0
  · next e => exact hi.launch.ok e

/-! ## `Machine/Atomic` -/

theorem State.Inv.atomic (hi : s.Inv) {i : Instr} {p : PredNo} {posted : Bool} {ord : AmoOrder} {w : Nat} {d a base : RegNo}
    {uses : List RName} {op : State → AmoOp} : (atomic s i p posted ord w d a base uses op).Inv := by
  dsimp only [Machine.atomic]
  refine hi.issue fun s ht => ?_
  split
  · exact trivial
  · exact ht
  · next e =>
    split
    · exact trivial
    · split
      · exact ht
      · next e' =>
        exact ((ht.checkAll.ok e).launch.ok e')

/-! ## `Machine/Sync` -/

theorem State.Inv.execFence (hi : s.Inv) {p : PredNo} {a : RegNo} : (execFence p a s).Inv := by
  dsimp only [Machine.execFence]
  refine hi.issue fun s ht => ?_
  split
  · exact trivial
  · split <;> exact ht

theorem State.Inv.execFenceLb (hi : s.Inv) {p : PredNo} : (execFenceLb p s).Inv := by
  dsimp only [Machine.execFenceLb]
  refine hi.issue fun s ht => ?_
  refine .ite ?_ ?_
  · exact ht
  · exact ht

theorem State.Inv.watchAct (hi : s.Inv) {va : Nat} {only : Place → Bool} {w : Place → WatchEnt} : (watchAct s va only w).Inv := by
  dsimp only [Machine.watchAct]
  split
  · exact hi
  · exact hi
  · split
    · exact trivial
    · exact hi
    · exact trivial
    · next e =>
      split
      · exact trivial
      · split
        · exact hi
        · split
          · exact trivial
          · split
            · exact (hi.checkAll.ok e).readPlace
            · exact .ite (hi.checkAll.ok e).readPlace (hi.checkAll.ok e).readPlace.modCore

theorem State.Inv.execWatch (hi : s.Inv) {p : PredNo} {cmp : WatchCmp} {a b : RegNo} : (execWatch p cmp a b s).Inv :=
  hi.issue fun _ ht => ht.watchAct

theorem State.Inv.execBarArr (hi : s.Inv) {p : PredNo} {a : RegNo} : (execBarArr p a s).Inv := by
  dsimp only [Machine.execBarArr]
  refine hi.issue fun s ht => ?_
  split
  · exact trivial
  · exact ht
  · next e =>
    split
    · exact trivial
    · split
      · exact ht
      · next e' =>
        exact ((ht.checkAll.ok e).launch.ok e')

theorem State.Inv.execBarWait (hi : s.Inv) {p : PredNo} {a b : RegNo} : (execBarWait p a b s).Inv :=
  hi.issue fun _ ht => ht.watchAct

theorem State.Inv.raiseIrq (hi : s.Inv) {tid : Nat} {i : Irq} : (s.raiseIrq tid i).Inv :=
  .ite hi hi.modCtx

theorem State.Inv.execMput (hi : s.Inv) {p : PredNo} {a : RegNo} {mbox : BitVec 3} : (execMput p a mbox s).Inv := by
  dsimp only [Machine.execMput]
  refine hi.issue fun s ht => ?_
  split
  · exact ht
  · exact ht.modCore.raiseIrq

theorem State.Inv.execMget (hi : s.Inv) {p : PredNo} {d : RegNo} {mbox : BitVec 3} : (execMget p d mbox s).Inv := by
  dsimp only [Machine.execMget]
  refine hi.issue fun s ht => ?_
  split
  · exact ht
  · exact ht.modCore.setS

theorem State.Inv.execWait (hi : s.Inv) {p : PredNo} {cls : WaitClass} : (execWait p cls s).Inv :=
  hi.issue fun _ ht => .ite ht (.ite ht.modTh (.ite ht.modTh ht))

theorem State.Inv.tokenWait (hi : s.Inv) {i : Instr} {p : PredNo} {a : RegNo} {k : Nat} : (tokenWait s i p a k).Inv := by
  dsimp only [Machine.tokenWait]
  refine hi.issue fun s ht => ?_
  split
  · exact trivial
  · split <;> exact ht

/-! ## `Machine/Message` -/

theorem State.Inv.retireOther (hi : s.Inv) {tid : Nat} : (s.retireOther tid).Inv :=
  hi.modThread

theorem State.Inv.post (hi : s.Inv) {p : Packet} : (s.post p).Inv :=
  hi

theorem State.Inv.execSendm (hi : s.Inv) {p : PredNo} {a b : RegNo} : (execSendm p a b s).Inv := by
  dsimp only [Machine.execSendm]
  refine hi.issue fun s ht => ?_
  split
  · exact ht
  · exact .ite trivial (.ite ht ht.fresh.post.owe)

theorem State.Inv.dropPacket (hi : s.Inv) {id : Nat} : (s.dropPacket id).Inv :=
  hi

theorem State.Inv.execMessageDelivery (hi : s.Inv) {id : Nat} : (execMessageDelivery id s).Inv := by
  dsimp only [Machine.execMessageDelivery]
  split
  · exact .ite hi.dropPacket.trap (.ite hi.owe hi.dropPacket.modThread.raiseIrq.retireOther)
  · exact hi

theorem State.Inv.setPair (hi : s.Inv) {d : RegNo} {x y : Word} : (s.setPair d x y).Inv :=
  .ite hi.setS hi.setS.setS

theorem State.Inv.execRecvm (hi : s.Inv) {p : PredNo} {d a : RegNo} : (execRecvm p d a s).Inv := by
  dsimp only [Machine.execRecvm]
  refine hi.issue fun s ht => ?_
  split
  · exact trivial
  · split
    · refine State.Inv.setPair ?_
      refine State.Inv.modTh ?_
      split
      · exact ht
      · exact ht.modTh
    · split
      · exact ht
      · exact ht.modTh

theorem State.Inv.execRcall (hi : s.Inv) {p : PredNo} {d a b : RegNo} : (execRcall p d a b s).Inv :=
  hi.issue fun _ ht => .ite trivial (.ite ht (.ite ht ht.fresh.post.modTh.owe))

theorem State.Inv.reply (hi : s.Inv) {value token : Word} {refused : Bool} : (s.reply value token refused).Inv :=
  hi.fresh.post.owe

theorem State.Inv.execCallDelivery (hi : s.Inv) {id : Nat} : (execCallDelivery id s).Inv := by
  dsimp only [Machine.execCallDelivery]
  split
  · exact .ite hi.dropPacket.reply (.ite hi.owe hi.dropPacket.modThread)
  · exact hi

theorem State.Inv.execCallReply (hi : s.Inv) {id : Nat} : (execCallReply id s).Inv := by
  dsimp only [Machine.execCallReply]
  split
  · exact .ite hi.dropPacket.modCtx hi.dropPacket
  · exact hi

theorem State.Inv.execRret (hi : s.Inv) {p : PredNo} {d a b : RegNo} : (execRret p d a b s).Inv := by
  dsimp only [Machine.execRret]
  refine hi.issue fun s ht => ?_
  split
  · exact ht
  · split
    · exact State.Inv.ite ht ht.reply.setS
    · refine State.Inv.setPair ?_
      refine State.Inv.modTh ?_
      exact .ite ht ht.reply.setS

theorem State.Inv.execRgrab (hi : s.Inv) {p : PredNo} {d a : RegNo} : (execRgrab p d a s).Inv :=
  hi.issue fun _ ht => .ite trivial (.ite ht ht.fresh.upd.owe.modTh)

theorem State.Inv.execFeedBinGrab (hi : s.Inv) {src : GrabSrc} : (execFeedBinGrab src s).Inv := by
  dsimp only [Machine.execFeedBinGrab]
  split
  · exact hi.upd.send
  · split
    · exact hi
    · split
      · split
        · exact hi.upd.owe
        · exact hi
      · exact hi

theorem State.Inv.execReceiveThreshold (hi : s.Inv) {tid : Nat} : (execReceiveThreshold tid s).Inv := by
  dsimp only [Machine.execReceiveThreshold]
  split
  · exact hi
  · exact hi.fresh.upd.owe

theorem State.Inv.setProbe (hi : s.Inv) {id : Nat} {p : Option Probe} : (s.setProbe id p).Inv :=
  hi

theorem State.Inv.execRecvProbe (hi : s.Inv) {id : Nat} : (execRecvProbe id s).Inv := by
  dsimp only [Machine.execRecvProbe]
  split
  · exact hi
  · split
    · exact hi.setProbe
    · split
      · exact hi.setProbe
      · exact .ite (.ite hi.setProbe.owe hi.setProbe) (.ite hi.setProbe hi.setProbe.owe)

theorem State.Inv.strikeOne (hi : s.Inv) {len : Nat} {x : Nat × Nat} : (s.strikeOne len x).Inv := by
  dsimp only [State.strikeOne]
  split
  · exact hi
  · exact .ite hi.trap hi

theorem State.Inv.execRecvStrike (hi : s.Inv) {id : Nat} : (execRecvStrike id s).Inv := by
  dsimp only [Machine.execRecvStrike]
  split
  · exact hi
  · exact (inv_foldl (fun _ _ ht => ht.strikeOne) hi.setProbe)

/-! ## `Machine/AccessEvents` -/

theorem State.Inv.setFlight (hi : s.Inv) {f : Flight} : (s.setFlight f).Inv :=
  hi

theorem State.Inv.afterPerform (hi : s.Inv) {f : Flight} : (s.afterPerform f).Inv := by
  dsimp only [State.afterPerform]
  split
  · exact hi.setFlight
  · split
    · exact hi.setFlight.owe
    · exact hi.endFlight
    · exact hi.setFlight.owe

theorem State.Inv.sendMcast (hi : s.Inv) {f : Flight} {g : Nat} : (s.sendMcast f g).Inv :=
  .ite hi hi.upd.sendTree

theorem State.Inv.performNow (hi : s.Inv) {id part : Nat} {again : Duty} : (s.performNow id part again).Inv := by
  dsimp only [State.performNow]
  split
  · exact hi
  · split
    · exact hi
    · split
      · exact hi.owe
      · split
        · exact hi.sendMcast
        · exact hi
        · exact hi.performPart.afterPerform

theorem State.Inv.execAccessPerform (hi : s.Inv) {id part : Nat} {host : List (Nat × Byte)} :
    (execAccessPerform id part host s).Inv := by
  have hm : State.Inv { s with mem := host.foldl (fun (m : Memory) (b : Nat × Byte) => m.putByte (Region.host b.1) b.2) s.mem } :=
    Memory.wf_foldl _ (fun _ _ h => Memory.wf_putByte _ _ h) _ hi
  exact hm.performNow

theorem State.Inv.execFeedBinArm (hi : s.Inv) {id part : Nat} : (execFeedBinArm id part s).Inv :=
  State.Inv.ite hi.performNow hi

theorem State.Inv.execFeedBinDisarm (hi : s.Inv) {id part : Nat} : (execFeedBinDisarm id part s).Inv :=
  State.Inv.ite hi.performNow hi

theorem State.Inv.settleFlight (hi : s.Inv) {f : Flight} : (s.settleFlight f).Inv :=
  .ite hi.endFlight hi.setFlight

theorem State.Inv.answerCopy (hi : s.Inv) {ser : Nat} {whom : Option Nat} {r : FabResp} : (s.answerCopy ser whom r).Inv :=
  hi

theorem State.Inv.takeAnswer (hi : s.Inv) {reqId : Nat} {r : FabResp} : (s.takeAnswer reqId r).Inv := by
  dsimp only [State.takeAnswer]
  split
  · exact hi.settleFlight
  · exact hi.answerCopy

theorem State.Inv.execRemoteResultArrival (hi : s.Inv) {id : Nat} {ext : Option (PktHdr × List Dword)}
    : (execRemoteResultArrival id ext s).Inv := by
  dsimp only [Machine.execRemoteResultArrival]
  split
  · split
    · exact hi
    · exact State.Inv.ite hi.endFlight hi
  · exact State.Inv.ite hi.takeFrom.takeAnswer hi.takeFrom

theorem State.Inv.execRemoteRefusal (hi : s.Inv) {id : Nat} {r : RemoteNak} : (execRemoteRefusal id r s).Inv := by
  dsimp only [Machine.execRemoteRefusal]
  split
  · exact State.Inv.ite hi.takeFrom.takeAnswer hi.takeFrom
  · split
    · exact hi.answerCopy
    · exact State.Inv.ite hi.settleFlight hi

theorem State.Inv.execPenDrain (hi : s.Inv) {tid : Nat} : (execPenDrain tid s).Inv := by
  dsimp only [Machine.execPenDrain]
  split
  · split
    · exact hi.owe
    · next e =>
      exact State.Inv.ite (hi.modThread.launch.ok e).modThread (hi.modThread.launch.ok e).modThread.owe
  · exact hi.owe
  · exact hi

theorem State.Inv.beginWalk (hi : s.Inv) {core va : Nat} : (s.beginWalk core va).Inv :=
  .ite hi hi.upd.owe

theorem State.Inv.endWalk (hi : s.Inv) {w : WalkRun} : (s.endWalk w).Inv := by
  dsimp only [State.endWalk]
  split
  · exact hi
  · exact .ite hi.upd.fillTlb hi

theorem State.Inv.execPageWalk (hi : s.Inv) {core : Nat} {va : BitVec 64} : (execPageWalk core va s).Inv := by
  dsimp only [Machine.execPageWalk]
  split
  · exact hi.beginWalk
  · exact hi.endWalk

theorem State.Inv.execUncorrectableEccError (hi : s.Inv) {place : Nat} : (execUncorrectableEccError place s).Inv :=
  Memory.wf_poisonWord _ hi

end Sys2Proof.Machine
end

section
/-! SUPPORT. The canonical form of memory through groups, records, yards and axes. Elaborated one after another, so that few
threads wait for the kernel at a time. -/

set_option Elab.async false

namespace Sys2Proof.Machine

variable {s : State}

/-! ## `Machine/Group` -/

theorem State.Inv.setGroup (hi : s.Inv) {gid : BitVec 48} {g : Option Group} : (s.setGroup gid g).Inv := by
  dsimp only [State.setGroup]
  split <;> exact hi

theorem State.Inv.place (hi : s.Inv) {gid : BitVec 48} : (s.place gid).Inv := by
  dsimp only [State.place]
  split
  · exact hi
  · split
    · exact hi
    · split
      · exact (inv_foldl (fun _ _ ht => ht.send) hi.setGroup).owe
      · exact (inv_foldl (fun _ _ ht => ht.send) hi.setGroup)

theorem State.Inv.enrol (hi : s.Inv) {gid : BitVec 48} {d : JoinDesc} {j : Joiner} : (s.enrol gid d j).Inv := by
  dsimp only [State.enrol]
  split
  · exact hi.upd.place
  · exact .ite hi.setGroup.place (.ite hi.setGroup.send.owe hi.setGroup.send)

theorem State.Inv.execGjoin (hi : s.Inv) {slot : BitVec 2} {a b : RegNo} : (execGjoin slot a b s).Inv := by
  dsimp only [Machine.execGjoin]
  refine hi.issue fun s ht => ?_
  split
  · split <;> exact ht.modTh
  · split
    · exact trivial
    · split
      · exact trivial
      · split
        · exact .ite trivial (.ite ht.place (.ite trivial ht.enrol))
        · exact ht.enrol

theorem State.Inv.endJoin (hi : s.Inv) {gid : BitVec 48} {g : Group} {sub : Nat} {j : Joiner} : (s.endJoin gid g sub j).Inv :=
  .ite (.ite hi.modThread.retireOther hi.modCtx) (.ite hi.trap hi.modCtx)

theorem State.Inv.loseJoins (hi : s.Inv) {gid : BitVec 48} {others : List RemoteJoin} {lost : List Nat}
    : (s.loseJoins gid others lost).Inv := by
  dsimp only [State.loseJoins]
  split
  · exact hi
  · exact (inv_foldl (fun _ _ ht => ht.endJoin) hi.setGroup)

theorem State.Inv.joinOther (hi : s.Inv) {gid : BitVec 48} {r : RemoteJoin} : (s.joinOther gid r).Inv := by
  dsimp only [State.joinOther]
  split
  · split <;> exact hi
  · exact .ite hi hi.setGroup

theorem State.Inv.execJoinComplete (hi : s.Inv) {gid : BitVec 48} {news : JoinNews} : (execJoinComplete gid news s).Inv := by
  dsimp only [Machine.execJoinComplete]
  split
  · exact (inv_foldl (fun _ _ ht => ht.joinOther) hi.loseJoins)
  · split
    · exact (inv_foldl (fun _ _ ht => ht.joinOther) hi.loseJoins)
    · exact (inv_foldl (fun _ _ ht => ht.endJoin) (inv_foldl (fun _ _ ht => ht.joinOther) hi.loseJoins).setGroup)

theorem State.Inv.execGroupTimeout (hi : s.Inv) {gid : BitVec 48} : (execGroupTimeout gid s).Inv := by
  dsimp only [Machine.execGroupTimeout]
  split
  · exact hi
  · exact .ite hi (inv_foldl (fun _ _ ht => ht.endJoin) hi.setGroup)

theorem State.Inv.modAgreement (hi : s.Inv) {gid : BitVec 48} {n : Nat} {f : Agreement → Agreement}
    : (s.modAgreement gid n f).Inv :=
  hi

theorem State.Inv.openAgreement (hi : s.Inv) {gid : BitVec 48} {n : Nat} : (s.openAgreement gid n).Inv := by
  dsimp only [State.openAgreement]
  split <;> exact hi

theorem State.Inv.fold (hi : s.Inv) {gid : BitVec 48} {n : Nat} {c : Contrib} : (s.fold gid n c).Inv :=
  hi.openAgreement.modAgreement

theorem State.Inv.nextAgr (hi : s.Inv) {port : Nat} : (s.nextAgr port).2.Inv :=
  hi

theorem State.Inv.sendFold (hi : s.Inv) {g : Group} {n : Nat} {any : Bool} {cs : List Contrib} : (s.sendFold g n any cs).Inv := by
  dsimp only [State.sendFold]
  split <;> exact hi.nextAgr.send

theorem State.Inv.sendAgreement (hi : s.Inv) {g : Group} {n : Nat} {cs : List Contrib} : (s.sendAgreement g n cs).Inv :=
  (inv_foldl (fun _ _ ht => ht.sendFold) hi)

theorem State.Inv.passOn (hi : s.Inv) {g : Group} {n : Nat} : (s.passOn g n).Inv := by
  dsimp only [State.passOn]
  split
  · exact hi
  · split
    · exact hi
    · split
      · exact (inv_foldl (fun _ _ ht => ht.sendAgreement) hi).modAgreement
      · exact .ite hi.sendAgreement.modAgreement hi

theorem State.Inv.sendOutcome (hi : s.Inv) {g : Group} {n : Nat} {v : Option Bool} : (s.sendOutcome g n v).Inv :=
  (inv_foldl (fun _ _ ht => ht.nextAgr.send) hi)

theorem State.Inv.forget (hi : s.Inv) {g : Group} {n : Nat} : (s.forget g n).Inv := by
  dsimp only [State.forget]
  split <;> exact hi

theorem State.Inv.resolveAll (hi : s.Inv) {g : Group} {n : Nat} {v : Option Bool} : (s.resolveAll g n v).Inv :=
  (inv_foldl (fun _ _ ht => ht.owe) hi.sendOutcome.modAgreement).forget

theorem State.Inv.settleAgreement (hi : s.Inv) {g : Group} {n : Nat} : (s.settleAgreement g n).Inv := by
  dsimp only [State.settleAgreement]
  split
  · exact hi
  · exact .ite hi hi.resolveAll

theorem State.Inv.foldAbsent (hi : s.Inv) {g : Group} {n : Nat} {any : Bool} : (s.foldAbsent g n any).Inv :=
  (inv_foldl (fun _ _ ht => .ite ht.fold ht) hi)

theorem State.Inv.advanceAgreement (hi : s.Inv) {g : Group} {n : Nat} : (s.advanceAgreement g n).Inv :=
  hi.foldAbsent.passOn.settleAgreement

theorem State.Inv.takeAgreement (hi : s.Inv) {key : Option (BitVec 256)} {h : PktHdr} : (s.takeAgreement key h).2.Inv := by
  dsimp only [State.takeAgreement]
  split
  · exact hi
  · exact hi.logDrop

theorem State.Inv.execAgreementContribution (hi : s.Inv) {gid : BitVec 48} {ordinal : Nat} {members : List Nat}
    {any value : Bool} {hdr : Option PktHdr} : (execAgreementContribution gid ordinal members any value hdr s).Inv := by
  have folds {t : State} (ht : t.Inv) (ms : List Nat) : (ms.foldl (fun s i => s.fold gid ordinal ⟨i, any, value⟩) t).Inv :=
    inv_foldl (fun _ _ ht => ht.fold) ht
  cases hdr with
  | none =>
    dsimp only [Machine.execAgreementContribution]
    split
    · exact hi
    · exact (folds hi _).foldAbsent.advanceAgreement
  | some h =>
    dsimp only [Machine.execAgreementContribution]
    split
    · exact hi.takeAgreement
    · exact Ans.Inv.ite hi.takeAgreement (folds hi.takeAgreement _).advanceAgreement

theorem State.Inv.execGabsent (hi : s.Inv) {slot : BitVec 2} : (execGabsent slot s).Inv := by
  dsimp only [Machine.execGabsent]
  refine hi.issue fun s ht => ?_
  split
  · exact trivial
  · split
    · exact trivial
    · split
      · exact trivial
      · split
        · exact ht.modTh
        · exact (inv_foldl (fun _ _ ht => .ite ht.advanceAgreement ht) ht.modTh)

theorem State.Inv.agreedBranch (hi : s.Inv) {i : Instr} {off : BitVec 11} {hint any : Bool} {bit : BitVec 6} {p : PredNo}
    {slot : BitVec 2} : (agreedBranch s i off hint any bit p slot).Inv := by
  dsimp only [Machine.agreedBranch]
  refine hi.issue fun s ht => ?_
  split
  · exact trivial
  · split
    · exact trivial
    · split
      · exact trivial
      · exact .ite trivial (.ite trivial (.ite (.ite ht.modTh (.ite ht.modTh ht)) ht.modTh.owe))

theorem State.Inv.commit (hi : s.Inv) {tid : Nat} {sp : Spec} : (s.commit tid sp).Inv := by
  dsimp only [State.commit]
  split
  · exact .ite hi hi.upd.owe
  · refine State.Inv.trap ?_
    exact .ite hi hi.upd.owe

theorem State.Inv.rollBack (hi : s.Inv) {tid : Nat} {sp : Spec} : (s.rollBack tid sp).Inv :=
  hi.discard.modThread

theorem State.Inv.outcome (hi : s.Inv) {tid : Nat} {slot : BitVec 2} : (s.outcome tid slot).Inv := by
  dsimp only [State.outcome]
  split
  · split
    · exact hi
    · split
      · exact hi
      · refine State.Inv.forget ?_
        split
        · exact hi.modCtx
        · split
          · exact hi.modCtx
          · split
            · exact hi.discard.modThread.trap
            · exact .ite hi.commit.modThread hi.rollBack.modThread
  · exact hi

theorem State.Inv.execAgreementResolution (hi : s.Inv) {tid : Nat} {out : Resolution}
    : (execAgreementResolution tid out s).Inv := by
  dsimp only [Machine.execAgreementResolution]
  split
  · exact hi.outcome
  · split
    · exact hi.takeAgreement
    · refine .ite ?_ ?_
      · exact hi.takeAgreement
      · refine State.Inv.outcome ?_
        exact .ite hi.takeAgreement.openAgreement hi.takeAgreement.openAgreement.resolveAll

theorem State.Inv.execSpecLimit (hi : s.Inv) {tid : Nat} : (execSpecLimit tid s).Inv := by
  dsimp only [Machine.execSpecLimit]
  split
  · exact hi.discard.trap
  · exact hi.trap
  · exact hi

theorem State.Inv.modYard (hi : s.Inv) {c : Nat} {f : Yard → Yard} : (s.modYard c f).Inv :=
  hi.modCore

theorem State.Inv.killYard (hi : s.Inv) {gid : BitVec 48} {tid : Nat} : (s.killYard gid tid).Inv :=
  hi.modCoreCtx

theorem State.Inv.dissolveOne (hi : s.Inv) {gid : BitVec 48} {g : Group} {j : Joiner} : (s.dissolveOne gid g j).Inv :=
  .ite hi.endJoin (.ite hi.killYard.modCtx.discard.trap hi.killYard.modCtx)

theorem State.Inv.keepGroup (hi : s.Inv) {g : Group} : (s.keepGroup g).Inv :=
  hi.setGroup

theorem State.Inv.execGroupDissolved (hi : s.Inv) {gid : BitVec 48} {left : List Nat} : (execGroupDissolved gid left s).Inv := by
  dsimp only [Machine.execGroupDissolved]
  split
  · exact hi
  · split
    · exact hi
    · exact (inv_foldl (fun _ _ ht => ht.dissolveOne) (inv_foldl (fun _ _ ht => ht.outcome) hi.keepGroup))

theorem State.Inv.leave (hi : s.Inv) {tid k : Nat} : (s.leave tid k).Inv := by
  dsimp only [State.leave]
  split
  · exact hi
  · split
    · exact .ite hi.modThread (.ite hi.modThread.killYard.modYard hi.modThread.killYard.owe)
    · refine State.Inv.keepGroup ?_
      split
      · refine State.Inv.send ?_
        exact .ite hi.modThread (.ite hi.modThread.killYard.modYard hi.modThread.killYard.owe)
      · refine State.Inv.owe ?_
        refine State.Inv.send ?_
        exact .ite hi.modThread (.ite hi.modThread.killYard.modYard hi.modThread.killYard.owe)

theorem State.Inv.execGleave (hi : s.Inv) {slot : BitVec 2} : (execGleave slot s).Inv :=
  hi.issue fun _ ht => .ite ht ht.leave

theorem State.Inv.execGinfo (hi : s.Inv) {slot : BitVec 2} {d : RegNo} : (execGinfo slot d s).Inv :=
  hi.issue fun _ ht => ht.setS

/-! ## `Machine/Records` -/

theorem State.Inv.readUnit (hi : s.Inv) {va w : Nat} : (s.readUnit va w).Inv := by
  dsimp only [State.readUnit]
  split
  · exact trivial
  · exact trivial
  · exact trivial
  · exact trivial
  · next e =>
    exact .ite trivial (.ite trivial (.ite trivial (hi.check.of_eq e).readPlace))

theorem State.Inv.readEach (hi : s.Inv) {va w n : Nat} : (s.readEach va w n).Inv := by
  induction n generalizing s va with
  | zero => exact hi
  | succ n ih =>
    unfold State.readEach
    split
    · trivial
    · trivial
    · next e =>
      split
      · trivial
      · trivial
      · next e' => exact (ih (hi.readUnit.ok e)).ok e'

theorem State.Inv.readUnits (hi : s.Inv) {va w n : Nat} : (s.readUnits va w n).Inv := by
  dsimp only [State.readUnits]
  split
  · exact trivial
  · exact hi.readEach

theorem State.Inv.readWords (hi : s.Inv) {va n : Nat} : (s.readWords va n).Inv :=
  hi.readUnits

theorem State.Inv.readShape (hi : s.Inv) {a : Nat} : (s.readShape a).Inv := by
  dsimp only [State.readShape]
  split
  · exact trivial
  · split
    · exact trivial
    · exact trivial
    · next e =>
      split
      · exact trivial
      · exact hi.readWords.ok e

theorem State.Inv.loopAct (hi : s.Inv) {i : Instr} {len : BitVec 10} {c : Nat} {dest : Option RegNo} :
    (loopAct s i len c dest).Inv := by
  have hd : State.Inv (match dest with | none => s | some d => s.setS d (BitVec.ofNat 64 c)) := by
    cases dest with
    | none => exact hi
    | some d => exact hi.setS
  exact .ite trivial (.ite trivial (.ite hd hd.modTh))

theorem State.Inv.execLoopi (hi : s.Inv) {len : BitVec 10} {count : BitVec 15} : (execLoopi len count s).Inv :=
  hi.issue fun _ ht => ht.loopAct

theorem State.Inv.execLoops (hi : s.Inv) {len : BitVec 10} {dim : BitVec 2} {d a : RegNo} : (execLoops len dim d a s).Inv := by
  dsimp only [Machine.execLoops]
  refine hi.issue fun s ht => ?_
  split
  · exact trivial
  · split
    · exact trivial
    · exact ht
    · next e =>
      exact .ite trivial (ht.readShape.ok e).loopAct

/-! ## `Machine/Yard` -/

theorem State.Inv.yardAway (hi : s.Inv) {f : Flight} {e : Elem} {core i sub : Nat} : (s.yardAway f e core i sub).Inv :=
  .ite hi.owe (.ite hi.afterPerform hi.setFlight.sendTo)

theorem State.Inv.forwardOwn (hi : s.Inv) {id k : Nat} : (s.forwardOwn id k).Inv := by
  dsimp only [State.forwardOwn]
  split
  · exact hi
  · split
    · exact hi
    · split
      · split
        · exact hi.yardAway
        · split
          · exact hi.owe
          · exact .ite hi.owe hi.afterPerform
          · exact .ite hi.yardAway hi.setFlight.owe
          · exact .ite hi.owe hi.perform.afterPerform
      · exact hi

theorem State.Inv.answerYard (hi : s.Inv) {origin reqId : Nat} {r : FabResp} : (s.answerYard origin reqId r).Inv :=
  .ite hi.takeAnswer hi.sendTo

theorem State.Inv.forwardIn (hi : s.Inv) {origin reqId core i sub w : Nat} {store : Option (Word × Bool)}
    : (s.forwardIn origin reqId core i sub w store).Inv := by
  dsimp only [State.forwardIn]
  split
  · exact hi.owe
  · exact hi.answerYard
  · exact .ite hi.owe (.ite hi.sendTo hi.answerYard)
  · split
    · exact hi.owe
    · split
      · refine State.Inv.answerYard ?_
        exact .ite hi.markPlace hi.writePlace
      · exact hi.readPlace.answerYard

theorem State.Inv.execYardAccessForward (hi : s.Inv) {req : YardReq} : (execYardAccessForward req s).Inv := by
  dsimp only [Machine.execYardAccessForward]
  split
  · exact hi.forwardOwn
  · exact State.Inv.ite hi.takeFrom.forwardIn hi.takeFrom
  · exact hi.forwardIn

theorem State.Inv.advance (hi : s.Inv) {c : Nat} : (s.advance c).Inv := by
  dsimp only [State.advance]
  split
  · split
    · exact hi
    · refine State.Inv.owe ?_
      exact .ite hi.modYard hi.modYard.sendTo
  · exact hi

theorem State.Inv.diverge (hi : s.Inv) {c : Nat} {theirs own : BitVec 48} : (s.diverge c theirs own).Inv :=
  hi.modCore.modThread

theorem State.Inv.modMoving (hi : s.Inv) {c : Nat} {f : Moving → Moving} : (s.modMoving c f).Inv :=
  hi.modYard

theorem State.Inv.shakeHere (hi : s.Inv) {core : Nat} {y : Yard} {m : Moving} {c : Nat} : (s.shakeHere core y m c).Inv := by
  dsimp only [State.shakeHere]
  split
  · exact hi.owe
  · exact .ite hi.owe (.ite hi.modMoving.modMoving.owe hi.diverge.diverge)

theorem State.Inv.execSwapHandshake (hi : s.Inv) {core : Nat} {partner : Option (PktHdr × BitVec 48 × Nat × Nat × Nat)} :
    (execSwapHandshake core partner s).Inv := by
  unfold Machine.execSwapHandshake
  cases partner with
  | none =>
    extract_lets y pass wait
    refine .ite hi ?_
    split
    · exact hi
    · exact .ite hi (.ite hi (State.Inv.ite hi.shakeHere hi))
  | some q =>
    obtain ⟨h, gen, r, l, digest⟩ := q
    extract_lets y pass wait
    have ht : pass.2.Inv := hi.takeHeld
    refine .ite ht ?_
    split
    · exact ht.holdBack
    · exact .ite ht.holdBack (.ite ht (.ite ht (.ite ht.modMoving.owe ht.diverge)))

theorem State.Inv.readRun (hi : s.Inv) {c a n : Nat} : (s.readRun c a n).2.Inv := by
  induction n with
  | zero => exact hi
  | succ n ih => exact ih.readPlace (p := .line c (a + 8 * n) 0) (n := 8)

theorem State.Inv.writeRun (hi : s.Inv) {c a : Nat} {xs : List (Word × Bool)} : (s.writeRun c a xs).Inv := by
  induction xs generalizing s a with
  | nil => exact hi
  | cons x xs ih => exact ih (.ite hi.markPlace hi.writePlace)

theorem State.Inv.readUnitOf (hi : s.Inv) {c : Nat} {y : Yard} {sw : SwapRec} {w : Nat} : (s.readUnitOf c y sw w).2.Inv :=
  hi.readRun

theorem State.Inv.execExchangeUnitStart (hi : s.Inv) {core : Nat} : (execExchangeUnitStart core s).Inv := by
  dsimp only [Machine.execExchangeUnitStart]
  split
  · exact hi
  · split
    · exact hi
    · split
      · exact hi.owe
      · split
        · exact hi.modMoving.modMoving.owe.owe
        · exact (inv_foldl (fun _ _ ht => ht.sendTo) hi.modMoving.readUnitOf).owe

theorem State.Inv.passUnit (hi : s.Inv) {c : Nat} : (s.passUnit c).Inv := by
  dsimp only [State.passUnit]
  split
  · exact hi
  · exact .ite hi.modYard.advance hi.modMoving

theorem State.Inv.passBoth (hi : s.Inv) {c n : Nat} : (s.passBoth c n).Inv := by
  induction n generalizing s with
  | zero => exact hi
  | succ n ih =>
    unfold State.passBoth
    split
    · exact .ite (ih hi.modMoving.passUnit) hi
    · exact hi

theorem State.Inv.exchangeUnit (hi : s.Inv) {core : Nat} {y : Yard} {m : Moving} {c : Nat} : (s.exchangeUnit core y m c).Inv :=
  hi.readUnitOf.readUnitOf.writeRun.writeRun.passUnit.passUnit

theorem State.Inv.takeUnit (hi : s.Inv) {core : Nat} {y : Yard} {m : Moving} {c : Nat} {xs : List Dword}
    : (s.takeUnit core y m c xs).Inv :=
  hi.writeRun.modMoving.sendTo.passBoth

theorem State.Inv.execExchangeUnitComplete (hi : s.Inv) {core : Nat} {step : UnitStep} :
    (execExchangeUnitComplete core step s).Inv := by
  unfold Machine.execExchangeUnitComplete
  cases step with
  | own =>
    extract_lets y whole from_ pass wait
    refine .ite hi ?_
    split
    · exact hi
    · exact .ite hi (State.Inv.ite hi.exchangeUnit.freed hi)
  | data hs bytes bad =>
    extract_lets y whole from_ pass wait
    have ht : pass.2.Inv := hi.takeHeld
    refine .ite ht ?_
    split
    · exact ht.holdBack
    · exact .ite ht.holdBack (.ite ht (.ite ht.holdBack ht.takeUnit.freed))
  | ack h =>
    extract_lets y whole from_ pass wait
    have ht : pass.2.Inv := hi.takeFrom
    refine .ite ht ?_
    split
    · exact ht
    · exact .ite ht (.ite ht ht.modMoving.passBoth.freed)

theorem State.Inv.execYardEnd (hi : s.Inv) {core : Nat} : (execYardEnd core s).Inv :=
  .ite hi (.ite hi.owe hi.modYard)

theorem Act.Inv.yardAct {s : State} {f : Yard → Act} (hf : ∀ y, (f y).Inv) : (yardAct s f).Inv := by
  unfold Machine.yardAct
  extract_lets y
  split
  · trivial
  · refine .ite trivial (.ite trivial ?_)
    split
    · trivial
    · exact hf y

theorem State.Inv.readTable (hi : s.Inv) {ws tab : List Nat} {t : State} (e : readTable s ws = some (.ok tab t)) : t.Inv := by
  dsimp only [Machine.readTable] at e
  split at e
  · cases e
  · exact hi.readWords.ok (Option.some.inj e)

theorem State.Inv.execYcfg (hi : s.Inv) {a : RegNo} : (execYcfg a s).Inv := by
  refine hi.issue fun s ht => ?_
  refine .ite ht (.ite trivial ?_)
  split
  · trivial
  · exact ht
  · next e =>
    split
    · trivial
    · trivial
    · exact ht
    · next e' =>
      split
      · trivial
      · exact .ite trivial (.ite trivial ((ht.readWords.ok e).readTable e').modYard)

theorem State.Inv.execYswap (hi : s.Inv) {r l : BitVec 6} : (execYswap r l s).Inv :=
  hi.issue fun _ ht => .yardAct fun _ => .ite trivial (.ite ht.fresh.modYard ht.fresh.modYard.advance)

theorem State.Inv.execYwant (hi : s.Inv) {two : Bool} {b0 b1 : BitVec 6} : (execYwant two b0 b1 s).Inv := by
  refine hi.issue fun s ht => .yardAct fun y => ?_
  refine .ite trivial ?_
  dsimp only
  split
  · trivial
  · exact ht.fresh.modYard.advance

theorem State.Inv.execYsync (hi : s.Inv) : (execYsync s).Inv := by
  refine hi.issue fun s ht => .yardAct fun _ => ?_
  have hs : State.Inv (if s.th.wait = some .yard then s else
      ((s.fresh.2.modYard s.here fun y => y.startAll s.fresh.1).advance s.here)) :=
    .ite ht ht.fresh.modYard.advance
  exact .ite hs hs

theorem State.Inv.execYgen (hi : s.Inv) {d : RegNo} : (execYgen d s).Inv :=
  hi.issue fun _ ht => .yardAct fun _ => ht.setS

/-! ## `Machine/Axis` -/

theorem Act.Inv.axisAct {s : State} {i : Instr} {ty : YType} {f : Yard → Act} (hf : ∀ y, (f y).Inv) : (axisAct s i ty f).Inv :=
  .yardAct fun y => .ite trivial (hf y)

theorem State.Inv.axisArea (hi : s.Inv) {a : Word} {ty : YType} {al n : Nat} {f : List Nat → State → Act}
    (hf : ∀ ws t, t.Inv → (f ws t).Inv) : (axisArea s a ty al n f).Inv := by
  unfold Machine.axisArea
  refine .ite trivial ?_
  split
  · trivial
  · exact hi
  · next ws t e => exact hf ws t (hi.readUnits.ok e)

theorem State.Inv.axisQueue (hi : s.Inv) {s0 : State} (hi0 : s0.Inv) {y : Yard} {ser : Nat} {op : AxisOp}
    : (axisQueue s0 s y ser op).Inv :=
  .ite hi0 (.ite hi0 hi.upd.modYard.modCore.advance.owe)

theorem State.Inv.execAxa (hi : s.Inv) {ty : YType} {d a b : RegNo} : (execAxa ty d a b s).Inv := by
  refine hi.issue fun s ht => .axisAct fun y => ?_
  split
  · trivial
  · split
    · trivial
    · refine ht.axisArea fun mat t hm => ?_
      split
      · trivial
      · exact hm.axisQueue ht

theorem State.Inv.execAxd (hi : s.Inv) {ty : YType} {a b : RegNo} : (execAxd ty a b s).Inv := by
  refine hi.issue fun s ht => .axisAct fun y => ?_
  split
  · trivial
  · exact ht.axisArea fun tab t hm => hm.axisQueue ht

theorem State.Inv.readSource (hi : s.Inv) {va z n : Nat} : (s.readSource va z n).Inv := by
  induction n generalizing s va with
  | zero => exact hi
  | succ n ih =>
    unfold State.readSource
    split
    · trivial
    · trivial
    · trivial
    · trivial
    · next p t e =>
      have hr : (t.readPlace p z).2.2.Inv := (hi.check.of_eq e).readPlace
      refine .ite trivial (.ite trivial ?_)
      dsimp only
      split
      · next e' => exact (ih hr).ok e'
      · exact ih hr

theorem State.Inv.execAxs (hi : s.Inv) {ty : YType} {axpy : Bool} {a b : RegNo} : (execAxs ty axpy a b s).Inv := by
  refine hi.issue fun s ht => .axisAct fun y => ht.axisArea fun alpha t hm => ?_
  refine .ite (hm.axisQueue ht) (.ite trivial ?_)
  split
  · trivial
  · exact ht
  · next e => exact (hm.readSource.ok e).axisQueue ht

theorem State.Inv.getStripe (hi : s.Inv) {c : Nat} {y : Yard} {j : Nat} : (s.getStripe c y j).2.Inv :=
  hi.readPlace (p := y.stripe c j)

theorem State.Inv.putStripe (hi : s.Inv) {c : Nat} {y : Yard} {j : Nat} {x : Nat × Bool} : (s.putStripe c y j x).Inv :=
  .ite hi.markPlace hi.writePlace

theorem State.Inv.getTuple (hi : s.Inv) {c : Nat} {y : Yard} {js : List Nat} : (s.getTuple c y js).2.Inv := by
  induction js generalizing s with
  | nil => exact hi
  | cons j js ih => exact ih hi.getStripe

theorem State.Inv.putTuple (hi : s.Inv) {c : Nat} {y : Yard} {js : List Nat} {xs : List (Nat × Bool)} :
    (s.putTuple c y js xs).Inv := by
  induction js generalizing s xs with
  | nil => exact hi
  | cons j js ih =>
    cases xs with
    | nil => exact hi
    | cons x xs => exact ih hi.putStripe

theorem State.Inv.axaTuple (hi : s.Inv) {c : Nat} {y : Yard} {js mat : List Nat} : (s.axaTuple c y js mat).Inv :=
  hi.getTuple.putTuple

theorem State.Inv.axisOne (hi : s.Inv) {c : Nat} {y : Yard} {j : Nat} {f : Nat → Nat × Bool} : (s.axisOne c y j f).Inv :=
  hi.getStripe.putStripe

theorem State.Inv.axisStep (hi : s.Inv) {c : Nat} {op : AxisOp} {x : Nat} : (s.axisStep c op x).Inv := by
  dsimp only [State.axisStep]
  split
  · exact hi.axaTuple
  · exact hi.axisOne
  · exact hi.axisOne
  · exact hi.axisOne

theorem State.Inv.execAxisCommandComplete (hi : s.Inv) {core : Nat} : (execAxisCommandComplete core s).Inv := by
  dsimp only [Machine.execAxisCommandComplete]
  split
  · exact hi
  · split
    · exact hi.owe
    · split
      · exact .ite hi.modCore.freed.advance hi.owe
      · split
        · exact hi.modCore.freed.advance
        · exact .ite (.ite hi.modCore.freed.advance hi.owe) (.ite hi.owe hi.axisStep.modCore.freed.owe)

theorem State.Inv.axisNorm (hi : s.Inv) {c : Nat} {y : Yard} {n : Nat} : (s.axisNorm c y n).2.Inv := by
  induction n with
  | zero => exact hi
  | succ n ih => exact ih.getStripe (c := c) (y := y) (j := n)

theorem State.Inv.execAxn (hi : s.Inv) {ty : YType} {d : RegNo} : (execAxn ty d s).Inv :=
  hi.issue fun _ ht => .axisAct fun _ => .ite ht (.ite ht (State.Inv.ite ht.axisNorm.modYard.modTh ht.axisNorm.modYard.setS.setS))

/-! ## `Machine/Control` -/

theorem State.Inv.transfer (hi : s.Inv) {target : Word} : (transfer s target).Inv :=
  .ite trivial hi

theorem State.Inv.branch (hi : s.Inv) {i : Instr} {uses : List RegNo} {off : BitVec 12} {c : State → Bool}
    : (branch s i uses off c).Inv :=
  hi.issue fun _ ht => .ite ht.transfer ht

theorem State.Inv.execJal (hi : s.Inv) {d : RegNo} {imm : BitVec 21} : (execJal d imm s).Inv :=
  hi.issue fun _ ht => ht.setS.transfer

theorem State.Inv.execJalr (hi : s.Inv) {d a : RegNo} {imm : BitVec 16} : (execJalr d a imm s).Inv :=
  hi.issue fun _ ht => .ite trivial ht.setS.transfer

end Sys2Proof.Machine
end

section
/-! SUPPORT. The canonical form of memory through copies, the fabric and tiles. Elaborated one after another, so that few
threads wait for the kernel at a time. -/

set_option Elab.async false

namespace Sys2Proof.Machine

variable {s : State}

/-! ## `Machine/Copy` -/

theorem State.Inv.lock (hi : s.Inv) {ls : List (Nat × Lock)} : (s.lock ls).Inv :=
  (inv_foldl (fun _ _ ht => ht.modCore) hi)

theorem State.Inv.unlock (hi : s.Inv) {ser : Nat} {srcOnly : Bool} : (s.unlock ser srcOnly).Inv :=
  hi.upd.freed

theorem State.Inv.own (hi : s.Inv) {ls : List Own} : (s.own ls).Inv :=
  hi

theorem State.Inv.buffer (hi : s.Inv) {op : BufOp} : (s.buffer op).Inv :=
  .ite trivial hi.fresh.modCore.modTh

theorem State.Inv.copyIssue (hi : s.Inv) {c : CopyCmd} : ExcInv (s.copyIssue c) := by
  dsimp only [State.copyIssue]
  refine .ite trivial (.ite trivial (.ite trivial (.ite trivial ?_)))
  refine State.Inv.owe (State.Inv.modCore (State.Inv.own (State.Inv.lock ?_)))
  split
  · exact hi.fresh
  · exact hi.fresh.modThread

theorem State.Inv.copy (hi : s.Inv) {i : Instr} {p : PredNo} {ctl base scope : RegNo} {barrier : Bool} :
    (copy s i p ctl base scope barrier).Inv := by
  refine hi.issue fun s ht => ?_
  refine .ite trivial (.ite trivial (.ite trivial ?_))
  split
  · trivial
  · exact ht
  · next e =>
    have hw := ht.readWords.ok e
    split
    · trivial
    · trivial
    · split
      · trivial
      · refine .ite trivial (.ite trivial (.ite trivial (.ite trivial (.ite hw.buffer (.ite ht ?_)))))
        split
        · exact ht
        · next e => exact hw.copyIssue.ok e

theorem State.Inv.copyAt (hi : s.Inv) {core : Nat} {user : Bool} {acc : Acc} {va w : Nat}
    : (s.copyAt core user acc va w).2.Inv := by
  dsimp only [State.copyAt]
  split
  · exact hi.translate
  · exact hi.translate
  · exact hi.translate
  · split
    · exact hi.translate
    · exact hi.translate
    · exact hi.translate
    · exact hi.translate
    · exact hi.translate
    · exact hi.translate
    · split
      · exact hi.translate
      · split
        · exact hi.translate
        · split
          · exact hi.translate
          · split <;> exact hi.translate
    · exact hi.translate

theorem State.Inv.srcAt (hi : s.Inv) {c : CopyCmd} {k : Nat} : (s.srcAt c k).2.Inv := by
  unfold State.srcAt
  split
  · next e => exact hi.copyAt.of_eq e
  · exact hi.copyAt

theorem State.Inv.dstAt (hi : s.Inv) {c : CopyCmd} {k : Nat} : (s.dstAt c k).2.Inv := by
  unfold State.dstAt
  split
  · next e => exact hi.copyAt.of_eq e
  · exact hi.copyAt

theorem State.Inv.readElem (hi : s.Inv) {p : Place} {w n : Nat} : (s.readElem p w n).2.Inv := by
  induction n with
  | zero => exact hi
  | succ n ih => exact ih.readPlace (p := p.add (w * n)) (n := w)

theorem State.Inv.writeElem (hi : s.Inv) {p : Place} {w v : Nat} {bad : List Nat} {n : Nat} :
    (s.writeElem p w v bad n).Inv := by
  induction n with
  | zero => exact hi
  | succ n ih => exact .ite ih.markPlace ih.writePlace

theorem State.Inv.sendElem (hi : s.Inv) {c : CopyCmd} {core i sub : Nat} {store : Option (Word × Bool)}
    : (s.sendElem c core i sub store).Inv :=
  hi.sendTo

theorem State.Inv.readOn (hi : s.Inv) {c : CopyCmd} {go : Bool} {k n : Nat} : (s.readOn c go k n).2.Inv := by
  induction n generalizing s c go k with
  | zero => exact hi
  | succ n ih =>
    unfold State.readOn
    split
    · exact hi
    · split
      · next e =>
        have hs := hi.srcAt.of_eq e
        split
        · exact hs
        · split
          · exact hs
          · exact ih hs.readElem
      · next e => exact (hi.srcAt.of_eq e).sendElem
      · next e => exact hi.srcAt.of_eq e
      · next e => exact hi.srcAt.of_eq e

theorem State.Inv.doneWith (hi : s.Inv) {c : CopyCmd} {k : Nat} {rest : List Nat} : (s.doneWith c k rest).Inv := by
  dsimp only [State.doneWith]
  split
  · exact hi
  · exact .ite hi hi.upd.freed

theorem State.Inv.writeOn (hi : s.Inv) {c : CopyCmd} {go : Bool} {bs : List (Nat × Nat × List Nat)} :
    (s.writeOn c go bs).2.Inv := by
  induction bs generalizing s c go with
  | nil => exact hi
  | cons b bs ih =>
    unfold State.writeOn
    extract_lets c' fails
    split
    · exact hi
    · split
      · next e => exact hi.dstAt.of_eq e
      · next e => exact hi.dstAt.of_eq e
      · next e => exact (hi.dstAt.of_eq e).sendElem
      · next e =>
        have hd := hi.dstAt.of_eq e
        split
        · exact hd
        · split
          · exact hd
          · split
            · exact hd
            · exact ih hd.giveWay.writeElem.doneWith

theorem State.Inv.copyOn (hi : s.Inv) {c : CopyCmd} : (s.copyOn c).2.Inv := by
  dsimp only [State.copyOn]
  split
  · exact hi
  · split
    · exact hi.writeOn
    · exact hi.readOn

theorem State.Inv.setCopy (hi : s.Inv) {core ser : Nat} {c : Option CopyCmd} : (s.setCopy core ser c).Inv :=
  hi.modCore

theorem State.Inv.token (hi : s.Inv) {c : CopyCmd} {v : Word} {pend : Bool} : (s.token c v pend).Inv := by
  dsimp only [State.token]
  split
  · exact hi
  · exact hi.modThread

theorem State.Inv.arrive (hi : s.Inv) {c : CopyCmd} : (s.arrive c).Inv := by
  dsimp only [State.arrive]
  split
  · exact hi
  · exact hi.perform

theorem State.Inv.execCopyStart (hi : s.Inv) {core : Nat} : (execCopyStart core s).Inv := by
  dsimp only [Machine.execCopyStart]
  split
  · exact hi
  · exact .ite hi hi.setCopy.owe

theorem State.Inv.execCopySrc (hi : s.Inv) {core : Nat} : (execCopySrc core s).Inv := by
  dsimp only [Machine.execCopySrc]
  split
  · exact hi
  · split
    · exact hi
    · split
      · exact hi.owe
      · split
        · exact hi.copyOn.setCopy.owe
        · exact .ite hi.copyOn.setCopy.owe hi.copyOn.setCopy.setCopy.unlock.token.owe.owe.owe

theorem State.Inv.execCopyVis (hi : s.Inv) {core id : Nat} : (execCopyVis core id s).Inv := by
  dsimp only [Machine.execCopyVis]
  split
  · exact hi
  · split
    · exact hi.copyOn.setCopy.owe
    · exact .ite hi.copyOn.setCopy.owe hi.copyOn.setCopy.setCopy.token.arrive

theorem State.Inv.execCopyDestinationRelease (hi : s.Inv) {core id : Nat} : (execCopyDestinationRelease core id s).Inv := by
  dsimp only [Machine.execCopyDestinationRelease]
  split
  · exact hi
  · split
    · exact hi.owe
    · exact .ite hi.copyOn.setCopy.owe (.ite hi.copyOn.setCopy.owe hi.copyOn.setCopy.setCopy.unlock)

theorem State.Inv.execCopyFault (hi : s.Inv) {core id : Nat} : (execCopyFault core id s).Inv := by
  dsimp only [Machine.execCopyFault]
  split
  · exact hi
  · split
    · exact hi.copyOn
    · split
      · exact hi.copyOn.setCopy.owe
      · refine State.Inv.owe ?_
        split
        · exact hi.copyOn.setCopy.unlock.token
        · refine State.Inv.modThread ?_
          exact .ite hi.copyOn.setCopy.unlock hi.copyOn.setCopy.unlock.arrive

/-! ## `Machine/Fabric` -/

theorem State.Inv.checkLocal (hi : s.Inv) {acc : Acc} {va n : Nat} : (s.checkLocal acc va n).2.Inv := by
  induction n generalizing s va with
  | zero => exact hi
  | succ n ih =>
    unfold State.checkLocal
    split
    · next e => exact hi.check.of_eq e
    · next e => exact hi.check.of_eq e
    · next e => exact hi.check.of_eq e
    · next e => exact hi.check.of_eq e
    · next e =>
      have hc := hi.check.of_eq e
      split
      · exact hc
      · split
        · next e' => exact (ih hc).of_eq e'
        · exact ih hc

theorem State.Inv.readDwords (hi : s.Inv) {ps : List Place} : (s.readDwords ps).2.Inv := by
  induction ps generalizing s with
  | nil => exact hi
  | cons p ps ih => exact ih hi.readPlace

theorem State.Inv.writeDword (hi : s.Inv) {p : Place} {x : Dword} : (s.writeDword p x).Inv :=
  .ite hi.markPlace hi.writePlace

theorem State.Inv.writeDwords (hi : s.Inv) {ps : List Place} {xs : List Dword} : (s.writeDwords ps xs).Inv := by
  induction ps generalizing s xs with
  | nil => exact hi
  | cons p ps ih =>
    cases xs with
    | nil => exact hi
    | cons x xs => exact ih hi.writeDword

theorem State.Inv.depart (hi : s.Inv) {o : FabOp} : (s.depart o).Inv :=
  .ite hi.upd.modThread.owe (inv_foldl (fun _ _ ht => ht.sendTo) hi.upd.modThread)

theorem State.Inv.putAct (hi : s.Inv) {kind : FabKind} {locl remote : Word} {sig : Option Word} {cap : Nat}
    : (putAct s kind locl remote sig cap).Inv := by
  dsimp only [Machine.putAct]
  split
  · exact trivial
  · split
    · exact trivial
    · split
      · exact hi.act
      · next e =>
        exact .ite hi (.ite hi (hi.checkLocal.of_eq e).readDwords.fresh.depart)

theorem State.Inv.execPut (hi : s.Inv) {p : PredNo} {d a : RegNo} : (execPut p d a s).Inv :=
  hi.issue fun _ ht => ht.putAct

theorem State.Inv.execPuts (hi : s.Inv) {p : PredNo} {d a b : RegNo} : (execPuts p d a b s).Inv :=
  hi.issue fun _ ht => ht.putAct

theorem State.Inv.execGet (hi : s.Inv) {p : PredNo} {d a : RegNo} : (execGet p d a s).Inv := by
  refine hi.issue fun s ht => ?_
  extract_lets locl n va
  clear_value n
  split
  · trivial
  · refine .ite trivial ?_
    split
    · exact ht.act
    · next e =>
      have hf := (ht.checkLocal.of_eq e).fresh
      exact .ite ht (.ite ht (.ite ht hf.lock.own.depart))

theorem State.Inv.execRadd (hi : s.Inv) {p : PredNo} {d a b : RegNo} : (execRadd p d a b s).Inv := by
  dsimp only [Machine.execRadd]
  refine hi.issue fun s ht => ?_
  split
  · exact trivial
  · exact .ite ht (.ite ht ht.fresh.modTh.depart)

theorem State.Inv.addAt (hi : s.Inv) {p : Place} {x : Word} : (s.addAt p x).2.Inv := by
  dsimp only [State.addAt]
  split
  · exact hi.readPlace
  · exact hi.readPlace.writePlace

theorem State.Inv.serveDo (hi : s.Inv) {kind : FabKind} {data : List Dword} {inc opnd : Word} {ps : List (List Place)}
    : (s.serveDo kind data inc opnd ps).2.Inv := by
  dsimp only [State.serveDo]
  split
  · exact hi.writeDwords
  · exact (inv_foldl (fun _ _ ht => ht.addAt) hi.writeDwords)
  · exact hi.readDwords
  · split
    · exact hi.addAt
    · exact hi
  · exact hi
  · exact hi

theorem State.Inv.serve (hi : s.Inv) {kind : FabKind} {job : BitVec 16} {addr nw : Nat} {data : List Dword} {sig : Nat}
    {inc opnd : Word} : PairInv (s.serve kind job addr nw data sig inc opnd) := by
  unfold State.serve
  split
  · exact hi
  · trivial
  · exact .ite trivial hi.serveDo

theorem State.Inv.receive (hi : s.Inv) {peer : Nat} {what : Arrived} : (s.receive peer what).2.Inv :=
  hi.fresh

theorem State.Inv.strikeOff (hi : s.Inv) {id : Nat} : (s.strikeOff id).Inv :=
  hi

theorem State.Inv.respondTo (hi : s.Inv) {peer : Nat} {q : FabReq} {r : FabResp} : (s.respondTo peer q r).Inv := by
  dsimp only [State.respondTo]
  split
  · exact (inv_foldl (fun _ _ ht => ht.sendTo) hi)
  · exact hi.sendTo
  · exact hi.sendTo

theorem State.Inv.serveHeld (hi : s.Inv) {id : Nat} : (s.serveHeld id).Inv := by
  dsimp only [State.serveHeld]
  split
  · exact hi
  · split
    · exact hi
    · exact hi
    · split
      · exact hi.owe
      · split
        · exact hi.owe
        · next e =>
          exact (hi.serve.some e).strikeOff.respondTo

theorem State.Inv.fabArrival (hi : s.Inv) {kind : FabKind} {src : FabSrc} : (s.fabArrival kind src).Inv := by
  dsimp only [State.fabArrival]
  split
  · split
    · exact hi
    · split
      · exact hi.owe
      · split
        · exact hi.owe
        · next e =>
          exact (hi.serve.some e).upd.upd.owe
  · exact .ite hi.takeFrom hi.takeFrom.receive.serveHeld
  · exact hi.serveHeld

theorem State.Inv.refusalRecord (hi : s.Inv) {o : FabOp} {miss neg pos mcount : Nat} {naks : List (Nat × Nat)} :
    (s.refusalRecord o miss neg pos mcount naks).Inv := by
  have hm {f : Thread → Thread} : (s.modCtx o.tid f).Inv := hi.modCtx
  exact .ite (Memory.wf_storeWords _ _ _ hm) hm.putWords

theorem State.Inv.dropFab (hi : s.Inv) {o : FabOp} : (s.dropFab o).Inv := by
  dsimp only [State.dropFab]
  split
  · exact hi
  · exact hi
  · exact hi.upd.unlock.modCtx

theorem State.Inv.refuseFab (hi : s.Inv) {o : FabOp} {sub : BitVec 8} {answered : Bool} : (s.refuseFab o sub answered).Inv := by
  dsimp only [State.refuseFab]
  split
  · refine State.Inv.modCtx ?_
    refine State.Inv.dropFab ?_
    split <;> exact hi.refusalRecord
  · refine State.Inv.modCtx ?_
    refine State.Inv.dropFab ?_
    split <;> exact hi.refusalRecord
  · refine State.Inv.modCtx ?_
    refine State.Inv.dropFab ?_
    split <;> exact hi.refusalRecord
  · refine State.Inv.modCtx ?_
    refine State.Inv.dropFab ?_
    split <;> exact hi.refusalRecord
  · refine State.Inv.modCtx ?_
    refine State.Inv.dropFab ?_
    split <;> exact hi.refusalRecord

theorem State.Inv.respond (hi : s.Inv) {o : FabOp} {r : FabResp} : OptInv (s.respond o r) := by
  dsimp only [State.respond]
  split
  · split
    · exact trivial
    · exact hi.refuseFab
  · split
    · split
      · exact trivial
      · exact hi.writeDwords.dropFab
    · split
      · exact hi.dropFab.modCtx
      · exact hi.dropFab.modCtx
      · exact hi.dropFab
    · exact hi.dropFab
    · exact hi.dropFab
    · exact hi.dropFab
    · exact hi.dropFab

theorem State.Inv.answerFab (hi : s.Inv) {o : FabOp} {r : FabResp} : (s.answerFab o r).Inv := by
  dsimp only [State.answerFab]
  split
  · next e =>
    exact hi.respond.some e
  · exact hi.upd.owe

theorem State.Inv.execFabricResponse (hi : s.Inv) {id : Nat} {r : FabAnswer} : (execFabricResponse id r s).Inv := by
  unfold Machine.execFabricResponse
  extract_lets op
  split
  · exact hi.answerFab
  · refine .ite hi ?_
    cases op with
    | none => exact hi.takeFrom
    | some o => exact State.Inv.ite hi.takeFrom.answerFab hi.takeFrom

theorem State.Inv.writeMember (hi : s.Inv) {e : Word × Word} {data : List (Nat × Byte)} : (s.writeMember e data).Inv :=
  hi.writeTogether

theorem State.Inv.replicate (hi : s.Inv) {q : McastReq} : PairInv (s.replicate q) := by
  dsimp only [State.replicate]
  split
  · exact hi
  · split
    · exact trivial
    · exact hi.writeMember

theorem State.Inv.collect (hi : s.Inv) {q : McastReq} : PairInv (s.collect q) := by
  dsimp only [State.collect]
  split
  · exact hi
  · split
    · exact trivial
    · split
      · exact hi.readPlace
      · exact hi

theorem State.Inv.member (hi : s.Inv) {load : Bool} {src : McastSrc} {q : McastReq} : (s.member load src q).Inv := by
  have served {t : State} (ht : t.Inv) {src : McastSrc} :
      PairInv (if !load && t.replicaWaits src q then none else if load then t.collect q else t.replicate q) :=
    .ite trivial (.ite ht.collect ht.replicate)
  unfold State.member
  extract_lets what act held
  have acts {t : State} (ht : t.Inv) (src : McastSrc) {done : State → FabResp → State} (hd : ∀ u r, u.Inv → (done u r).Inv) :
      (act t src done).Inv := by
    dsimp only [act]
    split
    · exact ht.owe
    · next e => exact (hd _ _ ((served ht).some e)).sendTree
  have helds {t : State} (ht : t.Inv) (id : Nat) : (held t id).Inv := .ite (acts ht _ fun _ _ hu => hu.strikeOff) ht
  split
  · exact .ite (acts hi _ fun _ _ hu => hu) hi
  · exact .ite hi.takeHdr (helds hi.takeHdr.receive _)
  · exact helds hi _

theorem State.Inv.endMcast (hi : s.Inv) {o : FabOp} {sub : Option (BitVec 8)} {poison : Bool} {v : Nat}
    : (s.endMcast o sub poison v).Inv := by
  dsimp only [State.endMcast]
  split
  · exact hi
  · exact hi.upd.endFlight

theorem State.Inv.execMulticastAck (hi : s.Inv) {id : Nat} {n : AckCounts} {naks : List (Nat × BitVec 8)} {hdr : PktHdr}
    : (execMulticastAck id n naks hdr s).Inv := by
  dsimp only [Machine.execMulticastAck]
  split
  · exact hi.takeOne
  · split
    · exact hi.takeOne
    · exact .ite hi.takeOne.holdBack (.ite hi.takeOne.endMcast hi.takeOne.refusalRecord.endMcast)

theorem State.Inv.execMulticastLoadResult (hi : s.Inv) {id : Nat} {r : McastFold} {hdr : PktHdr}
    : (execMulticastLoadResult id r hdr s).Inv := by
  dsimp only [Machine.execMulticastLoadResult]
  split
  · exact hi.takeOne
  · split
    · exact hi.takeOne
    · split
      · exact hi.takeOne.endMcast
      · exact hi.takeOne
      · exact .ite hi.takeOne hi.takeOne.endMcast

theorem State.Inv.timeOut (hi : s.Inv) {id : Nat} : (s.timeOut id).Inv := by
  dsimp only [State.timeOut]
  split
  · exact hi.settleFlight
  · split
    · exact hi
    · exact hi.answerCopy

theorem State.Inv.execFabricTimeout (hi : s.Inv) {id : Nat} : (execFabricTimeout id s).Inv := by
  dsimp only [Machine.execFabricTimeout]
  split
  · exact hi.timeOut
  · split
    · exact State.Inv.ite hi hi.refusalRecord.endMcast
    · exact hi.endMcast
    · exact State.Inv.ite hi hi.refuseFab
    · exact State.Inv.ite hi hi.refuseFab
    · exact State.Inv.ite hi hi.refuseFab
    · exact State.Inv.ite hi hi.refuseFab

theorem State.Inv.exchangeCaps (hi : s.Inv) : (s.exchangeCaps).Inv :=
  (inv_foldl (fun _ _ ht => ht.sendTo) hi)

theorem State.Inv.execCapabilityExchange (hi : s.Inv) {peer : Nat} {rev cap : BitVec 8} {hdr : PktHdr}
    : (execCapabilityExchange peer rev cap hdr s).Inv := by
  dsimp only [Machine.execCapabilityExchange]
  split
  · exact hi.takeOne
  · split
    · exact hi.takeOne.holdBack
    · split <;> exact hi.takeOne

/-! ## `Machine/Tile` -/

theorem State.Inv.mvsBase (hi : s.Inv) {v : Word} : (s.mvsBase v).2.Inv := by
  dsimp only [State.mvsBase]
  split
  · exact hi
  · split
    · exact hi.lookup
    · exact hi.lookup
    · exact hi.lookup
    · exact hi.lookup
    · split
      · exact hi.lookup
      · split
        · exact hi.lookup
        · split
          · exact hi.lookup
          · split <;> exact hi.lookup

theorem State.Inv.tileCheck (hi : s.Inv) {c : TileCmd} {ra rb : Word} : (s.tileCheck c ra rb).2.Inv := by
  unfold State.tileCheck
  extract_lets plain
  have hp (b : Bad) : (plain b).2.Inv := by
    cases b with
    | none => exact hi
    | some x => exact hi
  clear_value plain
  split
  · exact hp _
  · exact hp _
  · exact hp _
  · exact hp _
  · exact hp _
  · next pb _ =>
    have hb := hi.mvsBase (v := c.opb)
    generalize s.mvsBase c.opb = r at hb
    generalize s.mvsArea pb c.opa c.opb = x
    cases x with
    | some x => exact hi
    | none =>
      obtain ⟨_ | _, t⟩ := r
      · exact hb
      · exact hb

theorem State.Inv.flushB (hi : s.Inv) {c : TileCmd} : (s.flushB c).Inv := by
  dsimp only [State.flushB]
  split
  · exact hi.cleanRange
  · exact hi
  · exact hi
  · exact hi
  · exact hi
  · exact hi

theorem State.Inv.tileIssue (hi : s.Inv) {c : TileCmd} {record : Option Nat} : ExcInv (s.tileIssue c record) := by
  dsimp only [State.tileIssue]
  split
  · exact trivial
  · split
    · exact trivial
    · split
      · exact trivial
      · exact hi.fresh.flushB.lock.modCore.modThread.owe

theorem State.Inv.tileAct (hi : s.Inv) {c : TileCmd} {ra rb : Word} {record : Option Nat} : (tileAct s c ra rb record).Inv := by
  dsimp only [Machine.tileAct]
  split
  · exact hi.act
  · next e =>
    split
    · exact (hi.tileCheck.of_eq e).buffer
    · split
      · exact hi
      · split
        · exact hi
        · next e' =>
          exact ((hi.tileCheck.of_eq e).tileIssue.ok e').modTh

theorem State.Inv.matrixAct (hi : s.Inv) {a : Word} {f : State → Word → Word → Act}
    (hf : ∀ t x y, t.Inv → (f t x y).Inv) : (matrixAct s a f).Inv := by
  unfold Machine.matrixAct
  split
  · trivial
  · exact hi
  · next e =>
    refine .ite trivial ?_
    split
    · trivial
    · exact hf _ _ _ (hi.readShape.ok e)

theorem State.Inv.execMma (hi : s.Inv) {p : PredNo} {fmt : MmaFmt} {pb : BitVec 4} {a b : RegNo} :
    (execMma p fmt pb a b s).Inv :=
  hi.issue fun _ ht => .ite trivial (ht.matrixAct fun _ _ _ h1 => h1.matrixAct fun _ _ _ h2 => h2.tileAct)

theorem State.Inv.execMsacc (hi : s.Inv) {p : PredNo} {z : BitVec 3} {pb : BitVec 4} {b : RegNo} : (execMsacc p z pb b s).Inv :=
  hi.issue fun _ ht => ht.tileAct

theorem State.Inv.execMsaccV (hi : s.Inv) {p : PredNo} {z : BitVec 3} {pb : BitVec 4} {b : RegNo}
    : (execMsaccV p z pb b s).Inv :=
  hi.issue fun _ ht => ht.tileAct

theorem State.Inv.execMzero (hi : s.Inv) {p : PredNo} {z : BitVec 3} : (execMzero p z s).Inv :=
  hi.issue fun _ ht => ht.tileAct

theorem State.Inv.execMldz (hi : s.Inv) {p : PredNo} {z : BitVec 3} {a : RegNo} : (execMldz p z a s).Inv :=
  hi.issue fun _ ht => ht.tileAct

theorem State.Inv.execMstz (hi : s.Inv) {p : PredNo} {bf : Bool} {rm : Rm} {z : BitVec 3} {a : RegNo}
    : (execMstz p bf rm z a s).Inv := by
  dsimp only [Machine.execMstz]
  refine hi.issue fun s ht => ?_
  split
  · exact trivial
  · exact ht.tileAct

theorem State.Inv.execMvs (hi : s.Inv) {p : PredNo} {fmt : MxFmt} {pb : BitVec 4} {a b : RegNo} : (execMvs p fmt pb a b s).Inv :=
  hi.issue fun _ ht => ht.tileAct

theorem State.Inv.execMcommit (hi : s.Inv) {p : PredNo} : (execMcommit p s).Inv :=
  hi.issue fun _ ht => .ite ht.buffer (.ite ht (.ite ht ht.modTh))

theorem State.Inv.execMwait (hi : s.Inv) {p : PredNo} {n : BitVec 5} : (execMwait p n s).Inv := by
  dsimp only [Machine.execMwait]
  refine hi.issue fun s ht => ?_
  split <;> exact ht

theorem State.Inv.execMresume (hi : s.Inv) {p : PredNo} {a : RegNo} : (execMresume p a s).Inv := by
  dsimp only [Machine.execMresume]
  refine hi.issue fun s ht => ?_
  split
  · exact trivial
  · split
    · exact trivial
    · split
      · exact trivial
      · exact ht
      · next e =>
        split
        · exact trivial
        · split
          · split
            · exact trivial
            · exact (ht.readWords.ok e).tileAct
          · exact (ht.readWords.ok e).tileAct

theorem State.Inv.putSlot (hi : s.Inv) {core pb : Nat} {f : Nat → Nat} : (s.putSlot core pb f).Inv := by
  unfold State.Inv State.putSlot
  exact Memory.wf_storeWords _ _ _ hi

theorem State.Inv.putTile (hi : s.Inv) {core z : Nat} {f : Nat → Nat × Nat} : (s.putTile core z f).Inv := by
  unfold State.Inv State.putTile
  exact Memory.wf_storeWords _ _ _ hi

theorem State.Inv.mmaBlock (hi : s.Inv) {core : Nat} {c : TileCmd} {f : MmaFmt} {pb k : Nat} :
    (s.mmaBlock core c f pb k).2.Inv := by
  dsimp only [State.mmaBlock]
  exact hi.putSlot

theorem State.Inv.msaccBlock (hi : s.Inv) {core : Nat} {c : TileCmd} {vec : Bool} {z pb k : Nat}
    : (s.msaccBlock core c vec z pb k).2.Inv :=
  hi.putTile

theorem State.Inv.mstzAll (hi : s.Inv) {core a : Nat} {bf : Bool} {rm : Rm} {z : Nat} : (s.mstzAll core a bf rm z).2.Inv := by
  unfold State.mstzAll
  refine List.foldlRecOn (motive := fun x : Flags × State => x.2.Inv) _ _ hi fun fs ht m _ => ?_
  exact .ite (State.Inv.markPlace ht) (State.Inv.writePlace ht)

theorem State.Inv.mvsAll (hi : s.Inv) {core : Nat} {c : TileCmd} {f : MxFmt} {pb : Nat} : (s.mvsAll core c f pb).2.Inv := by
  unfold State.mvsAll
  extract_lets nb e tag a r scale
  clear_value nb e r scale
  refine List.foldlRecOn (motive := fun x : Flags × State => x.2.Inv) _ _ hi fun fs ht k _ => ?_
  dsimp only
  exact inv_foldl (fun _ _ hw => hw.writePlace) (State.Inv.putSlot ht)

theorem State.Inv.doBlock (hi : s.Inv) {core : Nat} {c : TileCmd} {k : Nat} : (s.doBlock core c k).2.Inv := by
  dsimp only [State.doBlock]
  split
  · exact hi.mmaBlock
  · exact hi.msaccBlock
  · exact hi.putTile
  · exact hi.putTile
  · exact hi.mstzAll
  · exact hi.mvsAll

theorem State.Inv.doBlocks (hi : s.Inv) {core : Nat} {c : TileCmd} {k n : Nat} : (s.doBlocks core c k n).2.Inv := by
  induction n generalizing s k with
  | zero => exact hi
  | succ n ih => exact ih hi.doBlock

theorem State.Inv.setTile (hi : s.Inv) {core ser : Nat} {c : Option TileCmd} : (s.setTile core ser c).Inv :=
  hi.modCore

theorem State.Inv.settleMode (hi : s.Inv) {core : Nat} : (s.settleMode core).Inv :=
  .ite hi hi.modCore

theorem State.Inv.markTile (hi : s.Inv) {core : Nat} {c : TileCmd} {next : Nat} {preempt : Bool}
    : (s.markTile core c next preempt).Inv :=
  hi.setTile.owe

theorem State.Inv.haltTiles (hi : s.Inv) {core : Nat} {hit : TileCmd → Bool} {preempt : Bool}
    : (s.haltTiles core hit preempt).Inv := by
  dsimp only [State.haltTiles]
  refine inv_foldl (fun _ _ ht => ?_) hi
  split
  · exact ht
  · exact ht.markTile

theorem State.Inv.execTileCommandStart (hi : s.Inv) {core entry : Nat} : (execTileCommandStart core entry s).Inv := by
  dsimp only [Machine.execTileCommandStart]
  split
  · exact hi
  · exact .ite hi (.ite hi.owe hi.settleMode.setTile.owe)

theorem State.Inv.execTileSourceRelease (hi : s.Inv) {core entry : Nat} : (execTileSourceRelease core entry s).Inv := by
  dsimp only [Machine.execTileSourceRelease]
  split
  · exact hi
  · split
    · exact hi
    · split
      · exact hi.owe
      · split
        · exact hi.flushB.markTile.haltTiles
        · exact hi.flushB.doBlocks.setTile.unlock.freed.owe

theorem State.Inv.execTileCommandComplete (hi : s.Inv) {core entry : Nat} : (execTileCommandComplete core entry s).Inv := by
  dsimp only [Machine.execTileCommandComplete]
  split
  · exact hi
  · exact .ite hi hi.setTile.unlock.settleMode.modThread

theorem State.Inv.recordGone (hi : s.Inv) {core tid a : Nat} : (s.recordGone core tid a).Inv :=
  (inv_foldl (fun _ _ ht => ht.modThread) hi)

theorem State.Inv.stopTile (hi : s.Inv) {core : Nat} {c : TileCmd} {next : Nat} {preempt : Bool}
    : (s.stopTile core c next preempt).Inv :=
  (inv_foldl (fun _ _ ht => ht.writePlace) hi.doBlocks.putWords.recordGone).setTile.unlock.settleMode.freed.modThread

theorem State.Inv.execTileCommandStop (hi : s.Inv) {core entry done : Nat} : (execTileCommandStop core entry done s).Inv := by
  dsimp only [Machine.execTileCommandStop]
  split
  · exact hi
  · split
    · exact hi
    · split
      · exact hi
      · exact .ite hi.owe (.ite hi.setTile.owe (State.Inv.ite hi.stopTile hi.stopTile.haltTiles))

theorem State.Inv.execTileFault (hi : s.Inv) : (execTileFault s).Inv := by
  dsimp only [Machine.execTileFault]
  split
  · exact hi
  · exact .ite hi hi.discard.modTh.trap

theorem State.Inv.released1 (hi : s.Inv) {tid id : Nat} : (s.released1 tid id).Inv :=
  .ite hi.modCore.modThread hi.modCore.modThread.owe

theorem State.Inv.execCommitBufferRelease (hi : s.Inv) {tid : Nat} : (execCommitBufferRelease tid s).Inv := by
  dsimp only [Machine.execCommitBufferRelease]
  split
  · split
    · exact hi.released1
    · split
      · exact .ite hi.owe hi.modThread.released1
      · split
        · exact hi.owe
        · next e =>
          exact (hi.tileIssue.ok e).released1
      · refine .ite ?_ ?_
        · exact hi.modThread.released1
        · split
          · exact hi.owe
          · next e =>
            exact (hi.copyIssue.ok e).released1
  · exact hi

end Sys2Proof.Machine
end

section
/-! SUPPORT. The canonical form of memory through the module, its host and its commands. Elaborated one after another, so that few
threads wait for the kernel at a time. -/

set_option Elab.async false

namespace Sys2Proof.Machine

variable {s : State}

/-! ## `Machine/System` -/

theorem State.Inv.srWrite (hi : s.Inv) {n : Nat} {v : Word} : (s.srWrite n v).Inv :=
  .ite hi.modCore (.ite hi.modCore hi.modTh)

theorem State.Inv.illegal (hi : s.Inv) {bits : Word} : (illegal s bits).Inv :=
  Act.Inv.finish hi (.ite trivial trivial)

theorem State.Inv.execSrd (hi : s.Inv) {p : PredNo} {d : RegNo} {num : BitVec 10} : (execSrd p d num s).Inv :=
  .ite (hi.issue fun _ ht => ht.modTh.setS) hi.illegal

theorem State.Inv.execSwr (hi : s.Inv) {p : PredNo} {a : RegNo} {num : BitVec 10} : (execSwr p a num s).Inv :=
  .ite (hi.issue fun _ ht => ht.srWrite) hi.illegal

theorem State.Inv.endJoins (hi : s.Inv) {tid : Nat} : (s.endJoins tid).Inv := by
  dsimp only [State.endJoins]
  refine inv_foldl (fun _ _ ht => ?_) hi
  split
  · refine State.Inv.keepGroup ?_
    exact .ite ht.send ht
  · exact ht

theorem State.Inv.emptyQueues (hi : s.Inv) {tid : Nat} : (s.emptyQueues tid).Inv :=
  (inv_foldl (fun _ _ ht => ht.reply) hi).modCore

theorem State.Inv.endContext (hi : s.Inv) {tid : Nat} : (s.endContext tid).Inv := by
  dsimp only [State.endContext]
  split
  · exact (inv_foldl (fun _ _ ht => ht.leave) hi).endJoins.emptyQueues.unwait.modThread
  · exact (inv_foldl (fun _ _ ht => ht.leave) hi).endJoins.emptyQueues.unwait.modThread.oweOnce

theorem State.Inv.execExit (hi : s.Inv) {p : PredNo} : (execExit p s).Inv :=
  hi.issue fun _ ht => .ite ht.endContext (.ite ht ht.owe)

theorem State.Inv.execContextEnd (hi : s.Inv) {tid : Nat} : (execContextEnd tid s).Inv :=
  .ite hi (.ite hi.endContext hi.owe)

theorem State.Inv.execTrap (hi : s.Inv) {p : PredNo} : (execTrap p s).Inv :=
  hi.issue fun _ _ => trivial

theorem State.Inv.execTret (hi : s.Inv) {p : PredNo} : (execTret p s).Inv :=
  hi.issue fun _ ht => ht.modTh

theorem State.Inv.execInterruptTake (hi : s.Inv) : (execInterruptTake s).Inv := by
  dsimp only [Machine.execInterruptTake]
  split
  · exact hi
  · exact hi.modTh.interrupt

theorem State.Inv.execTimerTick (hi : s.Inv) {paddock : Nat} : (execTimerTick paddock s).Inv := by
  dsimp only [Machine.execTimerTick]
  split
  · exact hi
  · exact .ite hi (inv_foldl (fun _ _ ht => ht.raiseIrq) hi)

theorem State.Inv.saveAt (hi : s.Inv) {off : Nat} {ws : List (Nat × Bool)} : (s.saveAt off ws).Inv := by
  induction ws generalizing s off with
  | nil => exact hi
  | cons w ws ih =>
    unfold State.saveAt
    refine ih (.ite ?_ hi.writePlace)
    exact Memory.wf_poisonWord _ hi.putPlace

theorem State.Inv.execCtxs (hi : s.Inv) {p : PredNo} {a : RegNo} : (execCtxs p a s).Inv := by
  refine hi.issue fun s ht => ?_
  extract_lets at_
  generalize inPrivate at_ areaSize = inside
  exact .ite trivial (.ite trivial (.ite ht (.ite ht ht.saveAt)))

theorem State.Inv.plainWords (hi : s.Inv) {at_ k n : Nat} : (s.plainWords at_ k n).2.Inv := by
  induction n generalizing s k with
  | zero => exact hi
  | succ n ih =>
    have hw : (if (s.areaWord at_ k).2 then s.freeWord else (BitVec.ofNat 64 (s.areaWord at_ k).1, s)).2.Inv := by
      split
      · exact hi.freeWord
      · exact hi
    exact ih hw

theorem State.Inv.restoreArea (hi : s.Inv) {at_ : Nat} : (s.restoreArea at_).Inv := by
  have hp : (s.plainWords at_ 288 32).2.Inv := hi.plainWords
  unfold State.restoreArea
  generalize s.plainWords at_ 288 32 = r at hp
  exact hp.modTh

theorem State.Inv.execCtxr (hi : s.Inv) {p : PredNo} {halt : Bool} {a : RegNo} : (execCtxr p halt a s).Inv := by
  refine hi.issue fun s ht => ?_
  extract_lets at_
  generalize inPrivate at_ areaSize = inside
  exact .ite trivial (.ite trivial (.ite ht (.ite ht.restoreArea.modTh ht.restoreArea)))

theorem State.Inv.answered (hi : s.Inv) {who : Nat} {va : Word} : (s.answered who va).Inv :=
  (inv_foldl (fun _ _ ht => ht.retireOther) hi.upd)

theorem State.Inv.invalidate (hi : s.Inv) {core : Nat} {va : Word} {src : InvSrc} {peer : Option Nat}
    : (s.invalidate core va src peer).Inv := by
  dsimp only [State.invalidate]
  split
  · exact hi.owe
  · split
    · exact hi.dropTlb.answered
    · exact hi.dropTlb.sendTo

theorem State.Inv.execTlbInvalidation (hi : s.Inv) {core : Nat} {m : InvMsg} : (execTlbInvalidation core m s).Inv := by
  dsimp only [Machine.execTlbInvalidation]
  split
  · exact State.Inv.ite hi.invalidate hi
  · exact hi.invalidate
  · split
    · exact hi.takeFrom
    · exact .ite hi.takeFrom.invalidate (State.Inv.ite hi.takeFrom.answered hi.takeFrom)

theorem State.Inv.sendInvalidation (hi : s.Inv) {va : Word} {core : Nat} : (s.sendInvalidation va core).Inv :=
  .ite hi.owe hi.sendTo

theorem State.Inv.execTinv (hi : s.Inv) {p : PredNo} {a b : RegNo} : (execTinv p a b s).Inv := by
  dsimp only [Machine.execTinv]
  refine hi.issue fun s ht => ?_
  split
  · exact ht
  · split
    · exact trivial
    · exact .ite ht (.ite ht (inv_foldl (fun _ _ ht => ht.sendInvalidation) ht.fresh.upd))

theorem State.Inv.execSpill (hi : s.Inv) {core : Nat} : (execSpill core s).Inv :=
  .ite hi (.ite hi.owe (inv_foldl (fun _ _ ht => ht.modThread) hi).modCore)

/-! ## `Machine/Launch` -/

theorem State.Inv.setAccept (hi : s.Inv) {slot v : Nat} : (s.setAccept slot v).Inv :=
  hi.upd.send

theorem State.Inv.readRecord (hi : s.Inv) {slot : Nat} : (s.readRecord slot).Inv :=
  .ite hi (.ite hi.setAccept (inv_foldl (fun _ _ ht => ht.owe) hi.upd))

theorem State.Inv.doorbell (hi : s.Inv) {slot : Nat} : (s.doorbell slot).Inv :=
  .ite hi hi.upd.readRecord

theorem State.Inv.countWord (hi : s.Inv) {core va : Nat} : (s.countWord core va).2.Inv := by
  dsimp only [State.countWord]
  split
  · next e =>
    split
    · exact hi.translate.of_eq e
    · split
      · exact hi.translate.of_eq e
      · exact (hi.translate.of_eq e).readPlace
  · next e =>
    exact hi.translate.of_eq e
  · next e =>
    exact hi.translate.of_eq e
  · next e =>
    exact hi.translate.of_eq e

theorem State.Inv.startOne (hi : s.Inv) {core : Nat} : (s.startOne core).Inv := by
  dsimp only [State.startOne]
  split
  · exact hi
  · split
    · exact hi
    · exact hi.modCore.modThread

theorem State.Inv.startAll (hi : s.Inv) {core n : Nat} : (s.startAll core n).Inv := by
  induction n generalizing s with
  | zero => exact hi
  | succ n ih => exact ih hi.startOne

theorem State.Inv.setSpread (hi : s.Inv) {slot : Nat} {f : Spread → Spread} : (s.setSpread slot f).Inv :=
  hi

theorem State.Inv.report (hi : s.Inv) {p : Posted} {started cfault : Nat} : (s.report p started cfault).Inv := by
  dsimp only [State.report]
  split
  · exact hi
  · exact .ite hi.setSpread.oweOnce hi.setSpread

theorem State.Inv.readCount (hi : s.Inv) {p : Posted} : (s.readCount p).Inv := by
  unfold State.readCount
  split
  · next e => exact hi.countWord.of_eq e
  · next e => exact (hi.countWord.of_eq e).upd.report
  · next e => exact (hi.countWord.of_eq e).upd

theorem State.Inv.serveOne (hi : s.Inv) {core : Nat} : (s.serveOne core).Inv := by
  dsimp only [State.serveOne]
  split
  · exact hi
  · split
    · exact hi
    · exact .ite hi hi.upd.modCore.startAll.report

theorem State.Inv.serveSome (hi : s.Inv) {core n : Nat} : (s.serveSome core n).Inv := by
  induction n generalizing s with
  | zero => exact hi
  | succ n ih => exact ih hi.serveOne

theorem State.Inv.serveRecords (hi : s.Inv) {core : Nat} : (s.serveRecords core).Inv := by
  dsimp only [State.serveRecords]
  refine .ite ?_ ?_
  · refine State.Inv.oweOnce ?_
    exact .ite hi (inv_foldl (fun _ _ ht => ht.readCount) hi).serveSome
  · exact .ite hi (inv_foldl (fun _ _ ht => ht.readCount) hi).serveSome

theorem State.Inv.execActiveMessageArrival (hi : s.Inv) {src : MsgSrc} {core : Nat}
    : (execActiveMessageArrival src core s).Inv :=
  .ite hi hi.upd.serveRecords

theorem State.Inv.execAcceptWordWrite (hi : s.Inv) {slot : Nat} : (execAcceptWordWrite slot s).Inv := by
  dsimp only [Machine.execAcceptWordWrite]
  split
  · exact hi
  · exact hi.upd.setAccept

/-! ## `Machine/Host` -/

theorem State.Inv.bar0Write (hi : s.Inv) {off n : Nat} {v : Word} : (s.bar0Write off n v).Inv := by
  dsimp only [State.bar0Write]
  split
  · exact hi
  · split
    · exact hi
    · split
      · exact hi
      · split
        · exact hi
        · split
          · split <;> exact hi
          · exact .ite (.ite hi hi.upd.owe) hi

theorem State.Inv.bar2Byte (hi : s.Inv) {off : Nat} {b : Byte} : (s.bar2Byte off b).Inv := by
  dsimp only [State.bar2Byte]
  split <;> exact hi

theorem State.Inv.bar2Write (hi : s.Inv) {off n : Nat} {v : Word} : (s.bar2Write off n v).Inv :=
  (inv_foldl (fun _ _ ht => ht.doorbell) (inv_foldl (fun _ _ ht => ht.bar2Byte) hi))

theorem State.Inv.execRegisterWrite (hi : s.Inv) {r : RegWrite} : (execRegisterWrite r s).Inv := by
  dsimp only [Machine.execRegisterWrite]
  split
  · exact hi.bar0Write
  · exact hi.bar2Write

theorem State.Inv.purge (hi : s.Inv) {base : Nat} : (s.purge base).Inv :=
  (inv_foldl (fun _ _ ht => ht.dropLine) hi)

theorem State.Inv.notifyHbm (hi : s.Inv) {pa : Nat} : (s.notifyHbm pa).Inv :=
  (inv_foldl (fun _ _ ht => ht.notify) hi)

theorem State.Inv.hostWord (hi : s.Inv) {pa n v : Nat} : (s.hostWord pa n v).Inv := by
  refine State.Inv.notifyHbm ?_
  exact Memory.wf_store _ _ _ hi.purge.hbmTo

theorem State.Inv.hostWrite (hi : s.Inv) {pa : Nat} {bs : List Byte} {k : Nat} : (s.hostWrite pa bs k).Inv := by
  induction k generalizing s pa bs with
  | zero => exact hi
  | succ k ih => exact .ite hi (ih (.ite hi.hostWord hi))

theorem State.Inv.hostRead (hi : s.Inv) {pa n : Nat} : (s.hostRead pa n).2.Inv := by
  induction n generalizing s pa with
  | zero => exact hi
  | succ n ih => exact ih (.ite hi.purge hi)

theorem State.Inv.sendWindow (hi : s.Inv) {pa : Nat} {bs : List Byte} : (s.sendWindow pa bs).Inv :=
  hi.send

theorem State.Inv.hostAtomic (hi : s.Inv) {pa w : Nat} {op : BusAmo} : (s.hostAtomic pa w op).Inv :=
  .ite hi.hostRead.sendWindow hi.hostRead.sendWindow.hostWrite

theorem State.Inv.execBar4WindowAccess (hi : s.Inv) {a : WinAccess} : (execBar4WindowAccess a s).Inv := by
  dsimp only [Machine.execBar4WindowAccess]
  split
  · exact hi
  · split
    · exact .ite hi hi.hostRead.sendWindow
    · exact .ite hi hi.hostWrite
    · exact .ite hi hi.hostAtomic

theorem State.Inv.execIslandSensorRefresh (hi : s.Inv) {island : Nat} {temp curr volt : BitVec 16} {below1ms : Bool} :
    (execIslandSensorRefresh island temp curr volt below1ms s).Inv := by
  unfold Machine.execIslandSensorRefresh
  refine .ite hi ?_
  extract_lets was hot high cool now v s' mode
  have hm : (mode s').Inv := inv_foldl (fun _ _ ht => ht.settleMode) hi
  clear_value mode
  exact .ite hm.logEvent (.ite hm.logEvent hi)

theorem State.Inv.execLogFlashCopy (hi : s.Inv) : (execLogFlashCopy s).Inv := by
  dsimp only [Machine.execLogFlashCopy]
  split <;> exact hi

theorem State.Inv.execExportEntryWrite (hi : s.Inv) {paddock entry : Nat} {w0 w1 : BitVec 64}
    : (execExportEntryWrite paddock entry w0 w1 s).Inv := by
  dsimp only [Machine.execExportEntryWrite]
  split
  · exact hi
  · split <;> exact hi

theorem State.Inv.execModuleReset (hi : s.Inv) {trained : Bool} : (execModuleReset trained s).Inv := by
  obtain ⟨hc, hp⟩ := (Memory.wf_iff _).mp hi
  have hm (p : Host.Cell → Bool) (q : Nat → Bool) : Memory.wf ⟨s.mem.cells.filter p, s.mem.poison.filter q⟩ = true :=
    (Memory.wf_iff _).mpr ⟨cellsFrom_filter p hc, risingFrom_filter q hp⟩
  exact .ite (hm _ _) (hm _ _)

/-! ## `Machine/Hayloft` -/

theorem State.Inv.refuseCmd (hi : s.Inv) {code res : Nat} : (s.refuseCmd code res).Inv :=
  hi.upd.logEvent

theorem State.Inv.serveCommand (hi : s.Inv) {code : Nat} {used : List (Nat × Nat)} {act : State → CmdRes}
    (ha : ∀ t : State, t.Inv → (act t).Inv) : (Machine.serve s code used act).Inv := by
  unfold Machine.serve
  refine .ite hi (.ite hi.refuseCmd (.ite hi.refuseCmd ?_))
  have hr := ha s hi
  generalize act s = r at hr
  cases r with
  | done t => exact hr
  | refuse code => exact hi.refuseCmd
  | refuseIn t code => exact State.Inv.refuseCmd (s := t) hr
  | again t => exact State.Inv.owe (s := t) hr

theorem State.Inv.noCommand (hi : s.Inv) : (s.noCommand).Inv :=
  .ite hi.refuseCmd hi

theorem State.Inv.modSeq (hi : s.Inv) {q : Nat} {f : Sequencer → Sequencer} : (s.modSeq q f).Inv :=
  hi

theorem State.Inv.execPaddockSet (hi : s.Inv) : (execPaddockSet s).Inv := by
  dsimp only [Machine.execPaddockSet]
  refine hi.serveCommand fun s ht => ?_
  split
  · exact trivial
  · split
    · exact trivial
    · exact (inv_foldl (fun _ _ ht => ht.modSeq) (inv_foldl (fun _ _ ht => ht.dropTlb.modCore) ht.upd))

theorem State.Inv.execPaddockClear (hi : s.Inv) : (execPaddockClear s).Inv := by
  refine hi.serveCommand fun s ht => ?_
  split
  · trivial
  · refine .ite trivial ?_
    refine inv_foldl (fun _ _ h => h.setAccept) ?_
    refine inv_foldl (fun _ _ h => h.modSeq) ?_
    refine inv_foldl (fun t c h => ?_) ht
    exact inv_foldl (fun _ _ h => h.modThread) h.dropTlb.modCore

theorem State.Inv.execPreempt (hi : s.Inv) : (execPreempt s).Inv := by
  dsimp only [Machine.execPreempt]
  refine hi.serveCommand fun s ht => ?_
  split
  · exact trivial
  · refine inv_foldl (fun _ _ ht => ?_) ht
    split
    · exact (inv_foldl (fun _ _ ht => ht.raiseIrq) ht)
    · exact (inv_foldl (fun _ _ ht => ht.raiseIrq) ht).modCore.haltTiles.owe

theorem State.Inv.swapMem (hi : s.Inv) {c : Nat} : (s.swapMem c).Inv :=
  Memory.wf_exchange _ _ _ (Memory.wf_exchange _ _ _ hi)

theorem State.Inv.swapOut (hi : s.Inv) {c : Nat} : (s.swapOut c).Inv :=
  (inv_foldl (fun _ _ ht => ht.modThread) hi.swapMem.upd.modCore)

theorem State.Inv.swapIn (hi : s.Inv) {c : Nat} : (s.swapIn c).Inv :=
  (inv_foldl (fun _ _ ht => ht.oweOnce) (inv_foldl (fun _ _ ht => ht.owe) (inv_foldl (fun _ _ ht => ht.modThread) hi.swapMem.modCore).upd.upd))

theorem State.Inv.suspend (hi : s.Inv) {p : Paddock} {stop : Bool} : (s.suspend p stop).Inv :=
  (inv_foldl (fun _ _ ht => .ite ht.modSeq ht.modSeq.owe) hi)

theorem State.Inv.execSwap (hi : s.Inv) : (execSwap s).Inv := by
  dsimp only [Machine.execSwap]
  refine hi.serveCommand fun s ht => ?_
  split
  · exact trivial
  · split
    · exact (inv_foldl (fun _ _ ht => ht.swapIn) ht.upd).suspend
    · exact .ite ht.suspend (.ite ht.suspend (inv_foldl (fun _ _ ht => ht.swapOut) ht.upd).suspend)

theorem State.Inv.unspill (hi : s.Inv) {c : Nat} {x : SpillItem} : (s.unspill c x).Inv := by
  dsimp only [State.unspill]
  split
  · exact hi.modThread
  · exact hi.modThread
  · exact hi.modCore

theorem State.Inv.resumeCore (hi : s.Inv) {c : Nat} : (s.resumeCore c).Inv := by
  dsimp only [State.resumeCore]
  refine State.Inv.owe ?_
  refine State.Inv.owe ?_
  refine .ite ?_ ?_
  · split
    · exact (inv_foldl (fun _ _ ht => ht.modThread) (inv_foldl (fun _ _ ht => ht.unspill) hi.modCore)).advance
    · exact (inv_foldl (fun _ _ ht => ht.modThread) (inv_foldl (fun _ _ ht => ht.unspill) hi.modCore)).advance.owe
  · refine State.Inv.owe ?_
    split
    · exact (inv_foldl (fun _ _ ht => ht.modThread) (inv_foldl (fun _ _ ht => ht.unspill) hi.modCore)).advance
    · exact (inv_foldl (fun _ _ ht => ht.modThread) (inv_foldl (fun _ _ ht => ht.unspill) hi.modCore)).advance.owe

theorem State.Inv.execResume (hi : s.Inv) : (execResume s).Inv := by
  dsimp only [Machine.execResume]
  refine hi.serveCommand fun s ht => ?_
  split
  · exact trivial
  · split
    · exact trivial
    · exact (inv_foldl (fun _ _ ht => ht.readRecord) (inv_foldl (fun _ _ ht => ht.resumeCore) ht))

theorem State.Inv.execThreadEnd (hi : s.Inv) : (execThreadEnd s).Inv := by
  dsimp only [Machine.execThreadEnd]
  refine hi.serveCommand fun s ht => ?_
  split
  · exact trivial
  · exact .ite trivial ht.upd.unwait.modThread.owe

theorem State.Inv.execInterrupt (hi : s.Inv) : (execInterrupt s).Inv := by
  dsimp only [Machine.execInterrupt]
  refine hi.serveCommand fun s ht => ?_
  split
  · exact trivial
  · exact .ite trivial ht.raiseIrq

theorem State.Inv.execDebugAddr (hi : s.Inv) : (execDebugAddr s).Inv := by
  dsimp only [Machine.execDebugAddr]
  refine hi.serveCommand fun s ht => ?_
  split
  · exact trivial
  · exact ht.modCtx

theorem State.Inv.execHashgrpSet (hi : s.Inv) : (execHashgrpSet s).Inv :=
  hi.serveCommand fun _ ht => ht

theorem State.Inv.execMkeyLoad (hi : s.Inv) : (execMkeyLoad s).Inv :=
  hi.serveCommand fun _ ht => .ite trivial (inv_foldl (fun _ _ ht => ht.dropLine) ht).upd

theorem State.Inv.advanceAll (hi : s.Inv) : (s.advanceAll).Inv := by
  dsimp only [State.advanceAll]
  refine inv_foldl (fun _ _ ht => ?_) hi
  split
  · exact ht
  · exact ht.advanceAgreement

theorem State.Inv.execFkeyLoad (hi : s.Inv) : (execFkeyLoad s).Inv := by
  dsimp only [Machine.execFkeyLoad]
  refine hi.serveCommand fun s ht => ?_
  split
  · split
    · exact ht
    · exact ht.upd.advanceAll
  · exact ht

theorem State.Inv.execPeerSet (hi : s.Inv) : (execPeerSet s).Inv := by
  dsimp only [Machine.execPeerSet]
  refine hi.serveCommand fun s ht => ?_
  split
  · exact ht
  · split
    · exact .ite ht ht.upd.exchangeCaps
    · refine .ite ?_ ?_
      · exact State.Inv.ite ht.upd.exchangeCaps ht
      · exact State.Inv.ite ht.upd.exchangeCaps ht

theorem State.Inv.execMcastSet (hi : s.Inv) : (execMcastSet s).Inv :=
  hi.serveCommand fun _ ht => ht

theorem State.Inv.execTackLoad (hi : s.Inv) : (execTackLoad s).Inv := by
  refine hi.serveCommand fun s ht => ?_
  extract_lets q slot n x pa busy
  split
  · trivial
  · refine .ite trivial (.ite (.ite trivial ht.modSeq) (.ite ht ?_))
    dsimp only
    split
    · trivial
    · next p _ _ img _ =>
      have hb : (s.hostRead pa 64).2.Inv := ht.hostRead
      have hs : (if p.sigTack then
          ((s.hostRead pa 64).2.hostRead (pa + 64) img.size).2.hostRead (pa + 64 + img.size) 512
          else ([], ((s.hostRead pa 64).2.hostRead (pa + 64) img.size).2)).2.Inv := by
        split
        · exact hb.hostRead.hostRead
        · exact hb.hostRead
      exact .ite trivial (.ite trivial (.ite hb (.ite trivial (.ite trivial (Memory.wf_putBytes _ _ (Memory.wf_erase _ _ hs))))))

theorem State.Inv.execAttest (hi : s.Inv) : (execAttest s).Inv :=
  hi.serveCommand fun _ ht => .ite trivial (.ite ht ht.hostWrite)

theorem State.Inv.execUpdate (hi : s.Inv) : (execUpdate s).Inv :=
  hi.serveCommand fun _ ht => .ite trivial (.ite ht (.ite trivial ht.hostRead.upd))

end Sys2Proof.Machine
end

section
/-! SUPPORT. The canonical form of memory through tacks and harts. Elaborated one after another, so that few
threads wait for the kernel at a time. -/

set_option Elab.async false

namespace Sys2Proof.Machine

variable {s : State}

/-! ## `Machine/LoadStore` -/

theorem State.Inv.execLd (hi : s.Inv) {p : PredNo} {off : BitVec 8} {ord : LoadOrder} {zx : Bool} {w : Width} {d base : RegNo}
    : (execLd p off ord zx w d base s).Inv := by
  dsimp only [Machine.execLd]
  refine hi.issue fun s ht => ?_
  split
  · exact trivial
  · exact ht
  · next e =>
    exact (ht.checkAll.ok e).loadAct ht

theorem State.Inv.execSt (hi : s.Inv) {p : PredNo} {off : BitVec 8} {ord : StoreOrder} {w : Width} {a base : RegNo}
    : (execSt p off ord w a base s).Inv := by
  dsimp only [Machine.execSt]
  refine hi.issue fun s ht => ?_
  split
  · exact trivial
  · exact ht
  · next e =>
    exact (ht.checkAll.ok e).storeAct ht

theorem State.Inv.vectorLoad (hi : s.Inv) {i : Instr} {m : Mode} {p : PredNo} {w : Width} {ord : LoadOrder} {d base x : RegNo}
    : (vectorLoad s i m p w ord d base x).Inv := by
  dsimp only [Machine.vectorLoad]
  refine hi.issue fun s ht => ?_
  split
  · exact trivial
  · exact ht
  · next e =>
    exact (ht.checkAll.ok e).loadAct ht

theorem State.Inv.vectorStore (hi : s.Inv) {i : Instr} {m : Mode} {p : PredNo} {w : Width} {ord : StoreOrder}
    {a base x : RegNo} : (vectorStore s i m p w ord a base x).Inv := by
  dsimp only [Machine.vectorStore]
  refine hi.issue fun s ht => ?_
  split
  · exact trivial
  · exact ht
  · next e =>
    exact (ht.checkAll.ok e).storeAct ht

/-! ## `Machine/Tack` -/

theorem State.Inv.readBlock (hi : s.Inv) {a : Nat} : (s.readBlock a).Inv := by
  dsimp only [State.readBlock]
  split
  · exact trivial
  · exact trivial
  · next e =>
    split
    · exact hi.readWords.ok e
    · split
      · exact trivial
      · exact trivial
      · next e' =>
        exact ((hi.readWords.ok e).readWords.ok e')

theorem State.Inv.execColl (hi : s.Inv) {p : PredNo} {d a b : RegNo} : (execColl p d a b s).Inv := by
  dsimp only [Machine.execColl]
  refine hi.issue fun s ht => ?_
  split
  · exact trivial
  · split
    · exact trivial
    · split
      · exact trivial
      · split
        · exact trivial
        · exact ht
        · next e =>
          split
          · exact trivial
          · split
            · exact trivial
            · split
              · exact ht
              · split
                · exact ht
                · split
                  · exact ht
                  · exact State.Inv.ite (ht.readBlock.ok e).modSeq.owe (ht.readBlock.ok e).modSeq.owe.modTh

theorem State.Inv.seqTranslate (hi : s.Inv) {q core : Nat} {acc : Acc} {va : Nat} : (s.seqTranslate q core acc va).2.Inv :=
  hi.walkFree.modCore.translate

theorem State.Inv.tackPlaces (hi : s.Inv) {q core : Nat} {acc : Acc} {va n : Nat} :
    (s.tackPlaces q core acc va n).2.Inv := by
  induction n generalizing s va with
  | zero => exact hi
  | succ n ih =>
    unfold State.tackPlaces
    split
    · next e =>
      have ht := hi.seqTranslate.of_eq e
      split
      · exact ht
      · split
        · next e' => exact (ih ht).of_eq e'
        · exact ih ht
    · next e => exact hi.seqTranslate.of_eq e

theorem State.Inv.nextInvocation (hi : s.Inv) {q : Nat} : (s.nextInvocation q).Inv :=
  .ite hi.modSeq hi.modSeq.owe

theorem State.Inv.complete (hi : s.Inv) {i : Invocation} {word : Nat} : (s.complete i word).Inv :=
  .ite hi hi.modCtx

theorem State.Inv.finishInvocation (hi : s.Inv) {q : Nat} {i : Invocation} {status : Nat} {sub : BitVec 8} {value : BitVec 32}
    : OptInv (s.finishInvocation q i status sub value) := by
  dsimp only [State.finishInvocation]
  split
  · exact hi.complete.nextInvocation
  · split
    · next e =>
      split
      · exact trivial
      · exact (hi.tackPlaces.of_eq e).writeDwords.complete.nextInvocation
    · next e =>
      exact (hi.tackPlaces.of_eq e).complete.nextInvocation

theorem State.Inv.failSeq (hi : s.Inv) {q status : Nat} {sub : BitVec 8} {value : Nat} : (s.failSeq q status sub value).Inv :=
  .ite hi.modSeq.owe hi.modSeq

theorem State.Inv.opOver (hi : s.Inv) {q : Nat} {o : TackOpn} {bad : Option (BitVec 8 × Nat)} : (s.opOver q o bad).Inv := by
  dsimp only [State.opOver]
  split
  · exact hi.modSeq.failSeq
  · exact .ite hi.modSeq.owe hi.modSeq

theorem State.Inv.execInvocationStart (hi : s.Inv) {seq : Nat} : (execInvocationStart seq s).Inv := by
  have start (b : List Byte) (f : Sequencer → Sequencer) :
      (State.modSeq { s with mem := s.mem.putBytes (Region.seq seq + 0x3E00) b } seq f).Inv := Memory.wf_putBytes _ _ hi
  dsimp only [Machine.execInvocationStart]
  split
  · exact hi
  refine .ite hi (.ite ?_ ?_)
  · split
    · exact hi
    · next i _ _ _ status sub value _ =>
      have hf := hi.finishInvocation (q := seq) (i := i) (status := status) (sub := sub) (value := value)
      refine .ite hi ?_
      generalize s.finishInvocation seq i status sub value = r at hf
      cases r with
      | none => exact hi.owe
      | some t => exact hf
  · split
    · exact hi.owe
    · split
      · next e => exact ((start _ _).tackPlaces.of_eq e).failSeq
      · next ps t e =>
        have hp : (t.readDwords ps).2.Inv := ((start _ _).tackPlaces.of_eq e).readDwords
        refine .ite hi.owe ?_
        split
        · exact hp.failSeq
        · split
          · exact hp.modSeq.failSeq
          · split
            · exact hp.modSeq.failSeq
            · exact hp.modSeq

theorem State.Inv.land (hi : s.Inv) {q : Nat} {who : Nat × Nat} {tag buf chunk : Nat} {data : List Dword}
    : (s.land q who tag buf chunk data).2.Inv := by
  dsimp only [State.land]
  split
  · exact hi
  · split
    · split
      · exact hi
      · split
        · exact hi
        · split
          · next e =>
            exact hi.tackPlaces.of_eq e
          · next e =>
            split
            · exact hi.tackPlaces.of_eq e
            · exact (hi.tackPlaces.of_eq e).writeDwords.modSeq
    · exact hi

theorem State.Inv.addCounter (hi : s.Inv) {p : Place} {inc : Word} : OptInv (s.addCounter p inc) := by
  dsimp only [State.addCounter]
  split
  · exact trivial
  · exact hi.readPlace.writePlace

theorem State.Inv.landSignal (hi : s.Inv) {q : Nat} {who : Nat × Nat} {tag buf chunk : Nat} {inc : Word}
    : (s.landSignal q who tag buf chunk inc).2.Inv := by
  dsimp only [State.landSignal]
  split
  · exact hi
  · split
    · split
      · exact hi
      · split
        · next e =>
          split
          · exact hi.tackPlaces.of_eq e
          · split
            · exact hi.tackPlaces.of_eq e
            · next e' =>
              exact ((hi.tackPlaces.of_eq e).addCounter.some e')
        · next e =>
          exact hi.tackPlaces.of_eq e
    · exact hi

theorem State.Inv.tackPackets (hi : s.Inv) {seq peer peerSeq n : Nat} {hs : List PktHdr} {f : State → TackResp × State}
    (hf : ∀ t : State, t.Inv → (f t).2.Inv) : (s.tackPackets seq peer peerSeq n hs f).Inv := by
  have ht := hi.takeFrom (peer := peer) (n := n) (hs := hs)
  exact .ite ht (hf _ ht).sendBy

theorem State.Inv.execChunkArrival (hi : s.Inv) {seq peer peerSeq : Nat} {tag : BitVec 16} {buf chunk : Nat}
    {data : List Dword} {hs : List PktHdr} : (execChunkArrival seq peer peerSeq tag buf chunk data hs s).Inv :=
  hi.tackPackets fun _ ht => ht.land

theorem State.Inv.execSignalArrival (hi : s.Inv) {seq peer peerSeq : Nat} {tag : BitVec 16} {buf chunk : Nat}
    {inc : BitVec 64} {hdr : PktHdr} : (execSignalArrival seq peer peerSeq tag buf chunk inc hdr s).Inv :=
  hi.tackPackets fun _ ht => ht.landSignal

theorem State.Inv.sendChunk (hi : s.Inv) {q peer peerSeq : Nat} {tag : BitVec 16} {buf chunk : Nat} {data : List Dword}
    : (s.sendChunk q peer peerSeq tag buf chunk data).Inv :=
  (inv_foldl (fun _ _ ht => ht.sendBy) hi)

theorem State.Inv.sendReduce (hi : s.Inv) {q grp : Nat} {data : List Dword} : (s.sendReduce q grp data).Inv :=
  (inv_foldl (fun _ _ ht => ht.sendUp) hi)

theorem State.Inv.modOp (hi : s.Inv) {q : Nat} {o : TackOpn} {f : TackOpn → TackOpn} : (s.modOp q o f).Inv :=
  hi.modSeq

theorem State.Inv.tryOp (hi : s.Inv) {q : Nat} {i : Invocation} {o : TackOpn} : (s.tryOp q i o).Inv := by
  unfold State.tryOp
  extract_lets again sent failAt get answer target tag
  have ha : again.Inv := hi.owe
  have hget {t : State} (ht : t.Inv) (acc : Acc) (b c : Nat) : (get t acc b c).2.Inv := by
    dsimp only [get]
    split
    · exact ht
    · exact ht.tackPlaces
  have hans {x : TackResp × State} (hx : x.2.Inv) : (answer x).Inv := by
    dsimp only [answer]
    split
    · exact hx.owe
    · exact hx.opOver
    · exact hx.opOver
    · exact hx.opOver
  refine .ite ha (.ite hi.opOver ?_)
  split
  · split
    · next e => exact ((hget hi _ _ _).of_eq e).opOver
    · next ps t e =>
      have hr : (t.readDwords ps).2.Inv := ((hget hi _ _ _).of_eq e).readDwords
      exact .ite ha (.ite (hans hr.land) (.ite hr.opOver hr.sendChunk.modOp))
  · exact .ite (hans hi.landSignal) (.ite hi.opOver hi.sendBy.modOp)
  · split
    · next e => exact ((hget hi _ _ _).of_eq e).opOver
    · next e =>
      have hp := (hget hi _ _ _).of_eq e
      split
      · next e' => exact ((hget hp _ _ _).of_eq e').opOver
      · next e' => exact .ite ha ((hget hp _ _ _).of_eq e').readDwords.writeDwords.opOver
  · split
    · next e => exact ((hget hi _ _ _).of_eq e).opOver
    · next e =>
      have hp := (hget hi _ _ _).of_eq e
      split
      · next e' => exact ((hget hp _ _ _).of_eq e').opOver
      · next e' => exact .ite ha ((hget hp _ _ _).of_eq e').readDwords.readDwords.writeDwords.opOver
  · split
    · next e => exact ((hget hi _ _ _).of_eq e).opOver
    · next e => exact .ite ha ((hget hi _ _ _).of_eq e).readDwords.sendReduce.modOp
  · split
    · next e =>
      have hp := hi.tackPlaces.of_eq e
      refine .ite ha ?_
      split
      · exact hp.opOver
      · next e' => exact (hp.addCounter.some e').opOver
    · next e => exact (hi.tackPlaces.of_eq e).opOver

theorem State.Inv.writeReduced (hi : s.Inv) {q : Nat} {i : Invocation} {o : TackOpn} : (s.writeReduced q i o).Inv := by
  dsimp only [State.writeReduced]
  split
  · split
    · exact hi
    · split
      · next e =>
        exact (hi.tackPlaces.of_eq e).opOver
      · next e =>
        exact .ite hi.owe (hi.tackPlaces.of_eq e).writeDwords.opOver
  · exact hi

theorem State.Inv.takeTack (hi : s.Inv) {r : TackAnswer} : (s.takeTack r).2.Inv := by
  dsimp only [State.takeTack]
  split
  · exact hi.takeFrom
  · exact hi.takeHdrs
  · exact hi.takeHdrs
  · exact hi.takeHdrs
  · exact hi.takeHdrs

theorem State.Inv.tackAnswer (hi : s.Inv) {q : Nat} {i : Invocation} {o : TackOpn} {r : TackAnswer}
    : (s.tackAnswer q i o r).Inv := by
  dsimp only [State.tackAnswer]
  split
  · split
    · exact hi
    · split
      · exact hi.opOver
      · exact hi.opOver
      · exact hi.modOp
      · exact hi
  · split
    · exact hi
    · split
      · exact hi.opOver
      · exact hi.opOver
      · exact hi.modOp
      · exact hi
  · split
    · exact hi
    · split
      · exact .ite hi hi.modOp.writeReduced
      · exact hi.opOver
      · exact hi
      · exact hi
  · exact hi
  · exact hi
  · exact hi

theorem State.Inv.execTackOperationPerformed (hi : s.Inv) {seq op : Nat} {r : TackAnswer}
    : (execTackOperationPerformed seq op r s).Inv := by
  dsimp only [Machine.execTackOperationPerformed]
  split
  · split
    · exact hi
    · exact State.Inv.ite hi.writeReduced hi.tryOp
  · split
    · exact hi.takeTack
    · exact State.Inv.ite hi.takeTack.tackAnswer hi.takeTack

theorem State.Inv.execTackSendRetry (hi : s.Inv) {seq op : Nat} : (execTackSendRetry seq op s).Inv := by
  dsimp only [Machine.execTackSendRetry]
  split
  · exact hi
  · exact .ite hi hi.modOp.tryOp

theorem State.Inv.execTackSendTimeout (hi : s.Inv) {seq op : Nat} : (execTackSendTimeout seq op s).Inv := by
  dsimp only [Machine.execTackSendTimeout]
  split
  · exact hi
  · split
    · exact hi.opOver
    · exact hi.opOver
    · exact hi.opOver
    · exact hi
    · exact hi
    · exact hi

theorem State.Inv.tackRun (hi : s.Inv) {f : Invocation → TkAct} (hf : ∀ i, (f i).Inv) : (tackRun s f).Inv := by
  unfold Machine.tackRun
  extract_lets q
  split
  · exact hi
  · next i _ _ =>
    refine .ite hi ?_
    have hr := hf i
    generalize f i = r at hr
    cases r with
    | go t => exact State.Inv.modSeq (s := t) hr
    | hold => exact hi
    | fail status sub value => exact hi.failSeq
    | ended t => exact hr

theorem State.Inv.enterOp (hi : s.Inv) {k : TackKind} : (s.enterOp k).Inv :=
  .ite trivial hi.fresh.modSeq.owe

theorem State.Inv.execTkSend (hi : s.Inv) {rs1 rs2 : RegNo} : (execTkSend rs1 rs2 s).Inv := by
  dsimp only [Machine.execTkSend]
  refine hi.tackRun fun i => ?_
  split
  · exact hi.enterOp
  · exact trivial

theorem State.Inv.execTkRecv (hi : s.Inv) {rd rs1 rs2 : RegNo} : (execTkRecv rd rs1 rs2 s).Inv := by
  dsimp only [Machine.execTkRecv]
  refine hi.tackRun fun i => ?_
  split
  · exact trivial
  · exact .ite trivial hi.modSeq

theorem State.Inv.execTkRecvAny (hi : s.Inv) {rd rs1 : RegNo} : (execTkRecvAny rd rs1 s).Inv := by
  dsimp only [Machine.execTkRecvAny]
  refine hi.tackRun fun i => ?_
  refine .ite ?_ ?_
  · exact trivial
  · split
    · exact trivial
    · split
      · exact trivial
      · exact hi.modSeq

theorem State.Inv.twoChunks (hi : s.Inv) {i : Invocation} {rs1 rs2 : RegNo} {size : Nat}
    {k : Nat → Nat → Nat → Nat → TackKind} : (s.twoChunks i rs1 rs2 size k).Inv := by
  dsimp only [State.twoChunks]
  split
  · exact .ite trivial hi.enterOp
  · exact trivial

theorem State.Inv.execTkCopy (hi : s.Inv) {rs1 rs2 : RegNo} : (execTkCopy rs1 rs2 s).Inv :=
  hi.tackRun fun _ => hi.twoChunks

theorem State.Inv.execTkRed (hi : s.Inv) {op : TkOp} {fmt : TkFmt} {rs1 rs2 : RegNo} : (execTkRed op fmt rs1 rs2 s).Inv :=
  hi.tackRun fun _ => hi.twoChunks

theorem State.Inv.execTkWait (hi : s.Inv) {rs1 rs2 : RegNo} : (execTkWait rs1 rs2 s).Inv := by
  dsimp only [Machine.execTkWait]
  refine hi.tackRun fun i => ?_
  split
  · exact trivial
  · split
    · exact trivial
    · split
      · exact trivial
      · next e =>
        split
        · exact trivial
        · split
          · exact trivial
          · split <;> exact (hi.tackPlaces.of_eq e).readDwords

theorem State.Inv.execTkSig (hi : s.Inv) {rs1 rs2 : RegNo} : (execTkSig rs1 rs2 s).Inv := by
  dsimp only [Machine.execTkSig]
  refine hi.tackRun fun i => ?_
  split
  · exact trivial
  · exact .ite hi.enterOp (.ite trivial hi.enterOp)

theorem State.Inv.execTkReds (hi : s.Inv) {op : TkOp} {fmt : TkFmt} {rs1 : RegNo} : (execTkReds op fmt rs1 s).Inv := by
  dsimp only [Machine.execTkReds]
  refine hi.tackRun fun i => ?_
  split
  · exact trivial
  · exact .ite trivial (.ite trivial hi.enterOp)

theorem State.Inv.execTkFlush (hi : s.Inv) : (execTkFlush s).Inv :=
  hi.tackRun fun _ => .ite hi trivial

theorem State.Inv.execTkDone (hi : s.Inv) {rs1 : RegNo} : (execTkDone rs1 s).Inv := by
  dsimp only [Machine.execTkDone]
  refine hi.tackRun fun i => ?_
  split
  · exact trivial
  · split
    · exact trivial
    · next e =>
      exact hi.finishInvocation.some e

/-! ## `Machine/RvHart` -/

theorem State.Inv.rvIllegal (hi : s.Inv) : (s.rvIllegal).Inv :=
  hi

theorem State.Inv.setGx (hi : s.Inv) {r v : Nat} : (s.setGx r v).Inv :=
  hi.modSeq

theorem State.Inv.setGf (hi : s.Inv) {f : Fmt} {r v : Nat} : (s.setGf f r v).Inv :=
  hi.modSeq

theorem State.Inv.accrue (hi : s.Inv) {f : Flags} : (s.accrue f).Inv :=
  hi.modSeq

theorem State.Inv.rvStore (hi : s.Inv) {i : Invocation} {a n v : Nat} : ExcInv (s.rvStore i a n v) :=
  .ite trivial (.ite trivial (Memory.wf_write _ _ _ hi))

theorem State.Inv.rvRun (hi : s.Inv) {f : Invocation → RvAct} (hf : ∀ i, (f i).Inv) : (rvRun s f).Inv := by
  unfold Machine.rvRun
  extract_lets q
  split
  · exact hi
  · next i _ _ =>
    refine .ite hi ?_
    have hr := hf i
    generalize f i = r at hr
    cases r with
    | go t pc => exact State.Inv.modSeq (s := t) hr
    | exc t cause => exact State.Inv.failSeq (s := t) hr

/-! ## `Machine/RvScalar` -/

theorem State.Inv.rvPut (hi : s.Inv) {w nx v : Nat} : (s.rvPut w nx v).Inv :=
  hi.setGx

theorem State.Inv.rvOpImm (hi : s.Inv) {w nx : Nat} : (rvOpImm s w nx).Inv := by
  dsimp only [Machine.rvOpImm]
  split
  · exact hi.rvIllegal
  · split <;> exact hi.rvPut

theorem State.Inv.rvOpImm32 (hi : s.Inv) {w nx : Nat} : (rvOpImm32 s w nx).Inv :=
  .ite hi.rvPut (.ite hi.rvPut hi.rvIllegal)

theorem State.Inv.rvOp (hi : s.Inv) {w nx : Nat} : (rvOp s w nx).Inv := by
  dsimp only [Machine.rvOp]
  split
  · exact hi.rvPut
  · exact hi.rvPut
  · exact .ite hi.rvPut hi.rvIllegal
  · exact hi.rvIllegal

theorem State.Inv.rvOp32 (hi : s.Inv) {w nx : Nat} : (rvOp32 s w nx).Inv := by
  dsimp only [Machine.rvOp32]
  split
  · exact .ite hi.rvPut hi.rvIllegal
  · exact .ite hi.rvPut hi.rvIllegal
  · exact .ite hi.rvPut hi.rvIllegal
  · exact hi.rvIllegal

theorem State.Inv.rvLoadOp (hi : s.Inv) {i : Invocation} {w nx : Nat} : (rvLoadOp s i w nx).Inv := by
  dsimp only [Machine.rvLoadOp]
  split
  · exact hi.rvIllegal
  · split
    · exact hi
    · exact hi.rvPut

theorem State.Inv.rvStoreOp (hi : s.Inv) {i : Invocation} {w nx : Nat} : (rvStoreOp s i w nx).Inv := by
  dsimp only [Machine.rvStoreOp]
  split
  · exact hi.rvIllegal
  · split
    · exact hi
    · next e =>
      exact hi.rvStore.ok e

theorem State.Inv.rvBranch (hi : s.Inv) {w pc nx : Nat} : (rvBranch s w pc nx).Inv :=
  .ite hi.rvIllegal hi

theorem State.Inv.rvJalr (hi : s.Inv) {w nx : Nat} : (rvJalr s w nx).Inv :=
  .ite hi.rvIllegal hi.setGx

theorem State.Inv.rvAtomic (hi : s.Inv) {i : Invocation} {w nx : Nat} : (rvAtomic s i w nx).Inv := by
  dsimp only [Machine.rvAtomic]
  split
  · exact hi.rvIllegal
  · split
    · split
      · exact hi.rvIllegal
      · split
        · exact hi
        · exact hi.modSeq.rvPut
    · split
      · split
        · exact hi
        · next e =>
          exact .ite (hi.rvStore.ok e).modSeq.rvPut hi.modSeq.rvPut
      · split
        · exact hi.rvIllegal
        · split
          · exact hi
          · next e =>
            exact (hi.rvStore.ok e).rvPut

theorem State.Inv.rvPutF (hi : s.Inv) {f : Fmt} {w nx : Nat} {r : Nat × Flags} : (s.rvPutF f w nx r).Inv :=
  hi.accrue.setGf

theorem State.Inv.rvPutX (hi : s.Inv) {w nx : Nat} {r : Nat × Flags} : (s.rvPutX w nx r).Inv :=
  hi.accrue.rvPut

theorem State.Inv.rvFload (hi : s.Inv) {i : Invocation} {w nx : Nat} : (rvFload s i w nx).Inv := by
  dsimp only [Machine.rvFload]
  split
  · exact hi
  · exact hi.setGf

theorem State.Inv.rvFstore (hi : s.Inv) {i : Invocation} {w nx : Nat} : (rvFstore s i w nx).Inv := by
  dsimp only [Machine.rvFstore]
  split
  · exact hi
  · next e =>
    exact hi.rvStore.ok e

theorem State.Inv.rvFmadd (hi : s.Inv) {w nx : Nat} : (rvFmadd s w nx).Inv := by
  dsimp only [Machine.rvFmadd]
  split
  · exact hi.rvPutF
  · exact hi.rvIllegal

theorem State.Inv.rvOpFp (hi : s.Inv) {w nx : Nat} : (rvOpFp s w nx).Inv := by
  dsimp only [Machine.rvOpFp]
  split
  · exact hi.rvIllegal
  · split
    · split
      · exact hi.rvIllegal
      · exact hi.rvPutF
    · split
      · exact hi.rvIllegal
      · exact hi.rvPutF
    · split
      · exact hi.rvIllegal
      · exact hi.rvPutF
    · split
      · exact hi.rvIllegal
      · exact hi.rvPutF
    · split
      · exact hi.rvIllegal
      · split
        · exact hi.rvIllegal
        · exact hi.rvPutF
    · exact .ite hi.rvIllegal hi.rvPutF
    · exact .ite hi.rvIllegal hi.rvPutF
    · refine .ite ?_ ?_
      · exact hi.rvIllegal
      · split
        · exact hi.rvIllegal
        · exact hi.rvPutF
    · split
      · exact hi.rvPutX
      · exact hi.rvPutX
      · exact hi.rvPutX
      · exact hi.rvIllegal
    · split
      · exact hi.rvIllegal
      · split
        · exact hi.rvIllegal
        · exact hi.rvPutX
    · split
      · exact hi.rvIllegal
      · split
        · exact hi.rvIllegal
        · exact hi.rvPutF
    · split
      · exact hi.rvIllegal
      · split
        · exact hi.rvPut
        · exact hi.rvPut
        · exact hi.rvIllegal
    · exact .ite hi.rvIllegal hi.setGf
    · exact hi.rvIllegal

theorem State.Inv.rvCsr (hi : s.Inv) {n : Nat} : PairInv (s.rvCsr n) := by
  dsimp only [State.rvCsr]
  split
  · exact hi
  · exact hi
  · exact hi
  · exact hi
  · exact hi
  · exact hi
  · exact hi
  · exact hi.freeWord
  · exact hi.freeWord
  · exact hi
  · exact hi
  · exact hi
  · exact hi
  · exact trivial

theorem State.Inv.rvCsrWrite (hi : s.Inv) {n v : Nat} : OptInv (s.rvCsrWrite n v) := by
  dsimp only [State.rvCsrWrite]
  split
  · exact hi.modSeq
  · exact hi.modSeq
  · exact hi.modSeq
  · exact hi.modSeq
  · exact hi.modSeq
  · exact hi.modSeq
  · exact hi.modSeq
  · exact trivial

theorem State.Inv.rvSystem (hi : s.Inv) {w nx : Nat} : (rvSystem s w nx).Inv := by
  dsimp only [Machine.rvSystem]
  split
  · exact .ite hi (.ite hi (.ite hi hi.rvIllegal))
  · split
    · exact hi.rvIllegal
    · split
      · exact hi.rvIllegal
      · next e =>
        split
        · exact (hi.rvCsr.some e).rvPut
        · split
          · exact hi.rvIllegal
          · next e' =>
            exact ((hi.rvCsr.some e).rvCsrWrite.some e').rvPut

/-! ## `Machine/RvVec` -/

theorem State.Inv.vDone (hi : s.Inv) {nx : Nat} {r : VRegs × Flags} : (s.vDone nx r).Inv :=
  hi.accrue.modSeq

theorem State.Inv.vDoneX (hi : s.Inv) {w nx v : Nat} : (s.vDoneX w nx v).Inv :=
  hi.modSeq.rvPut

theorem State.Inv.run (hi : s.Inv) {c : VCtx} {nx : Nat} {ok : Bool} {d n : Nat} {f : Nat → Nat × Flags}
    : (VCtx.run c s nx ok d n f).Inv :=
  .ite hi.vDone hi.rvIllegal

theorem State.Inv.rvVset (hi : s.Inv) {w nx : Nat} : (rvVset s w nx).Inv :=
  .ite hi.modSeq.rvPut (.ite hi.modSeq.rvPut (.ite hi.modSeq.rvPut hi.rvIllegal))

/-! ## `Machine/RvVector` -/

theorem State.Inv.vLoads (hi : s.Inv) {i : Invocation} {eew : Nat} {reg addr : Nat → Nat → Nat} {es : List (Nat × Nat)} :
    (vLoads i eew reg addr s es).1.Inv := by
  induction es generalizing s with
  | nil => exact hi
  | cons e es ih =>
    unfold Machine.vLoads
    split
    · exact hi
    · exact ih hi.modSeq

theorem State.Inv.vStores (hi : s.Inv) {i : Invocation} {eew : Nat} {v : VRegs} {reg addr : Nat → Nat → Nat}
    {es : List (Nat × Nat)} : (vStores i eew v reg addr s es).1.Inv := by
  induction es generalizing s with
  | nil => exact hi
  | cons e es ih =>
    unfold Machine.vStores
    split
    · exact hi
    · next e => exact ih (hi.rvStore.ok e)

theorem State.Inv.vAccessEnd {nx : Nat} {first : Bool} {r : State × Option (Nat × Nat)} (hr : r.1.Inv) : (vAccessEnd nx first r).Inv := by
  obtain ⟨s, c⟩ := r
  have hs : s.Inv := hr
  cases c with
  | none => exact hs.modSeq
  | some c => exact .ite hs.modSeq hs.modSeq

theorem State.Inv.vAccess (hi : s.Inv) {i : Invocation} {nx eew : Nat} {first store : Bool} {v : VRegs}
    {reg addr : Nat → Nat → Nat} {es : List (Nat × Nat)} :
    (Machine.vAccessEnd nx first (if store then Machine.vStores i eew v reg addr s es else Machine.vLoads i eew reg addr s es)).Inv := by
  cases store with
  | true => exact hi.vStores.vAccessEnd
  | false => exact hi.vLoads.vAccessEnd

theorem State.Inv.vPlain (hi : s.Inv) {i : Invocation} {w nx : Nat} {store : Bool} {eew n : Nat} :
    (vPlain s i w nx store eew n).Inv :=
  hi.vAccess

theorem State.Inv.rvVmem (hi : s.Inv) {i : Invocation} {w nx : Nat} {store : Bool} : (rvVmem s i w nx store).Inv := by
  refine .ite hi.rvIllegal (.ite (.ite hi.rvIllegal hi.vPlain) ?_)
  split
  · exact hi.rvIllegal
  · exact .ite (.ite hi.rvIllegal hi.vPlain) (.ite hi.rvIllegal (.ite hi.rvIllegal hi.vAccess))

theorem State.Inv.rvOpi (hi : s.Inv) {w nx : Nat} {c : VCtx} : (rvOpi s w nx c).Inv := by
  dsimp only [Machine.rvOpi]
  split
  · exact hi.rvIllegal
  · split
    · exact hi.run
    · split <;> exact hi.run
    · exact hi.run
    · exact hi.run
    · exact hi.run
    · exact hi.run
    · exact hi.run
    · split <;> exact hi.run
    · exact .ite hi.rvIllegal hi.vDone
    · exact .ite hi.rvIllegal hi.vDone
    · exact hi.run
    · exact hi.run
    · exact hi.run
    · exact hi.run
    · exact .ite (.ite hi.rvIllegal hi.vDone) (.ite hi.run (.ite hi.run hi.rvIllegal))

theorem State.Inv.rvOpm (hi : s.Inv) {w nx : Nat} {c : VCtx} : (rvOpm s w nx c).Inv := by
  dsimp only [Machine.rvOpm]
  split
  · exact .ite hi.rvIllegal hi.vDone
  · split
    · exact hi.run
    · exact hi.run
    · split
      · split
        · exact .ite hi.rvIllegal hi.vDoneX
        · exact .ite hi.rvIllegal hi.vDoneX
        · exact .ite hi.rvIllegal hi.vDoneX
        · exact hi.rvIllegal
      · exact .ite hi.rvIllegal hi.vDone
    · exact .ite hi.rvIllegal hi.run
    · split
      · exact hi.run
      · exact hi.run
      · exact hi.run
      · exact hi.run
      · exact hi.run
      · exact hi.rvIllegal
    · exact .ite hi.rvIllegal hi.vDone
    · exact hi.run
    · exact hi.run
    · exact hi.run
    · exact hi.run
    · exact hi.run
    · exact hi.run
    · exact hi.run
    · exact hi.run
    · exact .ite hi.run (.ite hi.rvIllegal hi.run)

theorem State.Inv.rvOpf (hi : s.Inv) {w nx : Nat} {c : VCtx} : (rvOpf s w nx c).Inv := by
  dsimp only [Machine.rvOpf]
  refine .ite ?_ ?_
  · exact hi.rvIllegal
  · split
    · split
      · exact hi.rvIllegal
      · exact hi.run
    · split
      · exact hi.rvIllegal
      · split
        · exact .ite hi.rvIllegal hi.vDone
        · exact .ite hi.rvIllegal hi.vDone
        · exact .ite hi.rvIllegal hi.vDone
        · exact .ite hi.rvIllegal hi.vDone
        · exact hi.run
        · exact hi.run
        · exact .ite hi.rvIllegal (.ite (.ite hi.rvIllegal hi.modSeq.setGf) (.ite hi.rvIllegal hi.vDone))
        · split
          · exact hi.run
          · exact hi.run
          · exact hi.run
          · exact hi.run
          · exact hi.rvIllegal
        · split <;> exact hi.run
        · exact .ite hi.rvIllegal hi.vDone
        · exact .ite hi.rvIllegal hi.vDone
        · exact .ite hi.rvIllegal hi.run
        · exact .ite hi.rvIllegal hi.run
        · exact .ite hi.rvIllegal hi.run
        · exact .ite hi.rvIllegal hi.run
        · exact .ite hi.rvIllegal hi.run
        · exact .ite hi.rvIllegal hi.run
        · exact .ite hi.rvIllegal hi.run
        · exact .ite hi.rvIllegal hi.run
        · exact .ite hi.rvIllegal hi.run
        · exact .ite hi.run (.ite hi.run hi.rvIllegal)

theorem State.Inv.rvOpv (hi : s.Inv) {w nx : Nat} : (rvOpv s w nx).Inv := by
  dsimp only [Machine.rvOpv]
  split
  · exact hi.rvVset
  · split
    · exact hi.rvIllegal
    · split
      · exact hi.rvOpi
      · exact hi.rvOpi
      · exact hi.rvOpi
      · exact hi.rvOpf
      · exact hi.rvOpf
      · exact hi.rvOpm

/-! ## `Machine/Rv64` -/

theorem State.Inv.rvWord (hi : s.Inv) {i : Invocation} {w pc nx : Nat} : (rvWord s i w pc nx).Inv := by
  dsimp only [Machine.rvWord]
  split
  · exact hi.rvLoadOp
  · exact .ite hi.rvFload (.ite hi.rvIllegal hi.rvVmem)
  · exact .ite hi hi.rvIllegal
  · exact hi.rvOpImm
  · exact hi.rvPut
  · exact hi.rvOpImm32
  · exact hi.rvStoreOp
  · exact .ite hi.rvFstore (.ite hi.rvIllegal hi.rvVmem)
  · exact hi.rvAtomic
  · exact hi.rvOp
  · exact hi.rvPut
  · exact hi.rvOp32
  · exact hi.rvFmadd
  · exact hi.rvFmadd
  · exact hi.rvFmadd
  · exact hi.rvFmadd
  · exact hi.rvOpFp
  · exact hi.rvOpv
  · exact hi.rvBranch
  · exact hi.rvJalr
  · exact hi.setGx
  · exact hi.rvSystem
  · exact hi.rvIllegal

theorem State.Inv.execSequencerRv64Instruction (hi : s.Inv) {bits : BitVec 32} : (execSequencerRv64Instruction bits s).Inv := by
  dsimp only [Machine.execSequencerRv64Instruction]
  refine hi.rvRun fun i => ?_
  split
  · exact hi.rvWord
  · split
    · exact hi.rvIllegal
    · exact hi.rvWord

end Sys2Proof.Machine
end

section
/-! SUPPORT. The canonical form of memory through the instructions and the turn. Elaborated one after another, so that few
threads wait for the kernel at a time. -/

set_option Elab.async false

namespace Sys2Proof.Machine

variable {s : State}

/-! ## `Machine/Scalar` -/

theorem State.Inv.scalar (hi : s.Inv) {i : Instr} {p : PredNo} {d : RegNo} {uses : List RegNo} {v : State → Word}
    : (scalar s i p d uses v).Inv :=
  hi.issue fun _ ht => ht.setS

theorem State.Inv.binary (hi : s.Inv) {i : Instr} {p : PredNo} {d a b : RegNo} {f : Word → Word → Word}
    : (binary s i p d a b f).Inv :=
  hi.scalar

theorem State.Inv.unary (hi : s.Inv) {i : Instr} {p : PredNo} {d a : RegNo} {f : Word → Word} : (unary s i p d a f).Inv :=
  hi.scalar

theorem State.Inv.immediate (hi : s.Inv) {i : Instr} {d a : RegNo} {f : Word → Word} : (immediate s i d a f).Inv :=
  hi.scalar

theorem State.Inv.shiftImm (hi : s.Inv) {i : Instr} {w : Bool} {amt : BitVec 6} {d a : RegNo}
    {f : (n : Nat) → BitVec n → BitVec n → BitVec n} : (shiftImm s i w amt d a f).Inv :=
  hi.immediate

/-! ## `Machine/Vector` -/

theorem State.Inv.vector (hi : s.Inv) {i : Instr} {p : PredNo} {w d : Nat} {uses : List Nat} {f : Thread → Nat → Nat × Flags}
    : (vector s i p w d uses f).Inv :=
  hi.issue fun _ ht => ht.modTh

theorem State.Inv.vbinary (hi : s.Inv) {i : Instr} {p : PredNo} {ty : VType} {d a b : Nat} {f : Nat → Nat → Nat × Flags}
    : (vbinary s i p ty d a b f).Inv :=
  hi.vector

theorem State.Inv.vunary (hi : s.Inv) {i : Instr} {p : PredNo} {ty : VType} {d a : Nat} {f : Nat → Nat × Flags}
    : (vunary s i p ty d a f).Inv :=
  hi.vector

theorem State.Inv.vbitwise (hi : s.Inv) {i : Instr} {p : PredNo} {d a b : Nat} {f : Nat → Nat → Nat}
    : (vbitwise s i p d a b f).Inv :=
  hi.vector

theorem State.Inv.vcopy (hi : s.Inv) {i : Instr} {p : PredNo} {d a : Nat} : (vcopy s i p d a).Inv :=
  hi.vector

theorem State.Inv.vfused (hi : s.Inv) {i : Instr} {p : PredNo} {rm : Rm} {ty : VType} {d a b : Nat} {negProd negAdd : Bool}
    : (vfused s i p rm ty d a b negProd negAdd).Inv := by
  dsimp only [Machine.vfused]
  split
  · exact hi.issue fun _ ht => trivial
  · exact hi.vector

/-! ## `Machine/VectorMisc` -/

theorem State.Inv.vcompare (hi : s.Inv) {i : Instr} {p : PredNo} {ty : VType} {d : PredNo} {a b : RegNo}
    {f : Nat → Nat → Bool × Flags} : (vcompare s i p ty d a b f).Inv :=
  hi.issue fun _ ht => ht.modTh

theorem State.Inv.execVcvt (hi : s.Inv) {p : PredNo} {dt st : VType} {rm : Rm} {d a : RegNo} : (execVcvt p dt st rm d a s).Inv := by
  dsimp only [Machine.execVcvt]
  split
  · exact hi.issue fun _ ht => trivial
  · exact hi.issue fun _ ht => ht.modTh

theorem State.Inv.vtoScalar (hi : s.Inv) {i : Instr} {p : PredNo} {d : RegNo} {uses : List RName} {f : State → Word × Flags}
    : (vtoScalar s i p d uses f).Inv :=
  hi.issue fun _ ht => ht.modTh

theorem State.Inv.execVbcast (hi : s.Inv) {p : PredNo} {w : Width} {d a : RegNo} : (execVbcast p w d a s).Inv :=
  hi.issue fun _ ht => ht.setV

theorem State.Inv.execVins (hi : s.Inv) {p : PredNo} {w : Width} {d a b : RegNo} : (execVins p w d a b s).Inv :=
  hi.issue fun _ ht => ht.setV

theorem State.Inv.execVsel (hi : s.Inv) {p : PredNo} {d a b : RegNo} : (execVsel p d a b s).Inv :=
  hi.issue fun _ ht => ht.setV

theorem State.Inv.execVslideup (hi : s.Inv) {p : PredNo} {d a b : RegNo} : (execVslideup p d a b s).Inv :=
  hi.issue fun _ ht => ht.setV

theorem State.Inv.execVslidedn (hi : s.Inv) {p : PredNo} {d a b : RegNo} : (execVslidedn p d a b s).Inv :=
  hi.issue fun _ ht => ht.setV

theorem State.Inv.predicateOp (hi : s.Inv) {i : Instr} {d : PredNo} {uses : List RName} {f : State → Word}
    : (predicateOp s i d uses f).Inv :=
  hi.issue fun _ ht => ht.setP

theorem State.Inv.reduceMax (hi : s.Inv) {i : Instr} {up : Bool} {p : PredNo} {ty : VType} {d a : RegNo}
    : (reduceMax s i up p ty d a).Inv :=
  hi.vtoScalar

theorem State.Inv.execVpack (hi : s.Inv) {p : PredNo} {fmt : MxFmt} {rm : Rm} {d a : RegNo} : (execVpack p fmt rm d a s).Inv := by
  dsimp only [Machine.execVpack]
  refine hi.issue fun s ht => ?_
  split
  · exact trivial
  · exact ht.modTh

theorem State.Inv.execVunpk (hi : s.Inv) {p : PredNo} {fmt : MxFmt} {d a b : RegNo} : (execVunpk p fmt d a b s).Inv :=
  hi.issue fun _ ht => ht.modTh

/-! ## `Machine/Dispatch` -/

theorem State.Inv.exec (hi : s.Inv) {i : Instr} : Ans.Inv (exec i s) := by
  dsimp only [Machine.exec]
  cases i with
  | add | sub | and | or | xor | shl | shr | sar | slt | sltu | mul | mulh | mulhu | div | divu | rem | remu | min | max
    | minu | maxu => exact hi.binary
  | popc | clz | ctz | brev => exact hi.unary
  | bfx => exact hi.binary
  | bfi => exact hi.scalar
  | andn | orn | rol | ror => exact hi.binary
  | bswap => exact hi.unary
  | addi | andi | ori | xori | slti => exact hi.immediate
  | shli | shri | sari | rori => exact hi.shiftImm
  | lhi | addpc => exact hi.scalar
  | jal => exact hi.execJal
  | jalr => exact hi.execJalr
  | beq | bne | blt | bge | bltu | bgeu | bbs | bbc | bany | ball | bnone => exact hi.branch
  | loopi => exact hi.execLoopi
  | loops => exact hi.execLoops
  | ld => exact hi.execLd
  | st => exact hi.execSt
  | amoswap | amoadd | amoand | amoor | amoxor | amomin | amomax | amominu | amomaxu | amocas | amofadd => exact hi.atomic
  | fence => exact hi.execFence
  | fenceLb => exact hi.execFenceLb
  | watch => exact hi.execWatch
  | barArr => exact hi.execBarArr
  | barWait => exact hi.execBarWait
  | mput => exact hi.execMput
  | mget => exact hi.execMget
  | wait => exact hi.execWait
  | twaitSrc | twaitVis => exact hi.tokenWait
  | vadd | vsub | vmul | vcmul | vmax | vmin | vmaxUnsigned | vminUnsigned => exact hi.vbinary
  | vneg | vabs => exact hi.vunary
  | vshl | vshr | vsar => exact hi.vbinary
  | vand | vor | vxor => exact hi.vbitwise
  | vmov => exact hi.vcopy
  | vdiv => exact hi.vbinary
  | vsqrt | vconj => exact hi.vunary
  | vadds | vsubs => exact hi.vbinary
  | vfma | vfms | vfnma | vfnms => exact hi.vfused
  | vld | vlds | vldx => exact hi.vectorLoad
  | vst | vsts | vstx => exact hi.vectorStore
  | vcmpeq | vcmpne | vcmplt | vcmple | vcmpltUnsigned | vcmpleUnsigned | vcmpun => exact hi.vcompare
  | vcvt => exact hi.execVcvt
  | vbcast => exact hi.execVbcast
  | vext => exact hi.vtoScalar
  | vins => exact hi.execVins
  | vperm => exact hi.vector
  | vsel => exact hi.execVsel
  | vslideup => exact hi.execVslideup
  | vslidedn => exact hi.execVslidedn
  | pand | por | pxor | pnot | pmov => exact hi.predicateOp
  | pget | pcnt | pfirst | vredadd => exact hi.vtoScalar
  | vredmax | vredmin => exact hi.reduceMax
  | vpack => exact hi.execVpack
  | vunpk => exact hi.execVunpk
  | vaddN | vsubN | vmulN | vmaxN | vminN => exact hi.vbinary
  | vnegN | vabsN => exact hi.vunary
  | vaddI32N | vsubI32N | vmulI32N | vshlI32N => exact hi.vbinary
  | vandN | vorN | vxorN => exact hi.vbitwise
  | vmovN => exact hi.vcopy
  | vcmulC64N => exact hi.vbinary
  | sendm => exact hi.execSendm
  | recvm => exact hi.execRecvm
  | rcall => exact hi.execRcall
  | rret => exact hi.execRret
  | rgrab => exact hi.execRgrab
  | gjoin => exact hi.execGjoin
  | gleave => exact hi.execGleave
  | ginfo => exact hi.execGinfo
  | gabsent => exact hi.execGabsent
  | cbrAll | cbrAny => exact hi.agreedBranch
  | cpy | cpyBar => exact hi.copy
  | mma => exact hi.execMma
  | msacc => exact hi.execMsacc
  | msaccV => exact hi.execMsaccV
  | mzero => exact hi.execMzero
  | mldz => exact hi.execMldz
  | mstz => exact hi.execMstz
  | mcommit => exact hi.execMcommit
  | mwait => exact hi.execMwait
  | mresume => exact hi.execMresume
  | mvs => exact hi.execMvs
  | ycfg => exact hi.execYcfg
  | yswap => exact hi.execYswap
  | ywant => exact hi.execYwant
  | ysync => exact hi.execYsync
  | ygen => exact hi.execYgen
  | axa => exact hi.execAxa
  | axd => exact hi.execAxd
  | axs => exact hi.execAxs
  | axn => exact hi.execAxn
  | put => exact hi.execPut
  | puts => exact hi.execPuts
  | get => exact hi.execGet
  | radd => exact hi.execRadd
  | coll => exact hi.execColl
  | exit => exact hi.execExit
  | trap => exact hi.execTrap
  | tret => exact hi.execTret
  | srd => exact hi.execSrd
  | swr => exact hi.execSwr
  | ctxs => exact hi.execCtxs
  | ctxr => exact hi.execCtxr
  | tinv => exact hi.execTinv
  | tkSend => exact hi.execTkSend
  | tkRecv => exact hi.execTkRecv
  | tkRecvAny => exact hi.execTkRecvAny
  | tkCopy => exact hi.execTkCopy
  | tkWait => exact hi.execTkWait
  | tkSig => exact hi.execTkSig
  | tkFlush => exact hi.execTkFlush
  | tkDone => exact hi.execTkDone
  | tkRed => exact hi.execTkRed
  | tkReds => exact hi.execTkReds
  | ingressDoorbell => exact hi.doorbell
  | activeMessageArrival => exact hi.execActiveMessageArrival
  | contextStart => exact hi.startAll.serveRecords
  | acceptWordWrite => exact hi.execAcceptWordWrite
  | contextEnd => exact hi.execContextEnd
  | joinComplete => exact hi.execJoinComplete
  | groupTimeout => exact hi.execGroupTimeout
  | groupDissolved => exact hi.execGroupDissolved
  | feedBinArm => exact hi.execFeedBinArm
  | feedBinDisarm => exact hi.execFeedBinDisarm
  | feedBinGrab => exact hi.execFeedBinGrab
  | registerWrite => exact hi.execRegisterWrite
  | accessPerform => exact hi.execAccessPerform
  | remoteResultArrival => exact hi.execRemoteResultArrival
  | remoteRefusal => exact hi.execRemoteRefusal
  | messageDelivery => exact hi.execMessageDelivery
  | callDelivery => exact hi.execCallDelivery
  | callReply => exact hi.execCallReply
  | agreementContribution => exact hi.execAgreementContribution
  | agreementResolution => exact hi.execAgreementResolution
  | penDrain => exact hi.execPenDrain
  | commitBufferRelease => exact hi.execCommitBufferRelease
  | specLimit => exact hi.execSpecLimit
  | interruptTake => exact hi.execInterruptTake
  | timerTick => exact hi.execTimerTick
  | receiveThreshold => exact hi.execReceiveThreshold
  | recvProbe => exact hi.execRecvProbe
  | recvStrike => exact hi.execRecvStrike
  | spill => exact hi.execSpill
  | pageWalk => exact hi.execPageWalk
  | tlbInvalidation => exact hi.execTlbInvalidation
  | bar4WindowAccess => exact hi.execBar4WindowAccess
  | copyStart => exact hi.execCopyStart
  | copySrc => exact hi.execCopySrc
  | copyVis => exact hi.execCopyVis
  | copyFault => exact hi.execCopyFault
  | tileCommandStart => exact hi.execTileCommandStart
  | tileCommandComplete => exact hi.execTileCommandComplete
  | tileCommandStop => exact hi.execTileCommandStop
  | tileFault => exact hi.execTileFault
  | swapHandshake => exact hi.execSwapHandshake
  | exchangeUnitStart => exact hi.execExchangeUnitStart
  | exchangeUnitComplete => exact hi.execExchangeUnitComplete
  | yardAccessForward => exact hi.execYardAccessForward
  | axisCommandComplete => exact hi.execAxisCommandComplete
  | yardEnd => exact hi.execYardEnd
  | fabricPutArrival | fabricPutsArrival | fabricGetArrival | fabricRaddArrival => exact hi.fabArrival
  | fabricResponse => exact hi.execFabricResponse
  | fabricTimeout => exact hi.execFabricTimeout
  | multicastReplica => exact hi.member
  | multicastAck => exact hi.execMulticastAck
  | multicastLoadCollect => exact hi.member
  | multicastLoadResult => exact hi.execMulticastLoadResult
  | capabilityExchange => exact hi.execCapabilityExchange
  | invocationStart => exact hi.execInvocationStart
  | chunkArrival => exact hi.execChunkArrival
  | tackSendRetry => exact hi.execTackSendRetry
  | tackSendTimeout => exact hi.execTackSendTimeout
  | signalArrival => exact hi.execSignalArrival
  | paddockSet => exact hi.execPaddockSet
  | paddockClear => exact hi.execPaddockClear
  | preempt => exact hi.execPreempt
  | swap => exact hi.execSwap
  | resume => exact hi.execResume
  | threadEnd => exact hi.execThreadEnd
  | interrupt => exact hi.execInterrupt
  | hashgrpSet => exact hi.execHashgrpSet
  | mkeyLoad => exact hi.execMkeyLoad
  | fkeyLoad => exact hi.execFkeyLoad
  | peerSet => exact hi.execPeerSet
  | mcastSet => exact hi.execMcastSet
  | tackLoad => exact hi.execTackLoad
  | debugAddr => exact hi.execDebugAddr
  | attest => exact hi.execAttest
  | update => exact hi.execUpdate
  | moduleReset => exact hi.execModuleReset
  | islandSensorRefresh => exact hi.execIslandSensorRefresh
  | logFlashCopy => exact hi.execLogFlashCopy
  | illegalEncoding => exact hi.illegal
  | uncorrectableEccError => exact hi.execUncorrectableEccError
  | sequencerRv64Instruction => exact hi.execSequencerRv64Instruction
  | tackOperationPerformed => exact hi.execTackOperationPerformed
  | copyDestinationRelease => exact hi.execCopyDestinationRelease
  | tileSourceRelease => exact hi.execTileSourceRelease
  | exportEntryWrite => exact hi.execExportEntryWrite

/-! ## `Machine/Turn` -/

theorem Ans.Inv.andThen {a : Ans} (ha : a.Inv) {f : State → State} (hf : ∀ t, t.Inv → (f t).Inv) : (andThen a f).Inv := by
  cases a with
  | next s => exact hf s ha
  | fault r => trivial
  | refused r => trivial

theorem State.Inv.keepInstr (hi : s.Inv) {i : Instr} {pc : Word} : (State.keepInstr i pc s).Inv :=
  .ite hi.modTh hi

theorem State.Inv.runInstr (hi : s.Inv) {i : Instr} : (runInstr i s).Inv :=
  Ans.Inv.andThen hi.exec fun _ ht => ht.keepInstr

theorem State.Inv.issueTurn (hi : s.Inv) : (issueTurn s).Inv := by
  dsimp only [Machine.issueTurn]
  split
  · exact hi.modTh
  · split
    · exact hi.runInstr
    · split
      · exact hi.raise
      · split
        · exact hi.modTh
        · exact hi.raise
        · exact hi.illegal
        · exact hi.runInstr

theorem State.Inv.takeDiverge (hi : s.Inv) {v : Word} : (s.takeDiverge v).Inv :=
  hi.modTh.trap

theorem State.Inv.threadTurn (hi : s.Inv) : (threadTurn s).Inv := by
  dsimp only [Machine.threadTurn]
  split
  · exact hi.execInterruptTake
  · split
    · exact hi
    · split
      · exact hi.execTileFault
      · split
        · exact hi.takeDiverge
        · exact hi.issueTurn

theorem State.Inv.tick (hi : s.Inv) {core k : Nat} : (s.tick core k).Inv :=
  hi.modCore

theorem State.Inv.coreTurn (hi : s.Inv) {core : Nat} : (coreTurn core s).Inv := by
  unfold Machine.coreTurn
  split
  · exact hi.tick
  · exact Ans.Inv.andThen hi.upd.threadTurn fun _ ht => ht.tick

theorem State.Inv.seqTurn {s0 : State} (hi : s0.Inv) {q : Nat} : (seqTurn q s0).Inv := by
  dsimp only [Machine.seqTurn]
  split
  · exact hi
  · split
    · exact hi
    · split
      · exact hi.upd.failSeq
      · split
        · exact hi.upd.exec
        · exact hi.upd.execSequencerRv64Instruction

theorem State.Inv.dutyTurn (hi : s.Inv) {d : Duty} : (dutyTurn d s).Inv := by
  dsimp only [Machine.dutyTurn]
  split
  · exact hi.execAccessPerform
  · exact hi.execYardAccessForward
  · exact hi.execRemoteResultArrival
  · exact hi.execFeedBinGrab
  · exact hi.execMessageDelivery
  · exact hi.execCallDelivery
  · exact hi.execCallReply
  · exact hi.execJoinComplete
  · exact hi.execGroupDissolved
  · exact hi.execAgreementContribution
  · exact hi.execAgreementResolution
  · exact hi.execPenDrain
  · exact hi.execCommitBufferRelease
  · exact hi.execActiveMessageArrival
  · exact hi.startAll.serveRecords
  · exact hi.execAcceptWordWrite
  · exact hi.execContextEnd
  · exact hi.execRecvProbe
  · exact hi.execRecvStrike
  · exact hi.execSpill
  · exact hi.execPageWalk
  · exact hi.execTlbInvalidation
  · exact hi.execCopyStart
  · exact hi.execCopySrc
  · exact hi.execCopyVis
  · exact hi.execCopyFault
  · exact hi.execCopyDestinationRelease
  · exact hi.execTileCommandStart
  · exact hi.execTileSourceRelease
  · exact hi.execTileCommandComplete
  · exact hi.execTileCommandStop
  · exact hi.execSwapHandshake
  · exact hi.execExchangeUnitStart
  · exact hi.execExchangeUnitComplete
  · exact hi.execAxisCommandComplete
  · exact hi.execYardEnd
  · exact hi.fabArrival
  · exact hi.fabArrival
  · exact hi.fabArrival
  · exact hi.fabArrival
  · exact hi.execFabricResponse
  · exact hi.member
  · exact hi.member
  · exact hi.execInvocationStart
  · exact hi.execTackOperationPerformed
  · exact hi.execFeedBinArm
  · exact hi.execFeedBinDisarm
  · split
    · exact hi.execPaddockSet
    · exact hi.execPaddockClear
    · exact hi.execPreempt
    · exact hi.execSwap
    · exact hi.execResume
    · exact hi.execThreadEnd
    · exact hi.execInterrupt
    · exact hi.execHashgrpSet
    · exact hi.execMkeyLoad
    · exact hi.execFkeyLoad
    · exact hi.execPeerSet
    · exact hi.execMcastSet
    · exact hi.execTackLoad
    · exact hi.execDebugAddr
    · exact hi.execAttest
    · exact hi.execUpdate
    · exact hi.noCommand

theorem State.Inv.agentTurn (hi : s.Inv) {a : Nat} : (agentTurn a s).Inv :=
  .ite hi.coreTurn hi.seqTurn

theorem State.Inv.freeTurn (hi : s.Inv) : (freeTurn s).Inv := by
  dsimp only [Machine.freeTurn]
  split
  · exact hi
  · exact hi.upd.agentTurn
  · exact hi.upd.dutyTurn
  · exact .ite hi.upd.dutyTurn hi.upd.agentTurn

theorem State.Inv.givenTurn (hi : s.Inv) {t : Turn} : (givenTurn t s).Inv := by
  dsimp only [Machine.givenTurn]
  split
  · exact .ite hi.coreTurn hi
  · exact .ite hi.seqTurn hi
  · exact hi.exec

theorem State.Inv.turn (hi : s.Inv) : (turn s).Inv := by
  dsimp only [Machine.turn]
  split
  · exact hi.upd.givenTurn
  · exact .ite hi.execModuleReset hi.freeTurn

/-- Settles O58: a step is one turn (`step`), and `State.Inv.turn` follows the turn through every function it can call. -/
theorem stepKeepsMemoryCanonical : Obligations.StepKeepsMemoryCanonical := by
  intro s t hi e
  have h : Ans.Inv (step s) := hi.turn
  rw [e] at h
  exact h

end Sys2Proof.Machine
end

section
/-! SUPPORT. The writes of the host to BAR0 and BAR2 (R480, R482, R486). -/

namespace Sys2Proof.Machine

variable {s : State} {v : Word}

/-! ## BAR0 -/

theorem bar0Takes_doubleword {off : Nat} (h : off % 8 = 0) (hl : off < 0x10000) : bar0Takes off 8 = true := by
  simp [bar0Takes, h, hl]

theorem bar0Takes_other {off n : Nat} (h : n ≠ 8 ∨ off % 8 ≠ 0) : bar0Takes off n = false := by
  rcases h with h | h <;> simp [bar0Takes, h]

theorem State.bar0Write_mstatus : s.bar0Write 0 8 v =
    { s with nested := s.nested && !v.getLsbD 5, lognew := s.lognew && !v.getLsbD 4 } := rfl

theorem State.bar0Write_command {k : Nat} (hk : k < 16) :
    s.bar0Write (0x100 + 8 * k) 8 v = if s.cmdState = 1 then s else { s with cmd := tset s.cmd k v } := by
  have hin : 0x100 ≤ 0x100 + 8 * k ∧ 0x100 + 8 * k < 0x180 := by omega
  have hidx : (0x100 + 8 * k - 0x100) / 8 = k := by omega
  have h10 : 0x100 + 8 * k ≠ 0x10 := by omega
  have h20 : 0x100 + 8 * k ≠ 0x20 := by omega
  unfold State.bar0Write
  rw [bar0Takes_doubleword (by omega) (by omega), if_neg (by decide), if_neg (by omega), if_neg h10, if_neg h20, if_pos hin, hidx]

theorem State.bar0Write_cmdres (hr : s.ready = true) (h : s.cmdState ≠ 1) :
    s.bar0Write 0x180 8 v = { s with cmdState := 1, cmdCode := 0 }.owe (.command ((tget 0 s.cmd 0).toNat % 256)) := by
  simp [State.bar0Write, bar0Takes, hr, h]

/-! ## BAR2 -/

theorem getLsbD_setByte {w : Word} {k i : Nat} {b : Byte} (hi : i < 64) :
    (setByte w k b).getLsbD i = if 8 * k ≤ i ∧ i < 8 * k + 8 then b.getLsbD (i - 8 * k) else w.getLsbD i := by
  have hff : (0xFF#64).getLsbD (i - 8 * k) = decide (i - 8 * k < 8) := by
    have : ∀ j, j < 64 → (0xFF#64).getLsbD j = decide (j < 8) := by decide
    exact this _ (by omega)
  simp only [setByte, BitVec.getLsbD_or, BitVec.getLsbD_and, BitVec.getLsbD_not, BitVec.getLsbD_shiftLeft, BitVec.getLsbD_setWidth, hff]
  by_cases hlo : i < 8 * k
  · rw [if_neg (by omega)]
    simp only [hi, hlo, decide_true, Bool.not_true, Bool.false_and, Bool.and_false, Bool.not_false, Bool.and_true,
      Bool.or_false]
  · by_cases hup : i < 8 * k + 8
    · have hin : i - 8 * k < 8 := by omega
      rw [if_pos (by omega)]
      simp only [hi, hlo, hin, decide_true, decide_false, Bool.not_true, Bool.not_false, Bool.and_true, Bool.and_false, Bool.true_and,
        Bool.false_or, show i - 8 * k < 64 by omega]
    · have hout : ¬ i - 8 * k < 8 := by omega
      rw [if_neg (by omega), BitVec.getLsbD_of_ge b (i - 8 * k) (by omega)]
      simp only [hi, hlo, hout, decide_true, decide_false, Bool.not_false, Bool.and_true, Bool.and_false, Bool.or_false]

/-- A word with its low `n` bytes replaced by those of another, one after the other. -/
def setBytes (w v : Word) (n : Nat) : Word :=
  (List.range n).foldl (fun w j => setByte w j (BitVec.ofNat 8 (v.toNat / 256 ^ j))) w

theorem setBytes_succ (w : Word) (n : Nat) :
    setBytes w v (n + 1) = setByte (setBytes w v n) n (BitVec.ofNat 8 (v.toNat / 256 ^ n)) := by
  simp [setBytes, List.range_succ]

theorem getLsbD_byteOf {n i : Nat} (hi : i < 8) : (BitVec.ofNat 8 (v.toNat / 256 ^ n)).getLsbD i = v.getLsbD (8 * n + i) := by
  rw [show 256 ^ n = 2 ^ (8 * n) by rw [Nat.pow_mul]]
  rw [BitVec.getLsbD_ofNat, Nat.testBit_div_two_pow, decide_eq_true hi, Bool.true_and, Nat.add_comm i]
  rfl

theorem getLsbD_setBytes {w : Word} {n i : Nat} (hi : i < 64) :
    (setBytes w v n).getLsbD i = if i < 8 * n then v.getLsbD i else w.getLsbD i := by
  induction n with
  | zero => simp [setBytes]
  | succ n ih =>
    rw [setBytes_succ, getLsbD_setByte hi, ih]
    by_cases hlo : 8 * n ≤ i
    · by_cases hup : i < 8 * n + 8
      · rw [if_pos ⟨hlo, hup⟩, if_pos (by omega), getLsbD_byteOf (by omega), show 8 * n + (i - 8 * n) = i by omega]
      · rw [if_neg (by omega), if_neg (by omega), if_neg (by omega)]
    · rw [if_neg (by omega), if_pos (by omega), if_pos (by omega)]

theorem setBytes_eight (w : Word) : setBytes w v 8 = v :=
  BitVec.eq_of_getLsbD_eq fun i hi => by rw [getLsbD_setBytes hi, if_pos (by omega)]

theorem State.bar2Byte_record {off : Nat} {b : Byte} (hoff : off < 0x20000) (ha : s.acceptState (off / 32) ≠ 1) :
    s.bar2Byte off b = { s with ingress := tset s.ingress (off / 8) (setByte (tget 0 s.ingress (off / 8)) (off % 8) b) } :=
  if_neg (by omega)

/-- What the bytes of a write to one word of a record leave: the word has them, and neither a thread nor an accept word changes. -/
structure RecordWritten (s t : State) (q : Nat) (w : Word) : Prop where
  word    : tget 0 t.ingress q = w
  accept  : t.accept = s.accept
  threads : t.threads = s.threads

theorem recordWritten_bytes {slot k n : Nat} (hs : slot < 4096) (hk : k < 4) (ha : s.acceptState slot ≠ 1) (hn : n ≤ 8) :
    RecordWritten s (((List.range n).map (32 * slot + 8 * k + ·)).foldl
      (fun s o => s.bar2Byte o (BitVec.ofNat 8 (v.toNat / 256 ^ (o - (32 * slot + 8 * k))))) s) (4 * slot + k)
      (setBytes (tget 0 s.ingress (4 * slot + k)) v n) := by
  induction n with
  | zero => exact ⟨rfl, rfl, rfl⟩
  | succ n ih =>
    obtain ⟨hw, hacc, hth⟩ := ih (by omega)
    rw [List.range_succ, List.map_append, List.foldl_append, setBytes_succ]
    generalize ((List.range n).map (32 * slot + 8 * k + ·)).foldl _ s = t at *
    have hq : (32 * slot + 8 * k + n) / 8 = 4 * slot + k := by omega
    have hj : (32 * slot + 8 * k + n) % 8 = n := by omega
    have hslot : t.acceptState ((32 * slot + 8 * k + n) / 32) ≠ 1 := by
      rwa [show (32 * slot + 8 * k + n) / 32 = slot by omega, State.acceptState, hacc]
    simp only [List.map_cons, List.map_nil, List.foldl_cons, List.foldl_nil]
    rw [State.bar2Byte_record (by omega) hslot, hq, hj, hw, Nat.add_sub_cancel_left]
    exact ⟨tget_tset_same .., hacc, hth⟩

theorem recordWritten_bar2Write {slot k : Nat} (hs : slot < 4096) (hk : k < 4) (ha : s.acceptState slot ≠ 1) :
    RecordWritten s (s.bar2Write (32 * slot + 8 * k) 8 v) (4 * slot + k) v := by
  have hbells : (((List.range (min 8 8)).map (32 * slot + 8 * k + ·)).filter fun o =>
      decide (0x20000 ≤ o) && decide (o < 0x28000)) = [] := by
    rw [List.filter_eq_nil_iff]
    intro o ho
    obtain ⟨j, hj, rfl⟩ := List.mem_map.mp ho
    have : j < 8 := List.mem_range.mp hj
    simp only [Bool.and_eq_true, decide_eq_true_eq]
    omega
  have h := recordWritten_bytes (v := v) (n := 8) hs hk ha (by omega)
  rw [setBytes_eight] at h
  simp only [State.bar2Write, hbells, List.map_nil]
  exact h

end Sys2Proof.Machine
end

section
/-! SUPPORT. The window of the host onto HBM (R479, R481), where no slice and no watch holds a line. -/

namespace Sys2Proof.Machine

/-! ## Memory: what a doubleword holds after a store -/

theorem not_mem_of_risingFrom {l : List Nat} {lo a : Nat} (hl : risingFrom lo l = true) (h : a < lo) : a ∉ l := by
  induction l generalizing lo with
  | nil => exact List.not_mem_nil
  | cons j l ih =>
    simp only [risingFrom, Bool.and_eq_true, decide_eq_true_eq] at hl
    obtain ⟨hj, hl⟩ := hl
    rw [List.mem_cons, not_or]
    exact ⟨by omega, ih hl (by omega)⟩

theorem not_mem_removeNat {l : List Nat} {lo a : Nat} (hl : risingFrom lo l = true) : a ∉ removeNat l a := by
  induction l generalizing lo with
  | nil => exact List.not_mem_nil
  | cons j l ih =>
    simp only [risingFrom, Bool.and_eq_true, decide_eq_true_eq] at hl
    unfold removeNat
    split
    · next h => exact not_mem_of_risingFrom hl.2 (by omega)
    · next h => exact List.not_mem_cons_of_ne_of_not_mem h (ih hl.2)

theorem Memory.write_poison {m : Memory} (a n v : Nat) : (m.write a n v).poison = m.poison := by
  induction n generalizing m a v with
  | zero => rfl
  | succ n ih => exact ih ..

theorem Memory.anyPoison_doubleword {m : Memory} {a : Nat} (ha : a % 8 = 0) (h : a / 8 ∉ m.poison) : m.anyPoison a 8 = false := by
  unfold Memory.anyPoison
  rw [List.any_eq_false]
  intro w hw
  have hne : w ≠ a / 8 := fun e => h (e ▸ hw)
  simp only [Bool.and_eq_true, decide_eq_true_eq]
  omega

theorem Memory.store_doubleword {m : Memory} {a v : Nat} (ha : a % 8 = 0) : m.store a 8 v = (m.cleanWord a).write a 8 v :=
  if_pos ⟨rfl, ha⟩

theorem Memory.anyPoison_store_doubleword {m : Memory} {a v : Nat} (h : m.wf = true) (ha : a % 8 = 0) :
    (m.store a 8 v).anyPoison a 8 = false := by
  rw [Memory.store_doubleword ha]
  refine Memory.anyPoison_doubleword ha ?_
  rw [Memory.write_poison]
  exact not_mem_removeNat ((Memory.wf_iff m).mp h).2

theorem Memory.bytes_eq_map (m : Memory) (a n : Nat) : m.bytes a n = (List.range n).map fun k => m.byte (a + k) := by
  induction n generalizing a with
  | zero => rfl
  | succ n ih =>
    rw [List.range_succ_eq_map, List.map_cons, List.map_map, Memory.bytes, ih]
    congr 1
    exact List.map_congr_left fun k _ => congrArg m.byte (by simp only [Nat.succ_eq_add_one]; omega)

/-- The bytes of a number, the first least significant (R3). -/
def bytesOf (n v : Nat) : List Byte := (List.range n).map fun k => BitVec.ofNat 8 (v / 256 ^ k)

theorem length_bytesOf (n v : Nat) : (bytesOf n v).length = n := by simp [bytesOf]

theorem bytesVal_bytesOf (n v : Nat) : bytesVal (bytesOf n v) = v % 256 ^ n := by
  induction n generalizing v with
  | zero => simp [bytesOf, bytesVal, Nat.mod_one]
  | succ n ih =>
    have hcons : bytesOf (n + 1) v = BitVec.ofNat 8 v :: bytesOf n (v / 256) := by
      rw [bytesOf, List.range_succ_eq_map, List.map_cons, List.map_map, bytesOf, Nat.pow_zero, Nat.div_one]
      congr 1
      exact List.map_congr_left fun k _ => by
        rw [Function.comp_apply, Nat.div_div_eq_div_mul, Nat.succ_eq_add_one, Nat.pow_succ, Nat.mul_comm]
    rw [hcons, bytesVal, List.foldr_cons, ← bytesVal, ih, Nat.pow_succ, Nat.mul_comm (256 ^ n), Nat.mod_mul]
    rfl

theorem bytesVal_word (v : Word) : bytesVal (bytesOf 8 v.toNat) = v.toNat := by
  rw [bytesVal_bytesOf]
  exact Nat.mod_eq_of_lt v.isLt

theorem Memory.bytes_store_doubleword {m : Memory} {a v : Nat} (h : m.wf = true) (ha : a % 8 = 0) :
    (m.store a 8 v).bytes a 8 = bytesOf 8 v := by
  rw [Memory.store_doubleword ha, Memory.bytes_eq_map]
  exact List.map_congr_left fun k hk => Memory.byte_write_inside v (Memory.wf_cleanWord a h) (List.mem_range.mp hk)

theorem Memory.read_store_doubleword {m : Memory} {a : Nat} (h : m.wf = true) (ha : a % 8 = 0) (v : Word) :
    (m.store a 8 v.toNat).read a 8 = v.toNat := by
  rw [Memory.store_doubleword ha, Memory.read_write_same a 8 _ (Memory.wf_cleanWord a h)]
  exact Nat.mod_eq_of_lt v.isLt

/-! ## The window -/

/-- A ready module whose window starts at HBM's first byte, and in which no slice, engine or watch holds a line. -/
structure WindowFree (s : State) : Prop where
  ready   : s.ready = true
  base    : s.w4base = 0
  inv     : s.Inv
  lines   : s.lines = []
  watches : NoWatches s
  free    : ∀ x, s.lineHeld x = false

/-- The state with another memory, its lines under the tags `g`. -/
def State.withMem (s : State) (m : Memory) (g : Table Nat) : State := { s with mem := m, hbmTag := g }

theorem WindowFree.withMem {s : State} (h : WindowFree s) {m : Memory} {g : Table Nat} (hm : m.wf = true) : WindowFree (s.withMem m g) where
  ready := h.ready
  base := h.base
  inv := hm
  lines := h.lines
  watches := h.watches
  free := h.free

theorem WindowFree.send {s : State} (h : WindowFree s) (o : Out) : WindowFree (s.send o) where
  ready := h.ready
  base := h.base
  inv := h.inv
  lines := h.lines
  watches := h.watches
  free := h.free

variable {s : State}

theorem WindowFree.rangeHeld (h : WindowFree s) (pa n : Nat) : s.rangeHeld pa n = false := by
  simp [State.rangeHeld, h.free]

theorem State.purge_of_no_lines (h : s.lines = []) (base : Nat) : s.purge base = s := by
  simp [State.purge, h]

theorem hbmAddr_of_lt {pa : Nat} (h : pa < 2 ^ 36) : hbmAddr pa = true := by
  simp only [hbmAddr, Bool.and_eq_true, decide_eq_true_eq]
  omega

theorem State.notifyHbm_of_noWatches (h : NoWatches s) (pa : Nat) : s.notifyHbm pa = s := by
  have hnone : (s.cores.flatMap fun c => c.2.watches.map fun w => w.place) = [] := by
    rw [List.flatMap_eq_nil_iff]
    intro c hc
    rw [h c hc, List.map_nil]
  simp [State.notifyHbm, hnone]

theorem State.hbmTo_eq_withMem (hi : s.Inv) (pa tag : Nat) :
    ∃ m g, s.hbmTo pa tag = s.withMem m g ∧ m.wf = true ∧ tget 0 g (pa / 256) = tag := by
  by_cases h : tget 0 s.hbmTag (pa / 256) = tag
  · exact ⟨s.mem, s.hbmTag, if_pos h, hi, h⟩
  · exact ⟨_, _, if_neg h, Memory.wf_putBytes _ _ hi, tget_tset_same ..⟩

/-- A doubleword of HBM holds `v` under key 0, and no poison code. -/
structure Holds (s : State) (pa : Nat) (v : Word) : Prop where
  tag   : tget 0 s.hbmTag (pa / 256) = 0
  clean : s.mem.anyPoison pa 8 = false
  bytes : s.mem.bytes pa 8 = bytesOf 8 v.toNat
  value : s.mem.read pa 8 = v.toNat

theorem WindowFree.hostWord (h : WindowFree s) {pa : Nat} (ha : pa % 8 = 0) (v : Word) :
    ∃ m g, s.hostWord pa 8 v.toNat = s.withMem m g ∧ m.wf = true ∧ Holds (s.withMem m g) pa v := by
  obtain ⟨m, g, hto, hm, hg⟩ := s.hbmTo_eq_withMem h.inv pa 0
  refine ⟨m.store pa 8 v.toNat, g, ?_, Memory.wf_store _ _ _ hm, hg, Memory.anyPoison_store_doubleword hm ha,
    Memory.bytes_store_doubleword hm ha, Memory.read_store_doubleword hm ha v⟩
  dsimp only [State.hostWord]
  rw [State.purge_of_no_lines h.lines, hto]
  exact State.notifyHbm_of_noWatches (s := s.withMem (m.store pa 8 v.toNat) g) h.watches pa

theorem State.hostWrite_doubleword {pa : Nat} (ha : pa % 8 = 0) (hpa : hbmAddr pa = true) (v : Word) (k : Nat) :
    s.hostWrite pa (bytesOf 8 v.toNat) (k + 2) = s.hostWord pa 8 v.toNat := by
  have hlen : min (8 - pa % 8) (bytesOf 8 v.toNat).length = 8 := by rw [ha, length_bytesOf]; rfl
  have hne : (bytesOf 8 v.toNat).isEmpty = false := rfl
  have htake : (bytesOf 8 v.toNat).take 8 = bytesOf 8 v.toNat := rfl
  have hdrop : (bytesOf 8 v.toNat).drop 8 = [] := rfl
  rw [State.hostWrite]
  simp only [hne, hlen, htake, hdrop, hpa, bytesVal_word, if_true]
  rfl

theorem State.hostRead_eq_bytes (hl : s.lines = []) {n pa : Nat} (hpa : ∀ j, j < n → hbmAddr (pa + j) = true)
    (ht : ∀ j, j < n → tget 0 s.hbmTag ((pa + j) / 256) = 0) : s.hostRead pa n = (s.mem.bytes pa n, s) := by
  induction n generalizing pa with
  | zero => rfl
  | succ n ih =>
    have h0 : hbmAddr pa = true := hpa 0 (by omega)
    have hb : s.hbmByte pa 0 = s.mem.byte pa := if_pos (ht 0 (by omega))
    have hn : s.hostRead (pa + 1) n = (s.mem.bytes (pa + 1) n, s) :=
      ih (fun j hj => by rw [Nat.add_assoc, Nat.add_comm 1]; exact hpa (j + 1) (by omega))
        fun j hj => by rw [Nat.add_assoc, Nat.add_comm 1]; exact ht (j + 1) (by omega)
    simp only [State.hostRead, h0, if_true, State.purge_of_no_lines hl, hb, hn]
    rfl

theorem Holds.hostRead {pa : Nat} {v : Word} (h : Holds s pa v) (hl : s.lines = []) (ha : pa % 8 = 0) (hpa : pa + 8 ≤ 2 ^ 36) :
    s.hostRead pa 8 = (bytesOf 8 v.toNat, s) := by
  rw [State.hostRead_eq_bytes hl (fun j hj => hbmAddr_of_lt (by omega)) fun j hj => ?_, h.bytes]
  rw [show (pa + j) / 256 = pa / 256 by omega]
  exact h.tag

theorem Holds.sendWindow {pa : Nat} {v : Word} (h : Holds s pa v) :
    s.sendWindow pa (bytesOf 8 v.toNat) = s.send (.window (bytesOf 8 v.toNat)) := by
  unfold State.sendWindow
  rw [length_bytesOf, h.clean]
  rfl

theorem WindowFree.address (h : WindowFree s) (off : Nat) : s.w4base.toNat * 2 ^ 30 + off = off := by
  rw [h.base]
  exact Nat.zero_add off

theorem WindowFree.isReady (h : WindowFree s) : ¬ (s.ready = false ∧ s.recovery = false) := by
  rw [h.ready]
  simp

theorem exec_bar4WindowAccess (a : WinAccess) (s : State) : exec (.bar4WindowAccess a) s = execBar4WindowAccess a s := rfl

section
variable {off : Nat} (h : WindowFree s) (ha : off % 8 = 0) (hoff : off + 8 ≤ 2 ^ 36)
include h ha hoff

theorem WindowFree.exec_write (v : Word) :
    ∃ m g, exec (.bar4WindowAccess (.write off (bytesOf 8 v.toNat))) s = .next (s.withMem m g) ∧ WindowFree (s.withMem m g) ∧
      Holds (s.withMem m g) off v := by
  obtain ⟨m, g, hw, hm, hh⟩ := h.hostWord ha v
  refine ⟨m, g, ?_, h.withMem hm, hh⟩
  simp only [exec_bar4WindowAccess, execBar4WindowAccess, if_neg h.isReady, h.rangeHeld, Bool.or_false, decide_eq_true_eq, h.address,
    length_bytesOf]
  rw [if_neg (by omega), State.hostWrite_doubleword ha (hbmAddr_of_lt (by omega)) v 7, hw]

theorem WindowFree.exec_read {v : Word} (hh : Holds s off v) :
    exec (.bar4WindowAccess (.read off 8)) s = .next (s.send (.window (bytesOf 8 v.toNat))) := by
  simp only [exec_bar4WindowAccess, execBar4WindowAccess, if_neg h.isReady, h.rangeHeld, Bool.or_false, decide_eq_true_eq, h.address,
    hh.hostRead h.lines ha hoff, hh.sendWindow]
  exact if_neg (by omega)

theorem WindowFree.exec_fetchAdd {v : Word} (hh : Holds s off v) (x : Word) :
    ∃ u, exec (.bar4WindowAccess (.atomic off 8 (.fetchAdd x))) s = .next u ∧
      u.outbox = s.outbox ++ [.window (bytesOf 8 v.toNat)] ∧ u.mem.read off 8 = (v + x).toNat := by
  obtain ⟨m, g, hw, -, hnew⟩ := (h.send (.window (bytesOf 8 v.toNat))).hostWord ha (v + x)
  have hsum : busAmo 8 (bytesVal (bytesOf 8 v.toNat)) (.fetchAdd x) = (v + x).toNat := by
    rw [bytesVal_word, BitVec.toNat_add]
    rfl
  refine ⟨(s.send (.window (bytesOf 8 v.toNat))).withMem m g, ?_, rfl, hnew.value⟩
  simp only [exec_bar4WindowAccess, execBar4WindowAccess, if_neg h.isReady, h.rangeHeld, Bool.false_eq_true, or_false, h.address]
  rw [if_neg (by omega), State.hostAtomic, hh.hostRead h.lines ha hoff]
  simp only [hh.sendWindow, hh.clean, hsum]
  rw [if_neg (by decide), ← hw]
  exact congrArg _ (State.hostWrite_doubleword ha (hbmAddr_of_lt (by omega)) (v + x) 6)

end

end Sys2Proof.Machine
end

section
/-! SUPPORT. The sensors of an island (R491, R492), the exports, and the statement on the host interface. -/

namespace Sys2Proof

theorem tfind_tset_same {α : Type} (m : Table α) (k : Nat) (v : α) : tfind (tset m k v) k = some v := by
  induction m with
  | nil => simp [tset, tfind]
  | cons e m ih =>
    obtain ⟨j, w⟩ := e
    simp only [tset]
    split
    · simp [tfind]
    · split
      · simp [tfind]
      · simp [tfind, *]

end Sys2Proof

namespace Sys2Proof.Machine

variable {s : State}

/-! ## The word of an island -/

/-- The readings and the alarm as the word of an island holds them (R491). -/
def islandWord (temp curr volt : BitVec 16) (alarm : Bool) : Word :=
  BitVec.ofNat 64 (temp.toNat * 2 ^ 48 + curr.toNat * 2 ^ 32 + volt.toNat * 2 ^ 16 + bitAt alarm 0)

theorem islandWord_alarm (temp curr volt : BitVec 16) : (islandWord temp curr volt true).getLsbD 0 = true := by
  have hodd : (temp.toNat * 2 ^ 48 + curr.toNat * 2 ^ 32 + volt.toNat * 2 ^ 16 + 2 ^ 0) % 2 = 1 := by omega
  simp only [islandWord, bitAt, if_true, BitVec.getLsbD_ofNat, Nat.testBit_zero, hodd]
  rfl

theorem islandWord_toNat (temp curr volt : BitVec 16) :
    (islandWord temp curr volt true).toNat = temp.toNat * 2 ^ 48 + curr.toNat * 2 ^ 32 + volt.toNat * 2 ^ 16 + 1 := by
  have ht := temp.isLt
  have hc := curr.isLt
  have hv := volt.isLt
  simp only [islandWord, bitAt, if_true, BitVec.toNat_ofNat]
  omega

theorem islandWord_temp (temp curr volt : BitVec 16) : (islandWord temp curr volt true).extractLsb' 48 16 = temp := by
  have ht := temp.isLt
  have hc := curr.isLt
  have hv := volt.isLt
  refine BitVec.eq_of_toNat_eq ?_
  rw [BitVec.extractLsb'_toNat, islandWord_toNat, Nat.shiftRight_eq_div_pow]
  omega

theorem islandWord_curr (temp curr volt : BitVec 16) : (islandWord temp curr volt true).extractLsb' 32 16 = curr := by
  have ht := temp.isLt
  have hc := curr.isLt
  have hv := volt.isLt
  refine BitVec.eq_of_toNat_eq ?_
  rw [BitVec.extractLsb'_toNat, islandWord_toNat, Nat.shiftRight_eq_div_pow]
  omega

/-! ## The cores of the island follow its alarm -/

/-- Does no tile command run on core `c`, so that the alarm of its island narrows it (R358, R492)? -/
def Narrows (s : State) (c : Nat) : Prop :=
  (∀ x ∈ (s.core c).tileQ, x.started = false) ∧ (tget 0 s.isles (islandOf c)).getLsbD 0 = true

theorem State.settleMode_isles (d : Nat) : (s.settleMode d).isles = s.isles := by
  unfold State.settleMode
  split <;> rfl

theorem State.settleMode_mem (d : Nat) : (s.settleMode d).mem = s.mem := by
  unfold State.settleMode
  split <;> rfl

theorem State.settleMode_threads (d : Nat) : (s.settleMode d).threads = s.threads := by
  unfold State.settleMode
  split <;> rfl

theorem State.core_modCore_same (c : Nat) (f : Core → Core) : (s.modCore c f).core c = f (s.core c) := tget_tmod_same ..

theorem State.core_modCore_other {c d : Nat} (f : Core → Core) (h : c ≠ d) : (s.modCore d f).core c = s.core c := tget_tmod_other _ _ _ h

theorem State.settleMode_narrow {c : Nat} (h : Narrows s c) : ((s.settleMode c).core c).narrow = true := by
  obtain ⟨hq, halarm⟩ := h
  have hidle : ¬ ((s.core c).tileQ.any fun x => x.started) = true := by
    rw [Bool.not_eq_true, List.any_eq_false]
    intro x hx
    rw [hq x hx]
    exact Bool.false_ne_true
  rw [State.settleMode, if_neg hidle, State.core_modCore_same]
  exact halarm

theorem State.settleMode_core_other {c d : Nat} (h : c ≠ d) : (s.settleMode d).core c = s.core c := by
  unfold State.settleMode
  split
  · rfl
  · exact State.core_modCore_other _ h

theorem State.settleMode_tileQ (c d : Nat) : ((s.settleMode d).core c).tileQ = (s.core c).tileQ := by
  by_cases h : c = d
  · subst h
    unfold State.settleMode
    split
    · rfl
    · rw [State.core_modCore_same]
  · rw [State.settleMode_core_other h]

theorem Narrows.settleMode {c : Nat} (h : Narrows s c) (d : Nat) : Narrows (s.settleMode d) c := by
  unfold Narrows
  rw [State.settleMode_tileQ, State.settleMode_isles]
  exact h

/-- The cores of a list take the mode of their islands. -/
def State.settleModes (s : State) (l : List Nat) : State := l.foldl (fun s c => s.settleMode c) s

theorem State.settleModes_frame (l : List Nat) :
    (s.settleModes l).isles = s.isles ∧ (s.settleModes l).mem = s.mem ∧ (s.settleModes l).threads = s.threads := by
  induction l generalizing s with
  | nil => exact ⟨rfl, rfl, rfl⟩
  | cons d l ih =>
    obtain ⟨hi, hm, ht⟩ := ih (s := s.settleMode d)
    exact ⟨hi.trans (State.settleMode_isles d), hm.trans (State.settleMode_mem d), ht.trans (State.settleMode_threads d)⟩

theorem State.settleModes_keeps_narrow {c : Nat} {l : List Nat} (h : Narrows s c) (hn : (s.core c).narrow = true) :
    ((s.settleModes l).core c).narrow = true := by
  induction l generalizing s with
  | nil => exact hn
  | cons d l ih =>
    refine ih (h.settleMode d) ?_
    by_cases hcd : c = d
    · exact hcd ▸ State.settleMode_narrow h
    · rw [State.settleMode_core_other hcd]
      exact hn

theorem State.settleModes_narrow {c : Nat} {l : List Nat} (hc : c ∈ l) (h : Narrows s c) : ((s.settleModes l).core c).narrow = true := by
  induction l generalizing s with
  | nil => cases hc
  | cons d l ih =>
    change (((s.settleMode d).settleModes l).core c).narrow = true
    rcases List.mem_cons.mp hc with rfl | hc
    · exact State.settleModes_keeps_narrow (h.settleMode c) (State.settleMode_narrow h)
    · exact ih hc (h.settleMode d)

/-- The state with the word of an island replaced. -/
def State.withIsland (s : State) (island : Nat) (v : Word) : State := { s with isles := tset s.isles island v }

/-- What an alarm leaves: the word of its island, the idle cores there narrowed, and an entry of the log. -/
structure AlarmRaised (s t : State) (island : Nat) (v : Word) : Prop where
  word    : tget 0 t.isles island = v
  narrow  : ∀ c, c < 2048 → islandOf c = island → (∀ x ∈ (s.core c).tileQ, x.started = false) → (t.core c).narrow = true
  lognew  : t.lognew = true
  mem     : t.mem = s.mem
  threads : t.threads = s.threads

theorem alarmRaised_logEvent {island : Nat} {v : Word} {l : List Nat} (hv : v.getLsbD 0 = true)
    (hl : ∀ c, c < 2048 → islandOf c = island → c ∈ l) (sub : BitVec 8) (d0 d1 : Word) :
    AlarmRaised s (((s.withIsland island v).settleModes l).logEvent 1 sub d0 d1) island v := by
  have hword : tget 0 (s.withIsland island v).isles island = v := tget_tset_same ..
  obtain ⟨hisles, hmem, hth⟩ := (s.withIsland island v).settleModes_frame l
  refine ⟨(congrArg (tget 0 · island) hisles).trans hword, fun c hc hisle hq => ?_, rfl, hmem, hth⟩
  refine State.settleModes_narrow (hl c hc hisle) ⟨hq, ?_⟩
  rw [hisle, hword]
  exact hv

theorem exec_islandSensorRefresh_raises (hr : s.ready = true) {island : Nat} (hi : island < 512)
    (hwas : (tget 0 s.isles island).getLsbD 0 = false) {temp curr : BitVec 16} (hot : 6720 < temp.toNat ∨ 30000 < curr.toNat)
    (volt : BitVec 16) :
    ∃ t, exec (.islandSensorRefresh island temp curr volt false) s = .next t ∧
      AlarmRaised s t island (islandWord temp curr volt true) := by
  have hnow : (decide (6720 < temp.toNat) || decide (30000 < curr.toNat)) = true := by simpa using hot
  have hgo : ¬ (s.ready = false ∨ 512 ≤ island) := by
    rw [hr]
    simp [hi]
  refine ⟨_, ?_, alarmRaised_logEvent (l := (List.range 2048).filter fun c => islandOf c == island) (islandWord_alarm ..)
    (fun c hc hisle => List.mem_filter.mpr ⟨List.mem_range.mpr hc, beq_iff_eq.mpr hisle⟩)
    (if decide (6720 < temp.toNat) && decide (30000 < curr.toNat) then 3 else if decide (30000 < curr.toNat) then 1 else 2)
    (BitVec.ofNat 64 island) (islandWord temp curr volt true)⟩
  change execIslandSensorRefresh island temp curr volt false s = _
  simp only [execIslandSensorRefresh, if_neg hgo, hwas, hnow, Bool.false_and, Bool.not_false, Bool.and_self, if_true,
    Bool.false_eq_true, if_false]
  rfl

theorem exec_exportEntryWrite {pad e : Nat} {d : Paddock} {w0 w1 : Word} (hd : tfind s.paddocks pad = some d) (he : e < 64) :
    exec (.exportEntryWrite pad e w0 w1) s =
      .next { s with paddocks := tset s.paddocks pad { d with exports := tset d.exports e (w0, w1) } } := by
  change execExportEntryWrite pad e w0 w1 s = _
  unfold execExportEntryWrite
  rw [if_neg (by omega), hd]

theorem exec_logFlashCopy (hr : s.ready = true) : exec .logFlashCopy s = .next { s with flashLog := s.log } := by
  change execLogFlashCopy s = _
  unfold execLogFlashCopy
  rw [hr]
  rfl

theorem exec_bar0 (off n : Nat) (v : Word) : exec (.registerWrite (.bar0 off n v)) s = .next (s.bar0Write off n v) := rfl

theorem exec_bar2 (off n : Nat) (v : Word) : exec (.registerWrite (.bar2 off n v)) s = .next (s.bar2Write off n v) := rfl

/-- Settles O33: each clause is the lemma of its register, of the window, of the sensors, of the log or of the exports. -/
theorem hostRegisters : Obligations.HostRegisters := by
  intro s v n k off slot island pad e temp curr volt w0 w1 d hr
  refine ⟨?mstatus, ?command, ?running, ?cmdres, ?record, ?bad, ?window, ?sensor, ?log, ?exports⟩
  case mstatus =>
    rw [exec_bar0, State.bar0Write_mstatus]
    exact ⟨_, rfl, rfl, rfl, rfl, rfl⟩
  case command =>
    intro hc hk
    refine ⟨{ s with cmd := tset s.cmd k v }, ?_, tget_tset_same .., fun j hj => tget_tset_other _ _ _ hj, rfl⟩
    rw [exec_bar0, State.bar0Write_command hk, if_neg hc]
  case running =>
    intro hc hk
    rw [exec_bar0, State.bar0Write_command hk, if_pos hc]
  case cmdres =>
    intro hc
    rw [exec_bar0, State.bar0Write_cmdres hr hc]
    exact ⟨_, rfl, rfl, rfl, rfl⟩
  case record =>
    intro hs hk ha
    have h := recordWritten_bar2Write (v := v) hs hk ha
    exact ⟨_, exec_bar2 .., h.word, h.threads⟩
  case bad =>
    intro h
    constructor
    · rw [exec_bar0, State.bar0Write, bar0Takes_other h]
      rfl
    · rw [State.bar0Read, bar0Takes_other h]
      rfl
  case window =>
    intro hi hb ha hoff hl hw hf
    have h : WindowFree s := ⟨hr, hb, hi, hl, hw, hf⟩
    obtain ⟨m, g, hexec, ht, hh⟩ := h.exec_write ha hoff v
    obtain ⟨u, hadd, hout, hsum⟩ := ht.exec_fetchAdd ha hoff hh w0
    exact ⟨s.withMem m g, hexec, hh.value, rfl, ⟨_, ht.exec_read ha hoff hh, rfl⟩, u, hadd, hout, hsum⟩
  case sensor =>
    intro hi hwas hot
    obtain ⟨t, hexec, hword, hnarrow, hlog, hmem, hth⟩ := exec_islandSensorRefresh_raises hr hi hwas hot volt
    refine ⟨t, hexec, ?_, ?_, ?_, hnarrow, hlog, hmem, hth⟩
    · rw [hword, islandWord_alarm]
    · rw [hword, islandWord_temp]
    · rw [hword, islandWord_curr]
  case log => exact ⟨_, exec_logFlashCopy hr, rfl, rfl⟩
  case exports =>
    intro hd he
    exact ⟨_, { d with exports := tset d.exports e (w0, w1) }, exec_exportEntryWrite hd he, tfind_tset_same .., tget_tset_same ..,
      fun j hj => tget_tset_other _ _ _ hj, rfl⟩

end Sys2Proof.Machine
end

section
/-! SUPPORT. One element of a memory before and after a store: its bytes, its poison code (R3, R293). -/

namespace Sys2Proof.Machine

theorem mem_removeNat_of_mem {l : List Nat} {a b : Nat} (h : b ∈ removeNat l a) : b ∈ l := by
  induction l with
  | nil => cases h
  | cons j l ih =>
    unfold removeNat at h
    split at h
    · exact List.mem_cons_of_mem j h
    · rcases List.mem_cons.mp h with rfl | h
      · exact List.mem_cons_self
      · exact List.mem_cons_of_mem j (ih h)

theorem mem_removeNat_other {l : List Nat} {a b : Nat} (hb : b ≠ a) : b ∈ removeNat l a ↔ b ∈ l := by
  refine ⟨mem_removeNat_of_mem, fun h => ?_⟩
  induction l with
  | nil => cases h
  | cons j l ih =>
    unfold removeNat
    split
    · next haj => exact (List.mem_cons.mp h).resolve_left (haj ▸ hb)
    · rcases List.mem_cons.mp h with rfl | h
      · exact List.mem_cons_self
      · exact List.mem_cons_of_mem j (ih h)

theorem mem_insertNat {l : List Nat} {a b : Nat} : b ∈ insertNat l a ↔ b = a ∨ b ∈ l := by
  induction l with
  | nil => exact List.mem_cons
  | cons j l ih =>
    unfold insertNat
    split
    · next haj => simp [haj]
    · split
      · exact List.mem_cons
      · rw [List.mem_cons, ih, List.mem_cons, or_left_comm]

variable {m m' : Memory} {a b n : Nat}

theorem Memory.poisoned_iff : m.poisoned a = true ↔ a / 8 ∈ m.poison := List.elem_iff

theorem Memory.poisoned_cleanWord_other (h : b / 8 ≠ a / 8) : (m.cleanWord a).poisoned b = m.poisoned b := by
  rw [Bool.eq_iff_iff, Memory.poisoned_iff, Memory.poisoned_iff]
  exact mem_removeNat_other h

theorem Memory.poisoned_poisonWord_other (h : b / 8 ≠ a / 8) : (m.poisonWord a).poisoned b = m.poisoned b := by
  rw [Bool.eq_iff_iff, Memory.poisoned_iff, Memory.poisoned_iff]
  exact mem_insertNat.trans (or_iff_right h)

theorem Memory.poisoned_write (v : Nat) : (m.write a n v).poisoned b = m.poisoned b := by
  unfold Memory.poisoned
  rw [Memory.write_poison]

theorem Memory.anyPoison_eq_false_of_subset (hs : ∀ w ∈ m'.poison, w ∈ m.poison) (h : m.anyPoison a n = false) :
    m'.anyPoison a n = false := by
  unfold Memory.anyPoison at h ⊢
  rw [List.any_eq_false] at h ⊢
  exact fun w hw => h w (hs w hw)

theorem Memory.poisoned_eq_false_of_anyPoison (hn : 0 < n) (h : m.anyPoison a n = false) : m.poisoned a = false := by
  rw [Bool.eq_false_iff, Ne, Memory.poisoned_iff]
  intro hp
  have := List.any_eq_false.mp h _ hp
  simp only [Bool.and_eq_true, decide_eq_true_eq] at this
  omega

theorem Memory.read_congr (h : ∀ k, a ≤ k → k < a + n → m'.byte k = m.byte k) : m'.read a n = m.read a n := by
  induction n generalizing a with
  | zero => rfl
  | succ n ih =>
    unfold Memory.read
    rw [h a (by omega) (by omega), ih fun k h1 h2 => h k (by omega) (by omega)]

/-! ## A store of any width: a whole aligned word, a part of a poisoned word, a part of a clean one -/

theorem Memory.store_cases (m : Memory) (a n v : Nat) :
    m.store a n v = (m.cleanWord a).write a n v ∨ m.store a n v = m ∨ m.store a n v = m.write a n v := by
  unfold Memory.store
  split
  · next h => exact .inl (by rw [h.1])
  · split
    · exact .inr (.inl rfl)
    · exact .inr (.inr rfl)

theorem Memory.byte_store_outside (v : Nat) (hm : m.wf = true) (hb : b < a ∨ a + n ≤ b) : (m.store a n v).byte b = m.byte b := by
  rcases m.store_cases a n v with e | e | e <;> rw [e]
  · exact Memory.byte_write_outside v (Memory.wf_cleanWord a hm) hb
  · exact Memory.byte_write_outside v hm hb

theorem Memory.poison_store_subset (v : Nat) : ∀ w ∈ (m.store a n v).poison, w ∈ m.poison := by
  intro w hw
  rcases m.store_cases a n v with e | e | e <;> rw [e] at hw
  · rw [Memory.write_poison] at hw
    exact mem_removeNat_of_mem hw
  · exact hw
  · rwa [Memory.write_poison] at hw

theorem Memory.poisoned_store_other (v : Nat) (h : b / 8 ≠ a / 8) : (m.store a n v).poisoned b = m.poisoned b := by
  rcases m.store_cases a n v with e | e | e <;> rw [e]
  · rw [Memory.poisoned_write, Memory.poisoned_cleanWord_other h]
  · exact Memory.poisoned_write v

/-- What is stored in a clean word reads back. -/
theorem Memory.read_store_same (v : Nat) (hm : m.wf = true) (hp : m.poisoned a = false) : (m.store a n v).read a n = v % 256 ^ n := by
  unfold Memory.store
  split
  · next h =>
    rw [h.1]
    exact Memory.read_write_same a 8 v (Memory.wf_cleanWord a hm)
  · rw [if_neg (by simp [hp])]
    exact Memory.read_write_same a n v hm

end Sys2Proof.Machine
end

section
/-! SUPPORT. The stripe of a yard in its slice (R291, R385): an access to an element that stands there finds its line, and no
watch fires. -/

namespace Sys2Proof.Machine

variable {s : State} {c : Nat} {y : Yard}

/-! ## What stands in a table -/

theorem mem_tset {α : Type} {m : Table α} {k : Nat} {v : α} {e : Nat × α} (h : e ∈ tset m k v) : e = (k, v) ∨ e ∈ m := by
  induction m with
  | nil => exact .inl (List.mem_singleton.mp h)
  | cons x m ih =>
    obtain ⟨j, w⟩ := x
    simp only [tset] at h
    split at h
    · exact (List.mem_cons.mp h).imp_right (List.mem_cons_of_mem _)
    · split at h
      · exact List.mem_cons.mp h
      · rcases List.mem_cons.mp h with rfl | h
        · exact .inr List.mem_cons_self
        · exact (ih h).imp_right (List.mem_cons_of_mem _)

theorem tget_eq_or_mem {α : Type} (d : α) (m : Table α) (k : Nat) : tget d m k = d ∨ (k, tget d m k) ∈ m := by
  induction m with
  | nil => exact .inl rfl
  | cons x m ih =>
    obtain ⟨j, w⟩ := x
    simp only [tget]
    split
    · next hkj => exact .inr (hkj ▸ List.mem_cons_self)
    · exact ih.imp_right (List.mem_cons_of_mem _)

/-! ## No watches -/

theorem NoWatches.filter_eq_nil (h : NoWatches s) (p : WatchEnt → Bool) : (s.cores.flatMap fun k => k.2.watches.filter p) = [] := by
  rw [List.flatMap_eq_nil_iff]
  intro k hk
  rw [h k hk, List.filter_nil]

theorem State.fireAll_of_noWatches (h : NoWatches s) (hit : WatchEnt → Bool) : s.fireAll hit = s := by
  unfold State.fireAll
  rw [h.filter_eq_nil]

theorem State.notify_of_noWatches (h : NoWatches s) (p : Place) : s.notify p = s := by
  unfold State.notify
  simp only [h.filter_eq_nil, List.map_nil, List.filter_nil, List.append_nil]
  exact State.fireAll_of_noWatches h _

theorem State.freed_of_noWatches (s0 : State) (h : NoWatches s) : s0.freed s = s := State.fireAll_of_noWatches h _

theorem NoWatches.core (h : NoWatches s) (c : Nat) : (s.core c).watches = [] := by
  rcases tget_eq_or_mem Core.zero s.cores c with e | hm
  · exact congrArg Core.watches e
  · exact h _ hm

theorem NoWatches.modCore (h : NoWatches s) {f : Core → Core} (hf : (f (s.core c)).watches = (s.core c).watches) :
    NoWatches (s.modCore c f) := by
  intro e he
  rcases mem_tset he with rfl | he
  · exact hf.trans (h.core c)
  · exact h e he

/-! ## A line that stands in the slice -/

/-- The state with other slice lines and another memory. -/
def State.withLines (s : State) (ls : List Line) (m : Memory) : State := { s with lines := ls, mem := m }

/-- The place of element `j` of a stripe in the flat space of places. -/
def Yard.elemAt (y : Yard) (c j : Nat) : Nat := Region.slice c (y.base + j * 2 ^ y.ty.log)

theorem Resident.withLines (h : Resident s c y) {ls : List Line} {m : Memory}
    (hl : ∀ x ∈ s.lines, ∃ z ∈ ls, z.home = x.home ∧ z.pa = x.pa) (hk : ∀ z ∈ ls, ∃ x ∈ s.lines, x.home = z.home ∧ x.key = z.key)
    (hm : ∀ w ∈ m.poison, w ∈ s.mem.poison) : Resident (s.withLines ls m) c y where
  lines j hj := by
    obtain ⟨x, hx, hhome, hpa⟩ := h.lines j hj
    obtain ⟨z, hz, hzh, hzp⟩ := hl x hx
    exact ⟨z, hz, hzh.trans hhome, hzp.trans hpa⟩
  keys z hz hhome := by
    obtain ⟨x, hx, hxh, hxk⟩ := hk z hz
    exact hxk ▸ h.keys x hx (hxh.trans hhome)
  clean j hj := Memory.anyPoison_eq_false_of_subset hm (h.clean j hj)
  aligned := h.aligned
  inside := h.inside
  watches := h.watches

/-- Is a line the one at `base` in the slice of core `home`? -/
def Line.standsAt (home base : Nat) (l : Line) : Bool := l.home == home && l.pa == base

theorem Line.standsAt_iff {home base : Nat} {l : Line} : l.standsAt home base = true ↔ l.home = home ∧ l.pa = base := by
  simp [Line.standsAt]

/-- A line that stands in the slice under the key becomes the latest used, and nothing else changes. -/
theorem State.cacheLine_hit {home base key : Nat} {l : Line} (hf : s.lines.find? (Line.standsAt home base) = some l) (hk : l.key = key)
    (dup : Bool) : s.cacheLine home base key dup =
      (true, s.withLines ({ l with dup := l.dup && dup } :: s.lines.filter fun x => !x.standsAt home base) s.mem) := by
  unfold State.cacheLine
  rw [show s.lines.find? (fun x => x.home == home && x.pa == base) = some l from hf]
  exact if_pos hk

/-- The line of an element is found and becomes the latest used; whether it is marked dirty then makes no difference to the
stripe. -/
theorem Resident.inSlice (h : Resident s c y) {j : Nat} (hj : j < 2 ^ y.l) :
    ∃ l ls, s.inSlice c (y.base + j * 2 ^ y.ty.log) 0 false = (some (y.elemAt c j), s.withLines (l :: ls) s.mem) ∧
      ∀ d m, (∀ w ∈ m.poison, w ∈ s.mem.poison) → Resident (s.withLines ({ l with dirty := d } :: ls) m) c y := by
  obtain ⟨x, hx, hstands⟩ := h.lines j hj
  obtain ⟨l, hfind⟩ := Option.isSome_iff_exists.mp (List.find?_isSome.mpr ⟨x, hx, Line.standsAt_iff.mpr hstands⟩)
  have hl : l ∈ s.lines := List.mem_of_find?_eq_some hfind
  obtain ⟨hhome, hpa⟩ := Line.standsAt_iff.mp (List.find?_some hfind)
  refine ⟨{ l with dup := l.dup && false }, s.lines.filter fun z => !z.standsAt c ((y.base + j * 2 ^ y.ty.log) / 256 * 256), ?_,
    fun d m hm => h.withLines (fun z hz => ?_) (fun z hz => ?_) hm⟩
  · unfold State.inSlice
    rw [State.cacheLine_hit hfind (h.keys l hl hhome)]
    rfl
  · by_cases hzs : z.standsAt c ((y.base + j * 2 ^ y.ty.log) / 256 * 256) = true
    · obtain ⟨hzh, hzp⟩ := Line.standsAt_iff.mp hzs
      exact ⟨_, List.mem_cons_self, hhome.trans hzh.symm, hpa.trans hzp.symm⟩
    · exact ⟨z, List.mem_cons_of_mem _ (List.mem_filter.mpr ⟨hz, by simpa using hzs⟩), rfl, rfl⟩
  · rcases List.mem_cons.mp hz with rfl | hz
    · exact ⟨l, hl, rfl, rfl⟩
    · exact ⟨z, (List.mem_filter.mp hz).1, rfl, rfl⟩

/-! ## One element read, written and marked -/

theorem Resident.getStripe (h : Resident s c y) {j : Nat} (hj : j < 2 ^ y.l) :
    ∃ ls, s.getStripe c y j = ((s.stripe c y j, false), s.withLines ls s.mem) ∧ Resident (s.withLines ls s.mem) c y := by
  obtain ⟨l, ls, hin, hres⟩ := h.inSlice hj
  refine ⟨l :: ls, ?_, hres l.dirty s.mem fun _ hw => hw⟩
  have hclean : s.mem.anyPoison (y.elemAt c j) (2 ^ y.ty.log) = false := h.clean j hj
  simp only [State.getStripe, Yard.stripe, State.readPlace, hin]
  rw [show (s.withLines (l :: ls) s.mem).mem = s.mem from rfl, hclean]
  rfl

theorem Resident.putStripe_clean (h : Resident s c y) {j : Nat} (hj : j < 2 ^ y.l) (v : Nat) :
    ∃ ls, s.putStripe c y j (v, false) = s.withLines ls (s.mem.store (y.elemAt c j) (2 ^ y.ty.log) v) ∧
      Resident (s.withLines ls (s.mem.store (y.elemAt c j) (2 ^ y.ty.log) v)) c y := by
  obtain ⟨l, ls, hin, hres⟩ := h.inSlice hj
  refine ⟨{ l with dirty := true } :: ls, ?_, hres true _ (Memory.poison_store_subset v)⟩
  have hput : s.putPlace (y.stripe c j) (2 ^ y.ty.log) v =
      s.withLines ({ l with dirty := true } :: ls) (s.mem.store (y.elemAt c j) (2 ^ y.ty.log) v) := by
    unfold Yard.stripe State.putPlace
    simp only [hin]
    rfl
  change (s.putPlace (y.stripe c j) (2 ^ y.ty.log) v).notify (y.stripe c j) = _
  rw [hput]
  exact State.notify_of_noWatches (hres true _ (Memory.poison_store_subset v)).watches _

theorem Resident.putStripe_poison (h : Resident s c y) {j : Nat} (hj : j < 2 ^ y.l) (v : Nat) :
    ∃ ls, s.putStripe c y j (v, true) = s.withLines ls (s.mem.poisonWord (y.elemAt c j)) := by
  obtain ⟨l, ls, hin, -⟩ := h.inSlice hj
  refine ⟨{ l with dirty := true } :: ls, ?_⟩
  simp only [State.putStripe, if_true, Yard.stripe, State.markPlace, hin]
  rfl

/-! ## Where the elements stand -/

theorem Yard.elemAt_eq (y : Yard) (c j : Nat) : y.elemAt c j = Region.slice c y.base + j * 2 ^ y.ty.log := by
  unfold Yard.elemAt Region.slice
  omega

theorem Yard.elemAt_bounds (y : Yard) (c : Nat) {j : Nat} (hj : j < 2 ^ y.l) :
    Region.slice c y.base ≤ y.elemAt c j ∧ y.elemAt c j + 2 ^ y.ty.log ≤ Region.slice c y.base + 2 ^ y.l * 2 ^ y.ty.log := by
  have hle : (j + 1) * 2 ^ y.ty.log ≤ 2 ^ y.l * 2 ^ y.ty.log := Nat.mul_le_mul_right _ hj
  rw [Nat.succ_mul] at hle
  rw [Yard.elemAt_eq]
  omega

theorem Yard.elemAt_apart (y : Yard) (c : Nat) {i j : Nat} (h : i ≠ j) :
    y.elemAt c i + 2 ^ y.ty.log ≤ y.elemAt c j ∨ y.elemAt c j + 2 ^ y.ty.log ≤ y.elemAt c i := by
  rw [Yard.elemAt_eq, Yard.elemAt_eq]
  rcases Nat.lt_or_gt_of_ne h with h | h
  · have hle : (i + 1) * 2 ^ y.ty.log ≤ j * 2 ^ y.ty.log := Nat.mul_le_mul_right _ h
    rw [Nat.succ_mul] at hle
    omega
  · have hle : (j + 1) * 2 ^ y.ty.log ≤ i * 2 ^ y.ty.log := Nat.mul_le_mul_right _ h
    rw [Nat.succ_mul] at hle
    omega

/-! ## What writes of some elements leave alone -/

/-- `t` comes from `s` by writes of the elements `js` of a stripe alone: only slice lines and memory may differ, no byte and no
poison code outside the stripe does, and no other element of the stripe does. -/
structure StripeWrites (s t : State) (c : Nat) (y : Yard) (js : List Nat) : Prop where
  state  : ∃ ls m, t = s.withLines ls m
  bytes  : ∀ a, a < Region.slice c y.base ∨ Region.slice c y.base + 2 ^ y.l * 2 ^ y.ty.log ≤ a → t.mem.byte a = s.mem.byte a
  words  : ∀ a, a / 8 * 8 + 8 ≤ Region.slice c y.base ∨ Region.slice c y.base + 2 ^ y.l * 2 ^ y.ty.log ≤ a / 8 * 8 →
    t.mem.poisoned a = s.mem.poisoned a
  others : ∀ i, i < 2 ^ y.l → i ∉ js → t.stripe c y i = s.stripe c y i

/-- What the bytes of one element keep of a number. -/
def Yard.stored (y : Yard) (v : Nat) : Nat := v % 2 ^ (8 * 2 ^ y.ty.log)

theorem StripeWrites.lines (s : State) (c : Nat) (y : Yard) (ls : List Line) (js : List Nat) :
    StripeWrites s (s.withLines ls s.mem) c y js where
  state := ⟨ls, s.mem, rfl⟩
  bytes _ _ := rfl
  words _ _ := rfl
  others _ _ _ := rfl

theorem StripeWrites.trans {t u : State} {js ks : List Nat} (h : StripeWrites s t c y js) (k : StripeWrites t u c y ks) :
    StripeWrites s u c y (js ++ ks) where
  state := by
    obtain ⟨ls, m, rfl⟩ := h.state
    obtain ⟨ls', m', rfl⟩ := k.state
    exact ⟨ls', m', rfl⟩
  bytes a ha := (k.bytes a ha).trans (h.bytes a ha)
  words a ha := (k.words a ha).trans (h.words a ha)
  others i hi hn := by
    rw [List.mem_append, not_or] at hn
    exact (k.others i hi hn.2).trans (h.others i hi hn.1)

/-- A memory in which one element of the stripe may have other bytes and another poison code, and nothing else. -/
theorem StripeWrites.of_element {j : Nat} (hj : j < 2 ^ y.l) (ls : List Line) {m : Memory}
    (hb : ∀ b, b < y.elemAt c j ∨ y.elemAt c j + 2 ^ y.ty.log ≤ b → m.byte b = s.mem.byte b)
    (hw : ∀ b, b / 8 ≠ y.elemAt c j / 8 → m.poisoned b = s.mem.poisoned b) : StripeWrites s (s.withLines ls m) c y [j] where
  state := ⟨ls, m, rfl⟩
  bytes a ha := hb a (by have := y.elemAt_bounds c hj; omega)
  words a ha := hw a (by have := y.elemAt_bounds c hj; have := Nat.two_pow_pos y.ty.log; omega)
  others i _ hn := Memory.read_congr fun k h1 h2 => hb k (by
    have := y.elemAt_apart c (List.ne_of_not_mem_cons hn)
    change y.elemAt c i ≤ k at h1
    change k < y.elemAt c i + 2 ^ y.ty.log at h2
    omega)

theorem Resident.putStripe (h : Resident s c y) (hi : s.Inv) {j : Nat} (hj : j < 2 ^ y.l) (v : Nat) :
    StripeWrites s (s.putStripe c y j (v, false)) c y [j] ∧ (s.putStripe c y j (v, false)).stripe c y j = y.stored v ∧
      Resident (s.putStripe c y j (v, false)) c y := by
  obtain ⟨ls, hput, hres⟩ := h.putStripe_clean hj v
  rw [hput]
  refine ⟨.of_element hj ls (fun b hb => Memory.byte_store_outside v hi hb) fun b hb => Memory.poisoned_store_other v hb, ?_, hres⟩
  have hclean := Memory.poisoned_eq_false_of_anyPoison (Nat.two_pow_pos _) (h.clean j hj)
  refine (Memory.read_store_same v hi hclean).trans ?_
  rw [Yard.stored, Nat.pow_mul]

theorem Resident.putStripe_writes (h : Resident s c y) (hi : s.Inv) {j : Nat} (hj : j < 2 ^ y.l) (x : Nat × Bool) :
    StripeWrites s (s.putStripe c y j x) c y [j] := by
  obtain ⟨v, p⟩ := x
  cases p with
  | false => exact (h.putStripe hi hj v).1
  | true =>
    obtain ⟨ls, hput⟩ := h.putStripe_poison hj v
    rw [hput]
    exact .of_element hj ls (fun b _ => Memory.byte_poisonWord ..) fun b hb => Memory.poisoned_poisonWord_other hb

end Sys2Proof.Machine
end

section
/-! SUPPORT. What an axis command does at one base (R412-R415), and the local indices of a tuple. -/

namespace Sys2Proof.Machine

/-! ## A bit set where it was zero -/

theorem add_two_pow_div {x q : Nat} (h : x.testBit q = false) : (x + 2 ^ q) / 2 ^ (q + 1) = x / 2 ^ (q + 1) := by
  have heven : ¬ x / 2 ^ q % 2 = 1 := by simpa [Nat.testBit_eq_decide_div_mod_eq] using h
  rw [Nat.pow_succ, ← Nat.div_div_eq_div_mul, ← Nat.div_div_eq_div_mul, Nat.add_div_right _ (Nat.two_pow_pos q)]
  omega

theorem testBit_add_two_pow_other {x q b : Nat} (h : x.testBit q = false) (hb : b ≠ q) : (x + 2 ^ q).testBit b = x.testBit b := by
  rcases Nat.lt_or_gt_of_ne hb with hlt | hgt
  · rw [Nat.add_comm]
    exact Nat.testBit_two_pow_add_gt hlt x
  · obtain ⟨k, rfl⟩ := Nat.exists_eq_add_of_lt hgt
    rw [show q + k + 1 = k + (q + 1) by omega, ← Nat.testBit_div_two_pow, add_two_pow_div h, Nat.testBit_div_two_pow]

theorem add_two_pow_lt {x q l : Nat} (h : x.testBit q = false) (hx : x < 2 ^ l) (hq : q < l) : x + 2 ^ q < 2 ^ l := by
  obtain ⟨k, rfl⟩ := Nat.exists_eq_add_of_lt hq
  rw [show q + k + 1 = k + (q + 1) by omega, Nat.pow_add, ← Nat.div_lt_iff_lt_mul (Nat.two_pow_pos _)] at hx ⊢
  rwa [add_two_pow_div h]

/-- The next bit of an entry's number put at position `q` of a local index. -/
def putBit (x i q : Nat) : Nat := x + i % 2 * 2 ^ q

theorem tupleIndex_cons (x i q : Nat) (qs : List Nat) : tupleIndex x i (q :: qs) = tupleIndex (putBit x i q) (i / 2) qs := rfl

theorem putBit_cases (x i q : Nat) : i % 2 = 0 ∧ putBit x i q = x ∨ i % 2 = 1 ∧ putBit x i q = x + 2 ^ q := by
  rcases Nat.mod_two_eq_zero_or_one i with h | h
  · exact .inl ⟨h, by simp [putBit, h]⟩
  · exact .inr ⟨h, by simp [putBit, h]⟩

theorem testBit_putBit_same {x q : Nat} (i : Nat) (h : x.testBit q = false) : (putBit x i q).testBit q = decide (i % 2 = 1) := by
  rcases putBit_cases x i q with ⟨hi, e⟩ | ⟨hi, e⟩
  · simp [e, hi, h]
  · simp [e, hi, h, Nat.add_comm x, Nat.testBit_two_pow_add_eq]

theorem testBit_putBit_other {x q b : Nat} (i : Nat) (h : x.testBit q = false) (hb : b ≠ q) :
    (putBit x i q).testBit b = x.testBit b := by
  rcases putBit_cases x i q with ⟨-, e⟩ | ⟨-, e⟩
  · rw [e]
  · rw [e, testBit_add_two_pow_other h hb]

theorem putBit_lt {x q l : Nat} (i : Nat) (h : x.testBit q = false) (hx : x < 2 ^ l) (hq : q < l) : putBit x i q < 2 ^ l := by
  rcases putBit_cases x i q with ⟨-, e⟩ | ⟨-, e⟩
  · rwa [e]
  · rw [e]
    exact add_two_pow_lt h hx hq

/-! ## The local indices of a tuple (R412, R413) -/

/-- `x` is the base of a tuple along the distinct local positions `qs`. -/
structure TupleBase (x : Nat) (qs : List Nat) : Prop where
  zero  : ∀ q ∈ qs, x.testBit q = false
  nodup : qs.Nodup

section
variable {x q : Nat} {qs : List Nat}

theorem TupleBase.head (h : TupleBase x (q :: qs)) : x.testBit q = false := h.zero q List.mem_cons_self

theorem TupleBase.tail (h : TupleBase x (q :: qs)) (i : Nat) : TupleBase (putBit x i q) qs where
  zero b hb := by
    have hne : b ≠ q := fun e => (List.nodup_cons.mp h.nodup).1 (e ▸ hb)
    rw [testBit_putBit_other i h.head hne, h.zero b (List.mem_cons_of_mem q hb)]
  nodup := (List.nodup_cons.mp h.nodup).2

theorem TupleBase.testBit_other (h : TupleBase x qs) (i : Nat) {b : Nat} (hb : b ∉ qs) : (tupleIndex x i qs).testBit b = x.testBit b := by
  induction qs generalizing x i with
  | nil => rfl
  | cons q qs ih =>
    rw [List.mem_cons, not_or] at hb
    rw [tupleIndex_cons, ih (h.tail i) (i / 2) hb.2, testBit_putBit_other i h.head hb.1]

theorem TupleBase.testBit_head (h : TupleBase x (q :: qs)) (i : Nat) :
    (tupleIndex x i (q :: qs)).testBit q = decide (i % 2 = 1) := by
  rw [tupleIndex_cons, (h.tail i).testBit_other (i / 2) (List.nodup_cons.mp h.nodup).1, testBit_putBit_same i h.head]

theorem TupleBase.lt (h : TupleBase x qs) {l : Nat} (i : Nat) (hx : x < 2 ^ l) (hq : ∀ q ∈ qs, q < l) : tupleIndex x i qs < 2 ^ l := by
  induction qs generalizing x i with
  | nil => exact hx
  | cons q qs ih =>
    exact ih (h.tail i) (i / 2) (putBit_lt i h.head hx (hq q List.mem_cons_self)) fun b hb => hq b (List.mem_cons_of_mem q hb)

/-- Different entries of a tuple stand at different local indices. -/
theorem TupleBase.injective (h : TupleBase x qs) {i k : Nat} (hi : i < 2 ^ qs.length) (hk : k < 2 ^ qs.length)
    (e : tupleIndex x i qs = tupleIndex x k qs) : i = k := by
  induction qs generalizing x i k with
  | nil =>
    rw [List.length_nil, Nat.pow_zero] at hi hk
    omega
  | cons q qs ih =>
    have hlow : i % 2 = k % 2 := by
      have hbit := h.testBit_head i
      rw [e, h.testBit_head k, decide_eq_decide] at hbit
      omega
    have hput : putBit x i q = putBit x k q := congrArg (fun r => x + r * 2 ^ q) hlow
    rw [List.length_cons, Nat.pow_succ] at hi hk
    rw [tupleIndex_cons, tupleIndex_cons, hput] at e
    have hhigh := ih (h.tail k) (i := i / 2) (k := k / 2) (by omega) (by omega) e
    omega

/-- The local indices of the tuple at base `x`, entry 0 first. -/
def tupleIndices (x : Nat) (qs : List Nat) : List Nat := (List.range (2 ^ qs.length)).map fun i => tupleIndex x i qs

theorem length_tupleIndices (x : Nat) (qs : List Nat) : (tupleIndices x qs).length = 2 ^ qs.length := by simp [tupleIndices]

theorem TupleBase.nodup_tupleIndices (h : TupleBase x qs) : (tupleIndices x qs).Nodup :=
  List.pairwise_map.mpr (List.Pairwise.imp_of_mem
    (fun hi hk hne e => hne (h.injective (List.mem_range.mp hi) (List.mem_range.mp hk) e)) List.nodup_range)

theorem TupleBase.tupleIndices_lt (h : TupleBase x qs) {l : Nat} (hx : x < 2 ^ l) (hq : ∀ q ∈ qs, q < l) :
    ∀ j ∈ tupleIndices x qs, j < 2 ^ l := by
  intro j hj
  obtain ⟨i, -, rfl⟩ := List.mem_map.mp hj
  exact h.lt i hx hq

end

/-! ## Reading and writing a tuple -/

variable {s : State} {c : Nat} {y : Yard}

theorem Resident.getTuple (h : Resident s c y) {js : List Nat} (hj : ∀ j ∈ js, j < 2 ^ y.l) :
    ∃ ls, s.getTuple c y js = (js.map fun j => (s.stripe c y j, false), s.withLines ls s.mem) ∧
      Resident (s.withLines ls s.mem) c y := by
  induction js generalizing s with
  | nil => exact ⟨s.lines, rfl, h⟩
  | cons j js ih =>
    obtain ⟨ls, hget, hres⟩ := h.getStripe (hj j List.mem_cons_self)
    obtain ⟨ls', htup, hres'⟩ := ih hres fun i hi => hj i (List.mem_cons_of_mem j hi)
    refine ⟨ls', ?_, hres'⟩
    simp only [State.getTuple, hget, htup]
    rfl

theorem Resident.putTuple (h : Resident s c y) (hi : s.Inv) {js : List Nat} {xs : List (Nat × Bool)} (hj : ∀ j ∈ js, j < 2 ^ y.l)
    (hn : js.Nodup) (hx : ∀ x ∈ xs, x.2 = false) :
    StripeWrites s (s.putTuple c y js xs) c y js ∧
      ∀ p ∈ js.zip xs, (s.putTuple c y js xs).stripe c y p.1 = y.stored p.2.1 := by
  induction js generalizing s xs with
  | nil => exact ⟨StripeWrites.lines s c y s.lines [], fun p hp => by cases hp⟩
  | cons j js ih =>
    cases xs with
    | nil => exact ⟨StripeWrites.lines s c y s.lines _, fun p hp => by cases hp⟩
    | cons x xs =>
      obtain ⟨v, bad⟩ := x
      obtain rfl : bad = false := hx _ List.mem_cons_self
      obtain ⟨hjs, hn⟩ := List.nodup_cons.mp hn
      have hjl := hj j List.mem_cons_self
      obtain ⟨hw, hv, hres⟩ := h.putStripe hi hjl v
      obtain ⟨hws, hvs⟩ := ih hres hi.putStripe (fun i hm => hj i (List.mem_cons_of_mem j hm)) hn
        fun z hz => hx z (List.mem_cons_of_mem _ hz)
      refine ⟨hw.trans hws, fun p hp => ?_⟩
      rcases List.mem_cons.mp hp with rfl | hp
      · exact (hws.others j hjl hjs).trans hv
      · exact hvs p hp

/-! ## One base of each command -/

/-- An accumulator as the engine puts it into the stripe. -/
def Yard.rounded (y : Yard) (v : Nat) : Nat := y.stored (axisRound y.ty v)

theorem Resident.axisOne (h : Resident s c y) (hi : s.Inv) {j : Nat} (hj : j < 2 ^ y.l) (f : Nat → Nat × Bool) :
    StripeWrites s (s.axisOne c y j f) c y [j] ∧
      ((f (s.stripe c y j)).2 = false → (s.axisOne c y j f).stripe c y j = y.rounded (f (s.stripe c y j)).1) := by
  obtain ⟨ls, hget, hres⟩ := h.getStripe hj
  have hone : s.axisOne c y j f =
      (s.withLines ls s.mem).putStripe c y j (axisRound y.ty (f (s.stripe c y j)).1, (f (s.stripe c y j)).2) := by
    simp only [State.axisOne, hget, Bool.false_or]
  rw [hone]
  refine ⟨(StripeWrites.lines s c y ls []).trans (hres.putStripe_writes hi hj _), fun hp => ?_⟩
  rw [hp]
  exact (hres.putStripe hi hj _).2.1

/-- The entries of a tuple as the stripe holds them. -/
def State.entries (s : State) (c : Nat) (y : Yard) (js : List Nat) : List (Nat × Bool) := js.map fun j => (s.stripe c y j, false)

theorem any_poisoned_entries (s : State) (c : Nat) (y : Yard) (js : List Nat) : ((s.entries c y js).any fun t => t.2) = false := by
  simp [State.entries]

/-- The rows of a matrix against a tuple, rounded to the yard's type. -/
def axaRows (y : Yard) (ts : List (Nat × Bool)) (mat : List Nat) (n : Nat) : List (Nat × Bool) :=
  (List.range n).map fun r => (axisRound y.ty (matRow y.ty ((mat.drop (r * n)).take n) ts 0), false)

theorem Resident.axaTuple (h : Resident s c y) (hi : s.Inv) {x : Nat} {qs : List Nat} (hb : TupleBase x qs) (hx : x < 2 ^ y.l)
    (hq : ∀ q ∈ qs, q < y.l) (mat : List Nat) :
    StripeWrites s (s.axaTuple c y (tupleIndices x qs) mat) c y (tupleIndices x qs) ∧
      ∀ r, r < 2 ^ qs.length → (s.axaTuple c y (tupleIndices x qs) mat).stripe c y (tupleIndex x r qs) =
        y.rounded (matRow y.ty ((mat.drop (r * 2 ^ qs.length)).take (2 ^ qs.length)) (s.entries c y (tupleIndices x qs)) 0) := by
  have hlt := hb.tupleIndices_lt hx hq
  obtain ⟨ls, hget, hres⟩ := h.getTuple hlt
  have htuple : s.axaTuple c y (tupleIndices x qs) mat = (s.withLines ls s.mem).putTuple c y (tupleIndices x qs)
      (axaRows y (s.entries c y (tupleIndices x qs)) mat (2 ^ qs.length)) := by
    have hany := any_poisoned_entries s c y (tupleIndices x qs)
    rw [← State.entries] at hget
    simp only [State.axaTuple, hget, hany, length_tupleIndices]
    rfl
  rw [htuple]
  obtain ⟨hw, hv⟩ := hres.putTuple hi hlt hb.nodup_tupleIndices (xs := axaRows y _ mat _)
    (fun z hz => by obtain ⟨r, -, rfl⟩ := List.mem_map.mp hz; rfl)
  refine ⟨(StripeWrites.lines s c y ls []).trans hw, fun r hr => ?_⟩
  refine hv (tupleIndex x r qs, axisRound y.ty (matRow y.ty ((mat.drop (r * 2 ^ qs.length)).take (2 ^ qs.length)) _ 0), false) ?_
  rw [tupleIndices, axaRows, List.zip_map']
  exact List.mem_map.mpr ⟨r, List.mem_range.mpr hr, rfl⟩

end Sys2Proof.Machine
end

section
/-! SUPPORT. AXIS_COMMAND_COMPLETE (R398, R412-R415, R418): the next base of a command, what the engine does there, and the
statement on the axis engine. -/

namespace Sys2Proof.Machine

/-! ## The next base -/

section
variable {op : AxisOp} {y : Yard} {x j n : Nat}

theorem AxisOp.base_iff : op.base y x = true ↔ ∀ list ctl val mat, op = .axa list ctl val mat →
    (∀ b ∈ list, x.testBit (y.place.getD b 0) = false) ∧ y.logicalIndex x ctl = val := by
  cases op with
  | axa list ctl val mat =>
    simp only [AxisOp.base, Bool.and_eq_true, List.all_eq_true, Bool.not_eq_true', beq_iff_eq]
    refine ⟨fun h _ _ _ _ e => ?_, fun h => h list ctl val mat rfl⟩
    cases e
    exact h
  | axd _ _ | axsScale _ | axsAxpy _ _ => exact ⟨fun _ => nofun, fun _ => rfl⟩

theorem AxisOp.next_eq_none (h : ∀ i, x ≤ i → i < x + n → ¬ op.base y i = true) : op.next y x n = none := by
  induction n generalizing x with
  | zero => rfl
  | succ n ih =>
    rw [AxisOp.next, if_neg (h x (by omega) (by omega))]
    exact ih fun i h1 h2 => h i (by omega) (by omega)

theorem AxisOp.next_eq_some (hx : x ≤ j) (hj : j < x + n) (hb : op.base y j = true) (hn : ∀ i, x ≤ i → i < j → ¬ op.base y i = true) :
    op.next y x n = some j := by
  induction n generalizing x with
  | zero => omega
  | succ n ih =>
    rw [AxisOp.next]
    by_cases hxj : x = j
    · rw [hxj, if_pos hb]
    · rw [if_neg (hn x (by omega) (by omega))]
      exact ih (by omega) (by omega) fun i h1 h2 => hn i (by omega) h2

/-- A command works at local index `j` of the stripe, and of `axa` every bit stands at a local position of its own. -/
structure AxisOp.WorksAt (op : AxisOp) (y : Yard) (j : Nat) : Prop where
  base   : op.base y j = true
  inside : j < 2 ^ y.l
  locals : ∀ list ctl val mat, op = .axa list ctl val mat →
    (list.map fun b => y.place.getD b 0).Nodup ∧ ∀ b ∈ list, y.place.getD b 0 < y.l

/-- The local positions of the bits of a list. -/
def Yard.positions (y : Yard) (list : List Nat) : List Nat := list.map fun b => y.place.getD b 0

theorem AxisOp.WorksAt.tupleBase {list ctl mat : List Nat} {val : Nat} (h : (AxisOp.axa list ctl val mat).WorksAt y j) :
    TupleBase j (y.positions list) where
  zero q hq := by
    obtain ⟨b, hb, rfl⟩ := List.mem_map.mp hq
    exact (AxisOp.base_iff.mp h.base list ctl val mat rfl).1 b hb
  nodup := (h.locals list ctl val mat rfl).1

theorem AxisOp.WorksAt.positions_lt {list ctl mat : List Nat} {val : Nat} (h : (AxisOp.axa list ctl val mat).WorksAt y j) :
    ∀ q ∈ y.positions list, q < y.l := by
  intro q hq
  obtain ⟨b, hb, rfl⟩ := List.mem_map.mp hq
  exact (h.locals list ctl val mat rfl).2 b hb

theorem AxisOp.WorksAt.tuple_lt (h : op.WorksAt y j) : ∀ i ∈ op.tuple y j, i < 2 ^ y.l := by
  cases op with
  | axa list ctl val mat => exact h.tupleBase.tupleIndices_lt h.inside h.positions_lt
  | axd _ _ | axsScale _ | axsAxpy _ _ => exact fun i hi => List.mem_singleton.mp hi ▸ h.inside

end

variable {s : State} {c : Nat}

section
variable {y : Yard} (hy : (s.core c).yard = y) (h : Resident s c y) (hi : s.Inv) {j : Nat}
include hy h hi

theorem Resident.axisStep_writes {op : AxisOp} (hw : op.WorksAt y j) : StripeWrites s (s.axisStep c op j) c y (op.tuple y j) := by
  subst hy
  cases op with
  | axa list ctl val mat => exact (h.axaTuple hi hw.tupleBase hw.inside hw.positions_lt mat).1
  | axd _ _ | axsScale _ | axsAxpy _ _ =>
    dsimp only [State.axisStep]
    exact (h.axisOne hi hw.inside _).1

theorem Resident.axisStep_axsScale (hj : j < 2 ^ y.l) (alpha : Nat) :
    (s.axisStep c (.axsScale alpha) j).stripe c y j = y.rounded (axisMac y.ty alpha (axisWiden y.ty (s.stripe c y j)) 0) := by
  subst hy
  dsimp only [State.axisStep]
  exact (h.axisOne hi hj _).2 rfl

theorem Resident.axisStep_axsAxpy (hj : j < 2 ^ y.l) (alpha : Nat) {xs : List (Nat × Bool)} (hx : (xs.getD j (0, false)).2 = false) :
    (s.axisStep c (.axsAxpy alpha xs) j).stripe c y j =
      y.rounded (axisMac y.ty alpha (axisWiden y.ty (xs.getD j (0, false)).1) (axisWiden y.ty (s.stripe c y j))) := by
  subst hy
  dsimp only [State.axisStep]
  exact (h.axisOne hi hj _).2 hx

theorem Resident.axisStep_axd (hj : j < 2 ^ y.l) (list tab : List Nat) : (s.axisStep c (.axd list tab) j).stripe c y j =
    y.rounded (axisMac y.ty (tab.getD (y.logicalIndex j list) 0) (axisWiden y.ty (s.stripe c y j)) 0) := by
  subst hy
  dsimp only [State.axisStep]
  exact (h.axisOne hi hj _).2 rfl

theorem Resident.axisStep_axa {list ctl mat : List Nat} {val : Nat} (hw : (AxisOp.axa list ctl val mat).WorksAt y j) {r : Nat}
    (hr : r < 2 ^ (y.positions list).length) :
    (s.axisStep c (.axa list ctl val mat) j).stripe c y (tupleIndex j r (y.positions list)) =
      y.rounded (matRow y.ty ((mat.drop (r * 2 ^ (y.positions list).length)).take (2 ^ (y.positions list).length))
        (s.entries c y (tupleIndices j (y.positions list))) 0) := by
  subst hy
  exact (h.axaTuple hi hw.tupleBase hw.inside hw.positions_lt mat).2 r hr

end

theorem getD_clean {xs : List (Nat × Bool)} (h : ∀ v ∈ xs, v.2 = false) (j : Nat) : (xs.getD j (0, false)).2 = false := by
  rw [List.getD_eq_getElem?_getD]
  cases e : xs[j]? with
  | none => rfl
  | some v => exact h v (List.mem_of_getElem? e)

/-! ## The turns of the engine -/

/-- The state after a command has left the queue. -/
def State.axisOver (s : State) (c : Nat) (rest : List AxisCmd) : State :=
  (State.freed s (s.modCore c fun k => { k with axisQ := rest })).advance c

/-- The state after a command has done its base `j`. -/
def State.axisDid (s : State) (c : Nat) (x : AxisCmd) (j : Nat) (rest : List AxisCmd) : State :=
  (State.freed s ((s.axisStep c x.op j).modCore c fun k => { k with axisQ := { x with pos := j + 1 } :: rest })).owe (.axisDone c)

section
variable {x : AxisCmd} {rest : List AxisCmd} (hq : (s.core c).axisQ = x :: rest)
include hq

theorem exec_axisCommandComplete_preempted (hp : (s.core c).preempted = true) :
    exec (.axisCommandComplete c) s = .next (s.owe (.axisDone c)) := by
  change execAxisCommandComplete c s = _
  simp only [execAxisCommandComplete, hq, hp, if_true]

variable (hp : (s.core c).preempted = false)
include hp

theorem exec_axisCommandComplete_toBegin (ht : (s.core c).yard.toBegin x.ser = true) (hd : (s.core c).yard.dead = false) :
    exec (.axisCommandComplete c) s = .next (s.owe (.axisDone c)) := by
  change execAxisCommandComplete c s = _
  simp only [execAxisCommandComplete, hq, hp, ht, hd, Bool.false_and, Bool.false_eq_true, if_true, if_false]

variable (ht : (s.core c).yard.toBegin x.ser = false)
include ht

theorem exec_axisCommandComplete_over (hn : x.op.next (s.core c).yard x.pos (2 ^ (s.core c).yard.l - x.pos) = none) :
    exec (.axisCommandComplete c) s = .next (s.axisOver c rest) := by
  change execAxisCommandComplete c s = _
  simp only [execAxisCommandComplete, hq, hp, ht, hn, Bool.false_eq_true, if_false]
  rfl

theorem exec_axisCommandComplete_step {j : Nat} (hn : x.op.next (s.core c).yard x.pos (2 ^ (s.core c).yard.l - x.pos) = some j)
    (hm : (s.core c).yard.moving = none)
    (hf : ∀ i ∈ x.op.tuple (s.core c).yard j,
      s.stripeHeld (s.core c).yard x.ser i = false ∧ s.stripeNoWay c (s.core c).yard x.ser i = false) :
    exec (.axisCommandComplete c) s = .next (s.axisDid c x j rest) := by
  have hbehind : ((x.op.tuple (s.core c).yard j).any fun i => !(s.core c).yard.behind x.ser i) = false := by
    simp [Yard.behind, ht, hm]
  have hfree : ((x.op.tuple (s.core c).yard j).any fun i =>
      s.stripeHeld (s.core c).yard x.ser i || s.stripeNoWay c (s.core c).yard x.ser i) = false := by
    rw [List.any_eq_false]
    intro i hi
    simp [hf i hi]
  change execAxisCommandComplete c s = _
  simp only [execAxisCommandComplete, hq, hp, ht, hn, hbehind, hfree, Bool.false_eq_true, if_false]
  rfl

end

theorem State.axisQ_modYard (s : State) (c : Nat) (f : Yard → Yard) : ((s.modYard c f).core c).axisQ = (s.core c).axisQ := by
  rw [State.modYard, State.core_modCore_same]

theorem State.core_owe (s : State) (d : Duty) (c : Nat) : (s.owe d).core c = s.core c := rfl

theorem State.core_sendTo (s : State) (peer : Nat) (b : Body) (c : Nat) : (s.sendTo peer b).core c = s.core c := rfl

theorem State.advance_frame (s : State) (c : Nat) :
    (s.advance c).mem = s.mem ∧ (s.advance c).threads = s.threads ∧ ((s.advance c).core c).axisQ = (s.core c).axisQ := by
  dsimp only [State.advance]
  split
  · split
    · exact ⟨rfl, rfl, rfl⟩
    · split
      · exact ⟨rfl, rfl, by rw [State.core_owe, State.axisQ_modYard]⟩
      · exact ⟨rfl, rfl, by rw [State.core_owe, State.core_sendTo, State.axisQ_modYard]⟩
  · exact ⟨rfl, rfl, rfl⟩

theorem State.axisOver_frame (h : NoWatches s) (rest : List AxisCmd) :
    ((s.axisOver c rest).core c).axisQ = rest ∧ (s.axisOver c rest).mem = s.mem ∧ (s.axisOver c rest).threads = s.threads := by
  have hno : NoWatches (s.modCore c fun k => { k with axisQ := rest }) := h.modCore rfl
  rw [State.axisOver, State.freed_of_noWatches s hno]
  obtain ⟨hmem, hth, hq⟩ := (s.modCore c fun k => { k with axisQ := rest }).advance_frame c
  exact ⟨hq.trans (congrArg Core.axisQ (State.core_modCore_same ..)), hmem, hth⟩

theorem StripeWrites.axisDid {x : AxisCmd} {j : Nat} {y : Yard} {js : List Nat} (hw : StripeWrites s (s.axisStep c x.op j) c y js)
    (h : NoWatches s) (rest : List AxisCmd) : s.axisDid c x j rest =
      ((s.axisStep c x.op j).modCore c fun k => { k with axisQ := { x with pos := j + 1 } :: rest }).owe (.axisDone c) := by
  obtain ⟨ls, m, e⟩ := hw.state
  have hno : NoWatches (s.axisStep c x.op j) := e ▸ h
  rw [State.axisDid, State.freed_of_noWatches s (hno.modCore rfl)]

/-- Settles O45: PREEMPT and a swap to begin leave all but the duty; a command without a base leaves the queue (`axisOver`); at
its next base a command writes its tuple alone (`Resident.axisStep_writes`), with the values of `Resident.axisOne` and
`Resident.axaTuple`. -/
theorem axisResults : Obligations.AxisResults := by
  intro s core j x rest hi y put wide works hq
  refine ⟨fun hp => exec_axisCommandComplete_preempted hq hp, fun hp hres => ⟨?toBegin, ?past, ?step⟩⟩
  case toBegin => exact fun ht hd => exec_axisCommandComplete_toBegin hq hp ht hd
  case past =>
    intro ht hn
    have hnext : x.op.next y x.pos (2 ^ y.l - x.pos) = none :=
      AxisOp.next_eq_none fun i h1 h2 hb => hn i h1 (by omega) (AxisOp.base_iff.mp hb)
    exact ⟨_, exec_axisCommandComplete_over hq hp ht hnext, State.axisOver_frame hres.watches rest⟩
  case step =>
    intro hm htrig hfree hpos hj hb hleast hlocal
    have hw : x.op.WorksAt y j := ⟨AxisOp.base_iff.mpr hb, hj, hlocal⟩
    have hnext : x.op.next y x.pos (2 ^ y.l - x.pos) = some j :=
      AxisOp.next_eq_some hpos (by omega) hw.base fun i h1 h2 hib => hleast i h1 h2 (AxisOp.base_iff.mp hib)
    have ht : y.toBegin x.ser = false := by simp [Yard.toBegin, htrig]
    have hwrites := hres.axisStep_writes rfl hi hw
    refine ⟨_, exec_axisCommandComplete_step hq hp ht hnext hm fun i him => hfree i (hw.tuple_lt i him), ?_⟩
    rw [hwrites.axisDid hres.watches]
    obtain ⟨ls, m, hstate⟩ := hwrites.state
    refine ⟨by rw [State.core_owe, State.core_modCore_same], ?_, ?_, hwrites.bytes, hwrites.words, hwrites.others, ?scale, ?axpy, ?axd, ?axa⟩
    · change (s.axisStep core x.op j).due ++ [.axisDone core] = s.due ++ [.axisDone core]
      rw [hstate]
      rfl
    · change (s.axisStep core x.op j).threads = s.threads
      rw [hstate]
      rfl
    case scale =>
      intro alpha hop
      rw [hop]
      exact hres.axisStep_axsScale rfl hi hj alpha
    case axpy =>
      intro alpha xs hop hclean
      rw [hop]
      exact hres.axisStep_axsAxpy rfl hi hj alpha (getD_clean hclean j)
    case axd =>
      intro list tab hop
      rw [hop]
      exact hres.axisStep_axd rfl hi hj list tab
    case axa =>
      intro list ctl val mat hop
      rw [hop] at hw ⊢
      intro qs tuple r hr
      have htuple : s.entries core y (tupleIndices j qs) = tuple := List.map_map
      exact htuple ▸ hres.axisStep_axa rfl hi hw hr

end Sys2Proof.Machine
end
